-- ==== Sys2Proof/Word.lean ====
section
/-! DEFINITION. The word types of the Darsil and the presence state of a word (R2, R122, R124). -/

namespace Sys2Proof

/-- A scalar register, a CSR, an address while it is computed, or a 64-bit memory word. -/
abbrev Word := BitVec 64

/-- The smallest addressable unit of memory. -/
abbrev Byte := BitVec 8

/-- A vector register: 1,024 bits, element 0 in the low bits (R122). -/
abbrev VWord := BitVec 1024

/-- An FP32 bit pattern (R138). -/
abbrev F32 := BitVec 32

/-- The presence state of a register or of a 64-bit memory word (R124): EMPTY 00, FULL 01, VOID 10. -/
inductive Presence where
  | empty
  | full
  | void
  deriving DecidableEq, Repr

end Sys2Proof
end

