-- ==== Sys2Proof/Syntax.lean ====
section
/-! DEFINITION. The whole instruction set and the device's own steps: one constructor of `Instr` per row of the
opcode table, and the plain data that the steps without an encoding carry. -/

namespace Sys2Proof

/-- Why a word is not an instruction (R82), named by the fault it raises. -/
inductive Reject where
  /-- Fault 0x01: reserved major, function, command or selecting value, or a major the core kind lacks; EVAL = the word. -/
  | reserved (word : BitVec 32)
  /-- Fault 0x02: a nonzero reserved field or bit; EVAL as the instruction's description states, else the word. -/
  | nonzeroField (eval : Word)
  /-- Fault 0x02: an immediate of a bit-buffer instruction out of its range (R219), which is checked after the slot (R83); EVAL = the
  word. -/
  | immediate (word : BitVec 32)
  deriving DecidableEq, Repr

/-- The kinds of core (R116). -/
inductive CoreKind where
  | compute
  | control
  | pager
  deriving DecidableEq, Repr

/-- The engines that hold command contexts (R16, R18), by their assembly prefix. -/
inductive EngKind where
  | ln | fr | at | mx | cp | fx | mk
  deriving DecidableEq, Repr

/-- Whatever can wait on the pager, on presence or on the host: a thread slot, or the command of an engine context. -/
inductive Agent where
  | fibre (core slot : Nat)
  | engine (kind : EngKind) (inst ctx : Nat)
  deriving DecidableEq, Repr

/-- How a PCIe completion ends a request (R186, R187). -/
inductive PcieOutcome where
  | success
  | unsupported
  | abort
  deriving DecidableEq, Repr

/-- The data a fabric message carries: 64-bit words, each with its taint (R358). -/
abbrev FabData := List (Word × Bool)

/-- What a message of a collective carries (R354, R360). -/
inductive FabBody where
  /-- A contribution travelling up the fixed tree, from the member at the higher position. -/
  | up (data : FabData)
  /-- The root's result, on its way to every active member. -/
  | down (data : FabData)
  deriving DecidableEq, Repr

/-- The values by which a member matches a message with its own command (R355). -/
structure FabKey where
  tag : BitVec 32
  seq : Nat
  barrier : Bool
  barId : Option Nat
  count : Nat
  mask : Nat
  op : Nat
  dcode : Nat
  len : Nat
  deriving DecidableEq, Repr

/-- A message of a collective (R355): the ranks it goes from and to, and the fabric context it came from. -/
structure FabMsg where
  sender : Nat
  receiver : Nat
  package : Nat
  die : Nat
  ctx : Nat
  key : FabKey
  body : FabBody
  deriving DecidableEq, Repr

/-- A failure notice (R362): the command it concerns, its status (the codes of STAT) and culprit. For a send or receive,
`p2p` gives the rank that the notice comes from and whether it concerns the receiver's send. -/
structure FabNotice where
  tag : BitVec 32
  seq : Nat
  p2p : Option (Nat × Bool)
  status : Nat
  culprit : Nat
  deriving DecidableEq, Repr

/-- An accepted send or receive of another package as it is matched (R359): tag, number in its pair, the ranks of its issuer and of the
member it names, whether it is a send, its LEN and, of a send, its data; or the message that the receiver has written the last word. -/
structure PeerMsg where
  tag : BitVec 32
  seq : Nat
  issuer : Nat
  named : Nat
  send : Bool
  len : Nat
  data : FabData
  done : Bool
  deriving DecidableEq, Repr

/-- The other end of a point-to-point pair (R359): a member of this package, or an accepted command of another package. -/
inductive PeerEnd where
  | here (die ctx : Nat)
  | remote (package die ctx : Nat) (m : PeerMsg)
  deriving DecidableEq, Repr

/-- What a link learns from its peer as it trains (R367, R368). -/
structure LinkPeer where
  package : Nat
  die : Nat
  link : Nat
  major : Nat
  minor : Nat
  deriving DecidableEq, Repr

/-- A flit as received (R367): its channel, whether its CRC holds, its payload bytes before coding, and the exponent
fields of its FP32 and BF16 values in payload order (R369). -/
structure Flit where
  channel : Nat
  crcOk : Bool
  bytes : Nat
  exp32 : List Nat
  exp16 : List Nat
  /-- Its number among the flits of its channel and direction since link-up, by which they arrive in order and once. -/
  seq : Nat
  /-- The package that it is bound for (R370). -/
  dst : Nat
  /-- A flit of channel 3 that changes CODEN (R369). -/
  coden : Option (BitVec 3)
  deriving DecidableEq, Repr

/-- The signed configuration record (R387), with the verdict of its signature check. -/
structure ConfigRecord where
  signatureOk : Bool
  major : Nat
  pcieTimeoutUs : Nat
  priTimeoutUs : Nat
  packageIndex : Nat
  /-- For a package: up to four alternative routes, each a list of (die, link) hops. -/
  routes : List (Nat × List (List (Nat × Nat)))
  links : BitVec 16
  ports : BitVec 8
  /-- For a tier port: the first and the last far page number it serves. -/
  portRanges : List (Nat × Nat × Nat)
  powerLimit : Nat
  digest : BitVec 256
  deriving DecidableEq, Repr

/-- One move of the tier engine (R48). -/
inductive Migration where
  /-- A near page of 2^`bits` bytes is made resident for the first time, or zeroed (R43). -/
  | zero (nearPage bits : Nat)
  /-- A far page of 2^`bits` bytes is promoted on account of a tenant; `leaf` is the near physical address of the leaf that maps it, `tagOk`
  the GCM verdict. -/
  | promote (nearPage farPage leaf bits tenant : Nat) (tagOk : Bool)
  /-- A near page of 2^`bits` bytes is demoted to the far tier. -/
  | demote (nearPage farPage leaf bits tenant : Nat)
  deriving DecidableEq, Repr

/-- Where an error lies, and what the check makes of it (R51–R53). -/
inductive ErrorSite where
  /-- Near DRAM or a tile-cache line, not correctable. -/
  | line
  /-- A far page with hashed = 1, not correctable; `replica` is its replica bit and `leaf` its hash-leaf index. -/
  | farPage (replica : Bool) (leaf : Nat)
  /-- Near DRAM or the tile cache: ECC corrects it. -/
  | corrected
  /-- A far sector: its tag no longer matches. -/
  | farTag
  deriving DecidableEq, Repr

/-- What the attach of a VF brings (R385, R390): the near physical base of its mailbox area, and the major of the host mailbox ABI that the
host speaks. -/
structure VfAttach where
  mailbox : Nat
  abiMajor : Nat
  deriving DecidableEq, Repr

/-- What the hypervisor gives a tenant as it installs it: the roots and handler of its slots and the base of its place
table (R26, R129, R251, R253), the LM image of its loaded program, from offset 0 (R109), and the hash-tree roots of the weight sets
that are loaded with it (R47). -/
structure InstallRoots where
  s1root : Word
  s2root : Word
  htvec : Word
  placeBase : Nat
  image : List (Word × Presence)
  weightRoots : List (BitVec 256)
  deriving DecidableEq, Repr

/-- The instructions and steps of the Darsil, one constructor per row of the opcode table. A row with an encoding carries
the fields the table gives it, each at its encoded width; a row without one is a step of the device (an event), and
carries what selects and feeds that step. The rows with fields come first, then those without, then the
steps. Every field that a word must hold as 0 has no place here. -/
inductive Instr where
  /-- `add`: Writes the 64-bit sum of gA and gB to gD (R155). -/
  | add (d a b : BitVec 5)
  /-- `sub`: Writes gA minus gB to gD (R155). -/
  | sub (d a b : BitVec 5)
  /-- `and`: Writes the bitwise AND of gA and gB to gD (R155). -/
  | and (d a b : BitVec 5)
  /-- `or`: Writes the bitwise OR of gA and gB to gD (R155). -/
  | or (d a b : BitVec 5)
  /-- `xor`: Writes the bitwise XOR of gA and gB to gD (R155). -/
  | xor (d a b : BitVec 5)
  /-- `sll`: Shifts gA left by gB[5:0] (R155). -/
  | sll (d a b : BitVec 5)
  /-- `srl`: Shifts gA right logically by gB[5:0] (R155). -/
  | srl (d a b : BitVec 5)
  /-- `sra`: Shifts gA right arithmetically by gB[5:0] (R155). -/
  | sra (d a b : BitVec 5)
  /-- `slt`: Writes 1 if gA is less than gB as signed values, else 0 (R155). -/
  | slt (d a b : BitVec 5)
  /-- `sltu`: Writes 1 if gA is less than gB as unsigned values, else 0 (R155). -/
  | sltu (d a b : BitVec 5)
  /-- `min`: Writes the signed minimum of gA and gB (R155). -/
  | min (d a b : BitVec 5)
  /-- `max`: Writes the signed maximum of gA and gB (R155). -/
  | max (d a b : BitVec 5)
  /-- `minu`: Writes the unsigned minimum of gA and gB (R155). -/
  | minu (d a b : BitVec 5)
  /-- `maxu`: Writes the unsigned maximum of gA and gB (R155). -/
  | maxu (d a b : BitVec 5)
  /-- `clz`: Counts the leading zero bits of gA, giving 64 for zero (R155). -/
  | clz (d a : BitVec 5)
  /-- `ctz`: Counts the trailing zero bits of gA, giving 64 for zero (R155). -/
  | ctz (d a : BitVec 5)
  /-- `popc`: Counts the one bits of gA (R155). -/
  | popc (d a : BitVec 5)
  /-- `bext`: Extracts a bit field of gA at the position and length that gB gives (R156). -/
  | bext (d a b : BitVec 5)
  /-- `bins`: Inserts the low bits of gA into a field of gD (R156). -/
  | bins (d a b : BitVec 5)
  /-- `csel`: Sets gD to gA if gD is nonzero, else to gB (R156). -/
  | csel (d a b : BitVec 5)
  /-- `add.w`: Adds gA and gB in 32 bits and sign-extends the result (R155). -/
  | addW (d a b : BitVec 5)
  /-- `sub.w`: Subtracts gB from gA in 32 bits and sign-extends the result (R155). -/
  | subW (d a b : BitVec 5)
  /-- `sll.w`: Shifts left in 32 bits and sign-extends the result (R155). -/
  | sllW (d a b : BitVec 5)
  /-- `srl.w`: Shifts right logically in 32 bits and sign-extends the result (R155). -/
  | srlW (d a b : BitVec 5)
  /-- `sra.w`: Shifts right arithmetically in 32 bits and sign-extends the result (R155). -/
  | sraW (d a b : BitVec 5)
  /-- `mul`: Writes the low 64 bits of gA times gB (R157). -/
  | mul (d a b : BitVec 5)
  /-- `mulh`: Writes the high 64 bits of the signed product of gA and gB (R157). -/
  | mulh (d a b : BitVec 5)
  /-- `mulhu`: Writes the high 64 bits of the unsigned product of gA and gB (R157). -/
  | mulhu (d a b : BitVec 5)
  /-- `div`: Writes the signed quotient, following the no-trap division rules (R157). -/
  | div (d a b : BitVec 5)
  /-- `divu`: Writes the unsigned quotient (R157). -/
  | divu (d a b : BitVec 5)
  /-- `rem`: Writes the signed remainder, which takes the sign of the dividend (R157). -/
  | rem (d a b : BitVec 5)
  /-- `remu`: Writes the unsigned remainder (R157). -/
  | remu (d a b : BitVec 5)
  /-- `mul.w`: Multiplies in 32 bits and sign-extends the result (R157). -/
  | mulW (d a b : BitVec 5)
  /-- `addi`: Adds a sign-extended 16-bit immediate to gA (R158). -/
  | addi (d a : BitVec 5) (i : BitVec 16)
  /-- `andi`: ANDs gA with a zero-extended immediate (R158). -/
  | andi (d a : BitVec 5) (i : BitVec 16)
  /-- `ori`: ORs gA with a zero-extended immediate (R158). -/
  | ori (d a : BitVec 5) (i : BitVec 16)
  /-- `xori`: XORs gA with a zero-extended immediate (R158). -/
  | xori (d a : BitVec 5) (i : BitVec 16)
  /-- `slli`: Shifts gA left by an immediate amount (R158). -/
  | slli (d a : BitVec 5) (s : BitVec 6)
  /-- `srli`: Shifts gA right logically by an immediate amount (R158). -/
  | srli (d a : BitVec 5) (s : BitVec 6)
  /-- `srai`: Shifts gA right arithmetically by an immediate amount (R158). -/
  | srai (d a : BitVec 5) (s : BitVec 6)
  /-- `lui`: Writes a sign-extended 21-bit immediate times 2^16 to gD (R158). -/
  | lui (d : BitVec 5) (i : BitVec 21)
  /-- `addpc`: Writes pc plus a scaled 21-bit displacement to gD (R158). -/
  | addpc (d : BitVec 5) (i : BitVec 21)
  /-- `slti`: Writes 1 if gA is less than the signed immediate, else 0 (R158). -/
  | slti (d a : BitVec 5) (i : BitVec 16)
  /-- `b.eq`: Branches if gA equals gB (R159). -/
  | bEq (a b : BitVec 5) (d : BitVec 12)
  /-- `b.ne`: Branches if gA differs from gB (R159). -/
  | bNe (a b : BitVec 5) (d : BitVec 12)
  /-- `b.lt`: Branches if gA is less than gB as signed values (R159). -/
  | bLt (a b : BitVec 5) (d : BitVec 12)
  /-- `b.ge`: Branches if gA is greater than or equal to gB as signed values (R159). -/
  | bGe (a b : BitVec 5) (d : BitVec 12)
  /-- `b.ltu`: Branches if gA is less than gB as unsigned values (R159). -/
  | bLtu (a b : BitVec 5) (d : BitVec 12)
  /-- `b.geu`: Branches if gA is greater than or equal to gB as unsigned values (R159). -/
  | bGeu (a b : BitVec 5) (d : BitVec 12)
  /-- `b.vs`: Branches if FLAGS.V is set (R159). -/
  | bVs (d : BitVec 12)
  /-- `b.vc`: Branches if FLAGS.V is clear (R159). -/
  | bVc (d : BitVec 12)
  /-- `j`: Jumps by a signed word displacement (R160). -/
  | j (d : BitVec 25)
  /-- `jal`: Writes pc+4 to g31 and jumps by a signed word displacement (R160). -/
  | jal (d : BitVec 25)
  /-- `jalr`: Jumps to gA plus a scaled offset and writes pc+4 to gD (R161). -/
  | jalr (d a : BitVec 5) (i : BitVec 16)
  /-- `fadd`: Adds two FP32 values with correct rounding (R164). -/
  | fadd (d a b : BitVec 5)
  /-- `fsub`: Subtracts two FP32 values with correct rounding (R164). -/
  | fsub (d a b : BitVec 5)
  /-- `fmul`: Multiplies two FP32 values with correct rounding (R164). -/
  | fmul (d a b : BitVec 5)
  /-- `fdiv`: Divides two FP32 values with correct rounding (R164). -/
  | fdiv (d a b : BitVec 5)
  /-- `fsqrt`: Takes the FP32 square root of gA (R164). -/
  | fsqrt (d a : BitVec 5)
  /-- `fmin`: Writes the lesser FP32 value, following the NaN rules (R165). -/
  | fmin (d a b : BitVec 5)
  /-- `fmax`: Writes the greater FP32 value, following the NaN rules (R165). -/
  | fmax (d a b : BitVec 5)
  /-- `feq`: Compares two FP32 values for equality (R165). -/
  | feq (d a b : BitVec 5)
  /-- `flt`: Compares whether one FP32 value is less than another (R165). -/
  | flt (d a b : BitVec 5)
  /-- `fle`: Compares whether one FP32 value is less than or equal to another (R165). -/
  | fle (d a b : BitVec 5)
  /-- `fclass`: Writes the one-hot class of an FP32 value (R165). -/
  | fclass (d a : BitVec 5)
  /-- `fexp2`: Writes exp2c of gA (R164). -/
  | fexp2 (d a : BitVec 5)
  /-- `frcp`: Writes the correctly rounded reciprocal of gA (R164). -/
  | frcp (d a : BitVec 5)
  /-- `fcvt.F.T`: Converts a scalar value from format F to format T (R166). -/
  | fcvt (d a : BitVec 5) (f t : BitVec 3)
  /-- `ffma`: Computes a×b+c in FP32 with one rounding (R167). -/
  | ffma (d a b c : BitVec 5)
  /-- `ffms`: Computes a×b−c in FP32 with one rounding (R167). -/
  | ffms (d a b c : BitVec 5)
  /-- `fnma`: Computes c−a×b in FP32 with one rounding (R167). -/
  | fnma (d a b c : BitVec 5)
  /-- `ld.W[.u][.S][.acq]`: Loads 1 to 8 bytes, ignoring presence, relaxed or acquire (R180). -/
  | ld (d a : BitVec 5) (o : BitVec 9) (s : BitVec 3) (w : BitVec 2) (x q : BitVec 1)
  /-- `st.W[.S][.rel]`: Stores 1 to 8 bytes with presence unchanged, relaxed or release (R181). -/
  | st (d a : BitVec 5) (o : BitVec 9) (s : BitVec 3) (w : BitVec 2) (q : BitVec 1)
  /-- `lds.S`: Waits while the word is EMPTY, then loads it as an acquire (R182). -/
  | lds (d a : BitVec 5) (o : BitVec 9) (s : BitVec 3)
  /-- `ldc.S`: Waits for FULL, then reads the word and sets it EMPTY atomically (R182). -/
  | ldc (d a : BitVec 5) (o : BitVec 9) (s : BitVec 3)
  /-- `ldq`: Reads the presence code of a word (R182). -/
  | ldq (d a : BitVec 5) (o : BitVec 9) (s : BitVec 3)
  /-- `ldt.S`: Waits for FULL, loads the word and checks its tag against TAGX (R182). -/
  | ldt (d a : BitVec 5) (o : BitVec 9) (s : BitVec 3)
  /-- `stf.S`: Stores a word and sets it FULL as a release (R182). -/
  | stf (d a : BitVec 5) (o : BitVec 9) (s : BitVec 3)
  /-- `stw.S`: Waits while the word is FULL, then stores it and sets it FULL (R182). -/
  | stw (d a : BitVec 5) (o : BitVec 9) (s : BitVec 3)
  /-- `stv.S`: Stores a word and sets it VOID as a release (R182). -/
  | stv (d a : BitVec 5) (o : BitVec 9) (s : BitVec 3)
  /-- `ste`: Stores a word and sets it EMPTY, relaxed (R182). -/
  | ste (d a : BitVec 5) (o : BitVec 9) (s : BitVec 3)
  /-- `amo.add[.S][.O]`: Atomic 64-bit add that returns the old value (R184). -/
  | amoAdd (d a b : BitVec 5) (s o : BitVec 3)
  /-- `amo.and`: Atomic AND (R184). -/
  | amoAnd (d a b : BitVec 5) (s o : BitVec 3)
  /-- `amo.or`: Atomic OR (R184). -/
  | amoOr (d a b : BitVec 5) (s o : BitVec 3)
  /-- `amo.xor`: Atomic XOR (R184). -/
  | amoXor (d a b : BitVec 5) (s o : BitVec 3)
  /-- `amo.min`: Atomic signed minimum (R184). -/
  | amoMin (d a b : BitVec 5) (s o : BitVec 3)
  /-- `amo.max`: Atomic signed maximum (R184). -/
  | amoMax (d a b : BitVec 5) (s o : BitVec 3)
  /-- `amo.minu`: Atomic unsigned minimum (R184). -/
  | amoMinu (d a b : BitVec 5) (s o : BitVec 3)
  /-- `amo.maxu`: Atomic unsigned maximum (R184). -/
  | amoMaxu (d a b : BitVec 5) (s o : BitVec 3)
  /-- `amo.swap`: Atomic swap (R184). -/
  | amoSwap (d a b : BitVec 5) (s o : BitVec 3)
  /-- `amo.cas`: Atomic compare-and-swap against the incoming gD (R184). -/
  | amoCas (d a b : BitVec 5) (s o : BitVec 3)
  /-- `amo.fadd`: Atomic FP32 add, rounded RNE (R185). -/
  | amoFadd (d a b : BitVec 5) (s o : BitVec 3)
  /-- `amo.add.w`: Atomic 32-bit add (R184). -/
  | amoAddW (d a b : BitVec 5) (s o : BitVec 3)
  /-- `fence.kinds.S[.eng]`: Orders predecessor operations before successor operations, and before engine reads when eng is set (R188). -/
  | fence (e : BitVec 1) (s : BitVec 3) (k : BitVec 4)
  /-- `bar.L`: Arrives at a hardware barrier and waits for its phase to complete (R189). -/
  | bar (n : BitVec 4) (l : BitVec 3)
  /-- `bar.arrive.L`: Arrives at a hardware barrier and returns the phase bit (R189). -/
  | barArrive (b : BitVec 5) (n : BitVec 4) (l : BitVec 3)
  /-- `bar.wait.L`: Waits until the barrier phase differs from a[0] (R189). -/
  | barWait (a : BitVec 5) (n : BitVec 4) (l : BitVec 3)
  /-- `arrive`: Makes one arrive on a completion word, as a release (R191). -/
  | arrive (a : BitVec 5)
  /-- `expect`: Adds a byte count to the pending bytes of a completion word (R191). -/
  | expect (a b : BitVec 5)
  /-- `waitc`: Waits until the completion-word phase differs from b[0], then acquires (R191). -/
  | waitc (a b : BitVec 5)
  /-- `cwinit`: Reinitialises a completion word's expected and pending counts (R191). -/
  | cwinit (a b : BitVec 5)
  /-- `putr.g`: Delivers a scalar value to a register of a slot on a core given by logical id (R193). -/
  | putrG (a b t : BitVec 5) (s : BitVec 3)
  /-- `putr.v`: Delivers a vector register to a vector register of a remote slot (R193). -/
  | putrV (a : BitVec 4) (b : BitVec 5) (t : BitVec 4) (s : BitVec 3)
  /-- `trap`: Raises fault 0x0F with EVAL = n (R170). -/
  | trap (n : BitVec 10)
  /-- `csrr`: Reads a CSR into gB (R172). -/
  | csrr (b : BitVec 5) (c : BitVec 10)
  /-- `csrw`: Writes gA to a CSR and returns its old value; covers CSRs without a row of their own (R172). -/
  | csrw (a b : BitVec 5) (c : BitVec 10)
  /-- `csrs`: Sets the CSR bits given in gA and returns the old value (R172). -/
  | csrs (a b : BitVec 5) (c : BitVec 10)
  /-- `csrc`: Clears the CSR bits given in gA and returns the old value (R172). -/
  | csrc (a b : BitVec 5) (c : BitVec 10)
  /-- `wait`: Parks the slot until a selected delivery, queue or time event (R173). -/
  | wait (a b : BitVec 5)
  /-- `tlbinv`: Removes cached translations package-wide and replies once prior uses have completed (R177). -/
  | tlbinv (a : BitVec 5) (k : BitVec 2)
  /-- `rempty.g`: Sets a scalar register EMPTY and keeps its value (R176). -/
  | remptyG (b : BitVec 5)
  /-- `rempty.v`: Sets a vector register EMPTY and keeps its value (R176). -/
  | remptyV (v : BitVec 4)
  /-- `vadd.W`: Vector integer add (R198). -/
  | vadd (d a b : BitVec 4) (k : BitVec 3) (e : BitVec 2)
  /-- `vsub.W`: Vector integer subtract (R198). -/
  | vsub (d a b : BitVec 4) (k : BitVec 3) (e : BitVec 2)
  /-- `vmul.W`: Vector integer multiply, low part (R198). -/
  | vmul (d a b : BitVec 4) (k : BitVec 3) (e : BitVec 2)
  /-- `vmulh.W`: Vector signed multiply, high part (R198). -/
  | vmulh (d a b : BitVec 4) (k : BitVec 3) (e : BitVec 2)
  /-- `vand.W`: Vector bitwise AND (R198). -/
  | vand (d a b : BitVec 4) (k : BitVec 3) (e : BitVec 2)
  /-- `vor.W`: Vector bitwise OR (R198). -/
  | vor (d a b : BitVec 4) (k : BitVec 3) (e : BitVec 2)
  /-- `vxor.W`: Vector bitwise XOR (R198). -/
  | vxor (d a b : BitVec 4) (k : BitVec 3) (e : BitVec 2)
  /-- `vsll.W`: Vector shift left (R198). -/
  | vsll (d a b : BitVec 4) (k : BitVec 3) (e : BitVec 2)
  /-- `vsrl.W`: Vector logical shift right (R198). -/
  | vsrl (d a b : BitVec 4) (k : BitVec 3) (e : BitVec 2)
  /-- `vsra.W`: Vector arithmetic shift right (R198). -/
  | vsra (d a b : BitVec 4) (k : BitVec 3) (e : BitVec 2)
  /-- `vmin.W`: Vector signed minimum (R198). -/
  | vmin (d a b : BitVec 4) (k : BitVec 3) (e : BitVec 2)
  /-- `vmax.W`: Vector signed maximum (R198). -/
  | vmax (d a b : BitVec 4) (k : BitVec 3) (e : BitVec 2)
  /-- `vminu.W`: Vector unsigned minimum (R198). -/
  | vminu (d a b : BitVec 4) (k : BitVec 3) (e : BitVec 2)
  /-- `vmaxu.W`: Vector unsigned maximum (R198). -/
  | vmaxu (d a b : BitVec 4) (k : BitVec 3) (e : BitVec 2)
  /-- `vadds.W`: Vector saturating signed add (R198). -/
  | vadds (d a b : BitVec 4) (k : BitVec 3) (e : BitVec 2)
  /-- `vsubs.W`: Vector saturating signed subtract (R198). -/
  | vsubs (d a b : BitVec 4) (k : BitVec 3) (e : BitVec 2)
  /-- `vfadd.F`: Vector floating add (R199). -/
  | vfadd (d a b : BitVec 4) (k : BitVec 3) (e : BitVec 2)
  /-- `vfsub.F`: Vector floating subtract (R199). -/
  | vfsub (d a b : BitVec 4) (k : BitVec 3) (e : BitVec 2)
  /-- `vfmul.F`: Vector floating multiply (R199). -/
  | vfmul (d a b : BitVec 4) (k : BitVec 3) (e : BitVec 2)
  /-- `vfdiv.F`: Vector floating divide (R199). -/
  | vfdiv (d a b : BitVec 4) (k : BitVec 3) (e : BitVec 2)
  /-- `vfsqrt.F`: Vector floating square root (R199). -/
  | vfsqrt (d a : BitVec 4) (k : BitVec 3) (e : BitVec 2)
  /-- `vfmin.F`: Vector floating minimum (R199). -/
  | vfmin (d a b : BitVec 4) (k : BitVec 3) (e : BitVec 2)
  /-- `vfmax.F`: Vector floating maximum (R199). -/
  | vfmax (d a b : BitVec 4) (k : BitVec 3) (e : BitVec 2)
  /-- `vfexp2.F`: Vector 2^a (R199). -/
  | vfexp2 (d a : BitVec 4) (k : BitVec 3) (e : BitVec 2)
  /-- `vfrcp.F`: Vector reciprocal (R199). -/
  | vfrcp (d a : BitVec 4) (k : BitVec 3) (e : BitVec 2)
  /-- `vfabs.F`: Clears the sign bit of each element (R199). -/
  | vfabs (d a : BitVec 4) (k : BitVec 3) (e : BitVec 2)
  /-- `vfneg.F`: Inverts the sign bit of each element (R199). -/
  | vfneg (d a : BitVec 4) (k : BitVec 3) (e : BitVec 2)
  /-- `vfma`: Vector FP32 a×b+c with one rounding (R200). -/
  | vfma (d a b c : BitVec 4) (k : BitVec 3)
  /-- `vfms`: Vector FP32 a×b−c with one rounding (R200). -/
  | vfms (d a b c : BitVec 4) (k : BitVec 3)
  /-- `vfnma`: Vector FP32 c−a×b with one rounding (R200). -/
  | vfnma (d a b c : BitVec 4) (k : BitVec 3)
  /-- `vcmp.eq.W`: Integer equality compare into a mask register (R201). -/
  | vcmpEq (d : BitVec 3) (a b : BitVec 4) (k : BitVec 3) (e : BitVec 2)
  /-- `vcmp.ne.W`: Integer inequality compare into a mask register (R201). -/
  | vcmpNe (d : BitVec 3) (a b : BitVec 4) (k : BitVec 3) (e : BitVec 2)
  /-- `vcmp.lt.W`: Signed less-than compare into a mask register (R201). -/
  | vcmpLt (d : BitVec 3) (a b : BitVec 4) (k : BitVec 3) (e : BitVec 2)
  /-- `vcmp.ge.W`: Signed greater-or-equal compare into a mask register (R201). -/
  | vcmpGe (d : BitVec 3) (a b : BitVec 4) (k : BitVec 3) (e : BitVec 2)
  /-- `vcmp.ltu.W`: Unsigned less-than compare into a mask register (R201). -/
  | vcmpLtu (d : BitVec 3) (a b : BitVec 4) (k : BitVec 3) (e : BitVec 2)
  /-- `vcmp.geu.W`: Unsigned greater-or-equal compare into a mask register (R201). -/
  | vcmpGeu (d : BitVec 3) (a b : BitVec 4) (k : BitVec 3) (e : BitVec 2)
  /-- `vfcmp.eq.F`: Floating equality compare into a mask register (R201). -/
  | vfcmpEq (d : BitVec 3) (a b : BitVec 4) (k : BitVec 3) (e : BitVec 2)
  /-- `vfcmp.lt.F`: Floating less-than compare into a mask register (R201). -/
  | vfcmpLt (d : BitVec 3) (a b : BitVec 4) (k : BitVec 3) (e : BitVec 2)
  /-- `vfcmp.le.F`: Floating less-or-equal compare into a mask register (R201). -/
  | vfcmpLe (d : BitVec 3) (a b : BitVec 4) (k : BitVec 3) (e : BitVec 2)
  /-- `vfcmp.un.F`: Floating unordered compare into a mask register (R201). -/
  | vfcmpUn (d : BitVec 3) (a b : BitVec 4) (k : BitVec 3) (e : BitVec 2)
  /-- `vsel.w`: Selects each lane from va or vb by the mask (R202). -/
  | vsel (d a b : BitVec 4) (k : BitVec 3)
  /-- `kand`: ANDs two mask registers (R202). -/
  | kand (d a b k : BitVec 3)
  /-- `kor`: ORs two mask registers (R202). -/
  | kor (d a b k : BitVec 3)
  /-- `kxor`: XORs two mask registers (R202). -/
  | kxor (d a b k : BitVec 3)
  /-- `knot`: Inverts a mask register (R202). -/
  | knot (d a k : BitVec 3)
  /-- `vbcast`: Broadcasts g[31:0] into the active lanes (R203). -/
  | vbcast (d : BitVec 4) (g : BitVec 5) (k : BitVec 3)
  /-- `vext`: Extracts lane n of va into a scalar register (R203). -/
  | vext (g : BitVec 5) (a : BitVec 4) (l : BitVec 5)
  /-- `vins`: Inserts g[31:0] into lane n of vd (R203). -/
  | vins (d : BitVec 4) (g l : BitVec 5)
  /-- `kpopc`: Counts the set bits of ka AND km (R203). -/
  | kpopc (g : BitVec 5) (a k : BitVec 3)
  /-- `kfirst`: Gives the index of the lowest set bit of ka AND km, or 32 (R203). -/
  | kfirst (g : BitVec 5) (a k : BitVec 3)
  /-- `vperm.W`: Permutes elements of va by the indices in vb (R204). -/
  | vperm (d a b : BitVec 4) (k : BitVec 3) (e : BitVec 2)
  /-- `vredadd.W`: Integer sum reduction of the selected elements (R204). -/
  | vredadd (d a : BitVec 4) (k : BitVec 3) (e : BitVec 2)
  /-- `vredmax.W`: Signed maximum reduction (R204). -/
  | vredmax (d a : BitVec 4) (k : BitVec 3) (e : BitVec 2)
  /-- `vredmin.W`: Signed minimum reduction (R204). -/
  | vredmin (d a : BitVec 4) (k : BitVec 3) (e : BitVec 2)
  /-- `vfredadd.f32`: FP32 sum reduction over a fixed pairwise tree (R205). -/
  | vfredadd (d a : BitVec 4) (k : BitVec 3)
  /-- `vfredmax.f32`: FP32 maximum reduction (R204). -/
  | vfredmax (d a : BitVec 4) (k : BitVec 3)
  /-- `vtopk.f32`: Ranks the selected lanes and writes the top 8 values and their indices (R206). -/
  | vtopk (d a b : BitVec 4) (k : BitVec 3)
  /-- `vscan.W`: Inclusive prefix sums of the active elements (R207). -/
  | vscan (d a : BitVec 4) (k : BitVec 3) (e : BitVec 2)
  /-- `vld.W`: Contiguous vector load, ignoring presence (R209). -/
  | vld (d : BitVec 4) (a : BitVec 5) (k : BitVec 3) (e : BitVec 2)
  /-- `vst.W`: Contiguous vector store of the active elements (R209). -/
  | vst (d : BitVec 4) (a : BitVec 5) (k : BitVec 3) (e : BitVec 2)
  /-- `vlds.W`: Strided vector load (R209). -/
  | vlds (d : BitVec 4) (a b : BitVec 5) (k : BitVec 3) (e : BitVec 2)
  /-- `vsts.W`: Strided vector store (R209). -/
  | vsts (d : BitVec 4) (a b : BitVec 5) (k : BitVec 3) (e : BitVec 2)
  /-- `vldsync.W`: Waits until no covered word is EMPTY, then loads as an acquire (R210). -/
  | vldsync (d : BitVec 4) (a : BitVec 5) (k : BitVec 3) (e : BitVec 2)
  /-- `vgather.w`: Gathers 32-bit words at indexed addresses (R211). -/
  | vgather (d : BitVec 4) (a : BitVec 5) (i : BitVec 4) (k : BitVec 3)
  /-- `vscatter.w`: Scatters 32-bit words to indexed addresses (R211). -/
  | vscatter (d : BitVec 4) (a : BitVec 5) (i : BitVec 4) (k : BitVec 3)
  /-- `vgatherb.w`: Gathers after checking each index against BOUND (R211). -/
  | vgatherb (d : BitVec 4) (a : BitVec 5) (i : BitVec 4) (k : BitVec 3)
  /-- `vcvt.F.T`: Converts vector elements from format F to format T (R208). -/
  | vcvt (d a : BitVec 4) (k : BitVec 3) (f t : BitVec 4)
  /-- `bs.attach`: Attaches the input stream address and length (R220). -/
  | bsAttach (a b : BitVec 5)
  /-- `bs.get`: Reads n stream bits and advances IPOS (R221). -/
  | bsGet (b : BitVec 5) (n : BitVec 10)
  /-- `bs.peek`: Reads n stream bits without advancing (R221). -/
  | bsPeek (b : BitVec 5) (n : BitVec 10)
  /-- `bs.skip`: Advances IPOS by gA plus the immediate (R221). -/
  | bsSkip (a : BitVec 5) (n : BitVec 10)
  /-- `bs.vlc`: Decodes one prefix code through a table (R222). -/
  | bsVlc (a b : BitVec 5) (m : BitVec 10)
  /-- `bs.put`: Appends k bits to the output accumulator, writing a word when 64 are pending (R223). -/
  | bsPut (a : BitVec 5) (k : BitVec 10)
  /-- `bs.flush`: Writes the pending output bits and optionally the end bit address (R223). -/
  | bsFlush (a : BitVec 5)
  /-- `bs.oattach`: Attaches the output stream and discards pending bits (R220). -/
  | bsOattach (a : BitVec 5)
  /-- `rnd.lo`: Philox-4x32-10 of key a and counter b; low half (R168). -/
  | rndLo (d a b : BitVec 5)
  /-- `rnd.hi`: Philox-4x32-10 of key a and counter b; high half (R168). -/
  | rndHi (d a b : BitVec 5)
  /-- `ln.erw`: Writes a launch-engine register of the issuer's context (R19). -/
  | lnErw (a : BitVec 5) (n : BitVec 6)
  /-- `ln.err`: Reads a launch-engine register, waiting for FULL (R19). -/
  | lnErr (b : BitVec 5) (n : BitVec 6)
  /-- `ln.launch`: Reads, checks and enqueues a launch record on a queue (R228). -/
  | lnLaunch (a b : BitVec 5)
  /-- `ln.qstat`: Returns a snapshot of a queue's state (R229). -/
  | lnQstat (a b : BitVec 5)
  /-- `ln.kill`: Ends every accepted launch of a queue (R230). -/
  | lnKill (a : BitVec 5)
  /-- `fr.erw`: Writes a frame-engine register (R19). -/
  | frErw (a : BitVec 5) (n : BitVec 6)
  /-- `fr.err`: Reads a frame-engine register (R19). -/
  | frErr (b : BitVec 5) (n : BitVec 6)
  /-- `fr.push`: Creates a child frame from a push block and makes it FP (R273). -/
  | frPush (a b : BitVec 5)
  /-- `fr.pop`: Returns from FP, keeping a result span, and frees the child (R274). -/
  | frPop (a : BitVec 5)
  /-- `fr.enter`: Adopts a live frame onto the chain (R275). -/
  | frEnter (a : BitVec 5)
  /-- `fr.app`: Allocates positions in FP and writes block headers (R276). -/
  | frApp (a b : BitVec 5)
  /-- `fr.seal`: Pins and seals a frame (R277). -/
  | frSeal (a : BitVec 5)
  /-- `fr.cut`: Cuts a speculative frame at a keep offset (R278). -/
  | frCut (a b : BitVec 5)
  /-- `fr.rd`: Reads one field of a frame record (R279). -/
  | frRd (a b f : BitVec 5)
  /-- `fr.scope`: Writes a frame's scope list into a vector register (R279). -/
  | frScope (a : BitVec 5) (v : BitVec 4)
  /-- `at.erw`: Writes an attention-engine register (R19). -/
  | atErw (a : BitVec 5) (n : BitVec 6)
  /-- `at.err`: Reads an attention-engine register (R19). -/
  | atErr (b : BitVec 5) (n : BitVec 6)
  /-- `at.kv`: Applies up to 32 KV blocks to the latched rows (R303). -/
  | atKv (a : BitVec 5) (v : BitVec 4)
  /-- `at.tree`: Loads or removes a draft-tree mask (R304). -/
  | atTree (a b : BitVec 5)
  /-- `at.fold`: Folds blocks into the linear fold state (R305). -/
  | atFold (a : BitVec 5) (v : BitVec 4)
  /-- `at.merge`: Merges partial records from memory into the row triples (R307). -/
  | atMerge (a : BitVec 5)
  /-- `at.out`: Writes partial records or normalised output rows (R308). -/
  | atOut (k : BitVec 1)
  /-- `mx.erw`: Writes a matrix-engine register (R19). -/
  | mxErw (a : BitVec 5) (n : BitVec 6)
  /-- `mx.err`: Reads a matrix-engine register (R19). -/
  | mxErr (b : BitVec 5) (n : BitVec 6)
  /-- `mx.begin`: Opens a chain with exponent E_c (R326). -/
  | mxBegin (a : BitVec 5)
  /-- `mx.perm`: Sorts codes into permutation entries (R325). -/
  | mxPerm (a b : BitVec 5)
  /-- `mx.step`: Adds groups into the open chain through micro-tiles, or resumes a held step (R327). -/
  | mxStep (a b : BitVec 5)
  /-- `mx.drain`: Converts C into format k and writes it to DST (R331). -/
  | mxDrain (k : BitVec 4)
  /-- `cp.erw`: Writes a copy-engine register (R19). -/
  | cpErw (a : BitVec 5) (n : BitVec 6)
  /-- `cp.err`: Reads a copy-engine register (R19). -/
  | cpErr (b : BitVec 5) (n : BitVec 6)
  /-- `cp.go`: Checks and accepts a copy command and returns its id (R338). -/
  | cpGo (a b : BitVec 5)
  /-- `cp.cancel`: Ends one outstanding copy, or every one (R341). -/
  | cpCancel (a : BitVec 5)
  /-- `cp.save`: Starts a context save for a tenant's queue (R347). -/
  | cpSave (a : BitVec 5)
  /-- `cp.restore`: Restores a complete save record (R348). -/
  | cpRestore (a : BitVec 5)
  /-- `fx.erw`: Writes a fabric-engine register (R19). -/
  | fxErw (a : BitVec 5) (n : BitVec 6)
  /-- `fx.err`: Reads a fabric-engine register (R19). -/
  | fxErr (b : BitVec 5) (n : BitVec 6)
  /-- `fx.go`: Starts a sum, max or triple-reduce collective and returns its seq (R354). -/
  | fxGo (b : BitVec 5)
  /-- `fx.send`: Sends LEN bytes to a peer rank (R359). -/
  | fxSend (a : BitVec 5)
  /-- `fx.recv`: Receives LEN bytes from a peer rank (R359). -/
  | fxRecv (a : BitVec 5)
  /-- `mk.erw`: Writes a mask-engine register (R19). -/
  | mkErw (a : BitVec 5) (n : BitVec 6)
  /-- `mk.err`: Reads a mask-engine register (R19). -/
  | mkErr (b : BitVec 5) (n : BitVec 6)
  /-- `mk.load`: Resets the automaton to a start state and starts mask production (R377). -/
  | mkLoad (a : BitVec 5)
  /-- `mk.step`: Advances the automaton by one token and starts mask production (R377). -/
  | mkStep (a b : BitVec 5)
  /-- `mk.mask`: Loads a mask chunk into a vector register once the ready word is set (R380). -/
  | mkMask (a : BitVec 5) (v : BitVec 4)
  /-- `mk.wait`: Waits for the ready word and classifies the mask count (R380). -/
  | mkWait (a b : BitVec 5)
  /-- `mk.forced`: Returns the single allowed token, if there is one (R380). -/
  | mkForced (b : BitVec 5)
  /-- `eret`: Returns from a handler to EPC or HEPC and restores mode and INH (R171). -/
  | eret 
  /-- `halt`: Waits for the fibre's engine commands to complete, then ends the fibre and frees the slot (R174). -/
  | halt 
  /-- `yield`: Gives up the slot's next own issue turn (R175). -/
  | yield 
  /-- `ebreak`: Raises fault 0x0E (R170). -/
  | ebreak 
  /-- `fr.leave`: Drops FP from the chain and decrements its ref (R275). -/
  | frLeave 
  /-- `at.q`: Latches the query rows and resets every row triple (R302). -/
  | atQ 
  /-- `at.lin`: Merges the linear partial into each row's triple (R306). -/
  | atLin 
  /-- `at.reset`: Ends the context's outstanding commands and clears its state (R309). -/
  | atReset 
  /-- `mx.end`: Closes the chain into C under the window rule (R330). -/
  | mxEnd 
  /-- `mx.clear`: Discards the chain and held step and zeroes the engine state (R332). -/
  | mxClear 
  /-- `fx.bar`: Joins a fabric barrier collective (R360). -/
  | fxBar 
  /-- `fx.abort`: Ends every outstanding command of the context as ABORTED (R361). -/
  | fxAbort 
  /-- `mk.reset`: Stops mask production and sets the ready word VOID (R377). -/
  | mkReset 
  /-- An encoding that is not an instruction raises 0x01 or 0x02 and changes only CAUSE, EPC and EVAL (R82). -/
  | illegalInstruction (r : Reject)
  /-- A memory instruction's reply arrives and its slot becomes READY (R120). -/
  | memoryReply (core slot : Nat) (tagOk : Bool)
  /-- An awaited presence or phase state occurs and the parked instruction reissues or completes (R65). -/
  | parkWake (a : Agent)
  /-- A delivery, queue or time event ends a wait instruction (R173). -/
  | waitWake (core slot : Nat)
  /-- ISSUED reaches BUDGET at a U-mode issue, and fault 0x0D is raised in place of the issue (R134). -/
  | cycleBudgetFault 
  /-- Hypervisor firmware clears a STOPPED slot through the management path (R117). -/
  | stoppedSlotClear (core slot : Nat)
  /-- A translation miss message reaches the cluster's pager core (R35). -/
  | missMessage (a : Agent)
  /-- The pager's wake makes the thread or engine command reissue with a fresh translation (R35). -/
  | pagerWake (a : Agent) (gen : Nat)
  /-- The pager's decline raises 0x07 or 0x06, or fails the engine access (R35). -/
  | pagerDecline (a : Agent) (perm : Bool)
  /-- An engine accepts a parked command once queue space opens, and snapshots its registers (R20). -/
  | engineCommandAccept (core slot : Nat)
  /-- The last accepted command of a context completes, and STAT is written FULL (R21). -/
  | engineCommandComplete (kind : EngKind) (inst ctx : Nat)
  /-- A putr delivery reaches the target core and is applied, discarded or spilled (R194). -/
  | putrDelivery (n : Nat)
  /-- The queue event holds for a halted transform thread, and the thread restarts at the transform entry (R214). -/
  | transformRestart (core : Nat)
  /-- The sequencer binds a fibre of a selected launch into a free slot and sets its state (R235). -/
  | fibreDispatch (die : Nat)
  /-- Each 4 ms that a queue waits raises its effective priority by one (R232). -/
  | queueAging (tenant queue : Nat)
  /-- The operator posts an eviction deadline for a region interval (R239). -/
  | evictionPosting (base len : Nat) (deadline : Word) (incoming : Option Nat)
  /-- Every 2 µs each affected queue is judged RTC, CKPT or DISCARD (R241). -/
  | evictionEvaluation (n : Nat)
  /-- At D − T_clean − 4 µs every unfinished affected queue is discarded (R242). -/
  | forcedInstant (n : Nat)
  /-- A cluster's copy engine writes a saved slot's sections once its commands have completed (R347). -/
  | saveSectionsWrite (n core slot : Nat)
  /-- The complete bit of a save record is written last, as a release (R347). -/
  | saveCompleteBit (n : Nat)
  /-- A restored fibre waiting for a FREE slot is bound and its sections are written back (R348). -/
  | restoreBind (n : Nat)
  /-- The cleaning sequencer clears a slot after its outgoing fibre leaves (R245). -/
  | slotCleaning (core slot : Nat)
  /-- A copy translates, reads and writes one destination page and decrements the byte count (R339). -/
  | copyPage (cluster ctx : Nat)
  /-- A register-kind copy's value is accepted by the target core (R345). -/
  | copyRegisterDelivery (cluster ctx : Nat)
  /-- At a block boundary, the datapath applies one KV block to the rows of a context (R289). -/
  | attentionBlockUpdate (quad ctx : Nat)
  /-- A query word becomes FULL or VOID and is read by a pending at.q (R302). -/
  | queryWordRead (quad ctx : Nat)
  /-- A partial record word becomes readable and is merged by a pending at.merge (R307). -/
  | partialRecordRead (quad ctx : Nat)
  /-- One band of one group is performed once its A words are present, adding truncated terms to the chain totals (R319). -/
  | microTile (core group band : Nat)
  /-- A co-operative step starts when every core of its tile row has issued it (R334). -/
  | tileStepStart (core : Nat)
  /-- A collective message is received, matched by tag and seq, and combined or written (R355). -/
  | fabricMessage (die ctx : Nat) (m : FabMsg)
  /-- A failure notice ends the receiver's command with its status and culprit (R362). -/
  | fabricNotice (die ctx : Nat) (n : FabNotice)
  /-- TIMEOUT expires for a fabric command, which ends with status 0x71 (R362). -/
  | collectiveTimeout (die ctx : Nat)
  /-- A matched send and receive pair move data once both are accepted (R359). -/
  | p2pTransfer (die ctx : Nat) (peer : PeerEnd)
  /-- A Rhoiq link trains and negotiates its version (R367). -/
  | linkUp (die link : Nat) (peer : LinkPeer)
  /-- A link leaves the up state, and traffic reroutes or ends MEMBER-UNREACHABLE (R370). -/
  | linkDown (die link : Nat)
  /-- A flit is received, checked, decoded and acknowledged, and the exponent tables are updated (R367). -/
  | rhoiqFlit (die link : Nat) (f : Flit)
  /-- An unacknowledged flit is replayed from the sender's buffer (R367). -/
  | flitReplay (die link channel : Nat)
  /-- Every 256 flits both ends halve the exponent counts (R369). -/
  | exponentCountHalving (die link channel : Nat)
  /-- A hypervisor write of CODEN changes exponent coding at a shared flit (R369). -/
  | codenWrite (die link : Nat) (coden : BitVec 3)
  /-- The mask engine uses or computes one mask chunk of the current pair (R378). -/
  | maskProductionChunk (die ctx : Nat)
  /-- The ready word is written FULL once all chunks are in the cache (R378). -/
  | maskReady (die ctx : Nat)
  /-- mk.wait times out, returning 3 or raising 0x83 (R380). -/
  | mkWaitTimeout (core slot : Nat)
  /-- A host write to the mailbox area stores data with presence unchanged (R385). -/
  | hostMailboxWrite (tenant offset : Nat) (value : Word)
  /-- A host write through the presence-setting alias stores data and sets FULL as a sys release (R385). -/
  | hostAliasWrite (tenant offset : Nat) (value : Word)
  /-- A host read of the alias returns the word's presence code (R385). -/
  | hostAliasRead (tenant offset : Nat)
  /-- A host register access of the wrong width, or an AtomicOp to a BAR, completes as Unsupported Request (R384). -/
  | unsupportedRequest (atomic : Bool)
  /-- A PCIe read or AtomicOp completion arrives, with success, UR or CA (R186). -/
  | pcieCompletion (a : Agent) (outcome : PcieOutcome)
  /-- A PCIe request gets no completion within the timeout and raises 0x22 (R186). -/
  | completionTimeout (a : Agent)
  /-- A page-request response is matched against its generation and applied or dropped (R260). -/
  | priResponse (tenant index : Nat) (ok : Bool)
  /-- The PRI response timeout frees an outstanding request record (R260). -/
  | priResponseTimeout (tenant index : Nat)
  /-- A VF FLR increments its reset generation and zeroes its counters (R260). -/
  | functionLevelReset (tenant : Nat)
  /-- Disabling a VF increments its reset generation (R260). -/
  | vfDisable (tenant : Nat)
  /-- An SPDM request over DOE returns signed measurements (R392). -/
  | doeRequest (fn : Nat)
  /-- A cold reset runs the verified boot sequence (R388). -/
  | coldReset (firmware : Option (BitVec 256)) (record : ConfigRecord)
  /-- The freeze input stops every clock, and state becomes readable by scan (R391). -/
  | freezeInput 
  /-- A PF write to the freeze register freezes the package (R391). -/
  | freezeRegisterWrite 
  /-- Temperature above 105 °C or power above the limit steps the core clock down (R393). -/
  | clockThrottle 
  /-- At 115 °C the package sets over-temperature and raises PF vector 7 (R393). -/
  | overTemperature 
  /-- 10 µs after the over-temperature event the package freezes (R393). -/
  | thermalFreeze 
  /-- The tier engine moves a page between near DRAM and the far tier and updates its leaves (R48). -/
  | tierMigration (m : Migration)
  /-- An uncorrectable memory error poisons its line or page and is reported (R53). -/
  | uncorrectableError (phys : Nat) (e : ErrorSite)
  /-- A weight-store bank's refresh window ends, and stalled reads complete (R46). -/
  | refreshWindowEnd (die bank : Nat)
  /-- A write of PLACE discards the core's cached place table (R253). -/
  | placeWrite (v : Word)
  /-- A mode-S write of MXDONE replaces the held step's mask (R328). -/
  | mxdoneWrite (v : Word)
  /-- A BUDGET write below ISSUED stores ISSUED instead (R172). -/
  | budgetWrite (v : Word)
  /-- Writing 1 to TCDROP starts writeback and drop of a cluster's tile cache (R254). -/
  | tcdropWrite (v : Word)
  /-- The tile-cache drop finishes, and held accesses proceed (R254). -/
  | tcdropComplete (cluster : Nat)
  /-- The hypervisor installs a tenant on a region. It writes RBASE, RLEN, PLACE, STATUS.tenant and REGION, writes the identity place table, and binds the transform threads and any resident fibre (R251). -/
  | tenantInstall (tenant : Nat) (r : InstallRoots)
  /-- Enabling a VF lets its tenant exist, so that its configuration record governs launches (R248). -/
  | vfEnable (tenant : Nat) (attach : VfAttach)
  /-- The hypervisor firmware ends a fibre whose fault escalated, and the launch engine counts it as faulted (R136). -/
  | faultedBeyondRecovery (core slot : Nat)
  /-- The host reports an error for a posted write to a HOST page after the write has been emitted, and the report reaches the hypervisor (R187). -/
  | hostWriteErrorReport (addr : Word)
  deriving DecidableEq, Repr

end Sys2Proof
end

