-- ==== Sys2Proof/Decode.lean ====
section
/-! DEFINITION. The encoder and the decoder (R73–R83): from words to instructions, rejecting by name, and back. -/

namespace Sys2Proof

/-! ### Encoding -/

/-- Format RR (R73). -/
def encRR (op : BitVec 6) (d : BitVec 5) (a : BitVec 5) (b : BitVec 5) (fn : BitVec 11) : BitVec 32 :=
  op ++ d ++ a ++ b ++ fn

/-- Format RI (R73). -/
def encRI (op : BitVec 6) (d : BitVec 5) (a : BitVec 5) (imm : BitVec 16) : BitVec 32 :=
  op ++ d ++ a ++ imm

/-- Format RL (R73). -/
def encRL (op : BitVec 6) (d : BitVec 5) (imm : BitVec 21) : BitVec 32 :=
  op ++ d ++ imm

/-- Format RB (R73). -/
def encRB (op : BitVec 6) (cc : BitVec 4) (a : BitVec 5) (b : BitVec 5) (disp : BitVec 12) : BitVec 32 :=
  op ++ cc ++ a ++ b ++ disp

/-- Format J (R73). -/
def encJ (op : BitVec 6) (l : BitVec 1) (disp : BitVec 25) : BitVec 32 :=
  op ++ l ++ disp

/-- Format RM (R73). -/
def encRM (op : BitVec 6) (d : BitVec 5) (a : BitVec 5) (off : BitVec 9) (sc : BitVec 3) (w : BitVec 2) (x : BitVec 2) : BitVec 32 :=
  op ++ d ++ a ++ off ++ sc ++ w ++ x

/-- Format RA (R73). -/
def encRA (op : BitVec 6) (d : BitVec 5) (a : BitVec 5) (b : BitVec 5) (fn : BitVec 5) (sc : BitVec 3) (ord : BitVec 3) : BitVec 32 :=
  op ++ d ++ a ++ b ++ fn ++ sc ++ ord

/-- Format RF (R73). -/
def encRF (op : BitVec 6) (d : BitVec 5) (a : BitVec 5) (b : BitVec 5) (c : BitVec 5) (fn : BitVec 6) : BitVec 32 :=
  op ++ d ++ a ++ b ++ c ++ fn

/-- Format V (R73). -/
def encV (op : BitVec 6) (vd : BitVec 4) (va : BitVec 4) (vb : BitVec 4) (km : BitVec 3) (ew : BitVec 2) (fn : BitVec 9) : BitVec 32 :=
  op ++ vd ++ va ++ vb ++ km ++ ew ++ fn

/-- Format VF (R73). -/
def encVF (op : BitVec 6) (vd : BitVec 4) (va : BitVec 4) (vb : BitVec 4) (vc : BitVec 4) (km : BitVec 3) (fn : BitVec 7) : BitVec 32 :=
  op ++ vd ++ va ++ vb ++ vc ++ km ++ fn

/-- Format VS (R73). -/
def encVS (op : BitVec 6) (vd : BitVec 4) (g : BitVec 5) (va : BitVec 4) (km : BitVec 3) (lane : BitVec 5) (fn : BitVec 5) : BitVec 32 :=
  op ++ vd ++ g ++ va ++ km ++ lane ++ fn

/-- Format VM (R73). -/
def encVM (op : BitVec 6) (vd : BitVec 4) (a : BitVec 5) (b : BitVec 5) (km : BitVec 3) (ew : BitVec 2) (fn : BitVec 7) : BitVec 32 :=
  op ++ vd ++ a ++ b ++ km ++ ew ++ fn

/-- Format S (R73). -/
def encS (op : BitVec 6) (fn : BitVec 6) (a : BitVec 5) (b : BitVec 5) (imm : BitVec 10) : BitVec 32 :=
  op ++ fn ++ a ++ b ++ imm

/-- The word of an instruction, from the encoding tables of the spec. A step without an encoding has none, and
`encode` gives it the word 0, which is no instruction (R81). -/
def encode : Instr → BitVec 32
  | .add d a b => encRR 1 d a b 0#11
  | .sub d a b => encRR 1 d a b 1#11
  | .and d a b => encRR 1 d a b 2#11
  | .or d a b => encRR 1 d a b 3#11
  | .xor d a b => encRR 1 d a b 4#11
  | .sll d a b => encRR 1 d a b 5#11
  | .srl d a b => encRR 1 d a b 6#11
  | .sra d a b => encRR 1 d a b 7#11
  | .slt d a b => encRR 1 d a b 8#11
  | .sltu d a b => encRR 1 d a b 9#11
  | .min d a b => encRR 1 d a b 10#11
  | .max d a b => encRR 1 d a b 11#11
  | .minu d a b => encRR 1 d a b 12#11
  | .maxu d a b => encRR 1 d a b 13#11
  | .clz d a => encRR 1 d a 0#5 14#11
  | .ctz d a => encRR 1 d a 0#5 15#11
  | .popc d a => encRR 1 d a 0#5 16#11
  | .bext d a b => encRR 1 d a b 17#11
  | .bins d a b => encRR 1 d a b 18#11
  | .csel d a b => encRR 1 d a b 19#11
  | .addW d a b => encRR 1 d a b 32#11
  | .subW d a b => encRR 1 d a b 33#11
  | .sllW d a b => encRR 1 d a b 37#11
  | .srlW d a b => encRR 1 d a b 38#11
  | .sraW d a b => encRR 1 d a b 39#11
  | .mul d a b => encRR 2 d a b 0#11
  | .mulh d a b => encRR 2 d a b 1#11
  | .mulhu d a b => encRR 2 d a b 2#11
  | .div d a b => encRR 2 d a b 3#11
  | .divu d a b => encRR 2 d a b 4#11
  | .rem d a b => encRR 2 d a b 5#11
  | .remu d a b => encRR 2 d a b 6#11
  | .mulW d a b => encRR 2 d a b 32#11
  | .addi d a i => encRI 3 d a i
  | .andi d a i => encRI 4 d a i
  | .ori d a i => encRI 5 d a i
  | .xori d a i => encRI 6 d a i
  | .slli d a s => encRI 7 d a (0#10 ++ s)
  | .srli d a s => encRI 7 d a (256#10 ++ s)
  | .srai d a s => encRI 7 d a (512#10 ++ s)
  | .lui d i => encRL 8 d i
  | .addpc d i => encRL 9 d i
  | .slti d a i => encRI 10 d a i
  | .bEq a b d => encRB 11 0#4 a b d
  | .bNe a b d => encRB 11 1#4 a b d
  | .bLt a b d => encRB 11 2#4 a b d
  | .bGe a b d => encRB 11 3#4 a b d
  | .bLtu a b d => encRB 11 4#4 a b d
  | .bGeu a b d => encRB 11 5#4 a b d
  | .bVs d => encRB 11 6#4 0#5 0#5 d
  | .bVc d => encRB 11 7#4 0#5 0#5 d
  | .j d => encJ 12 0#1 d
  | .jal d => encJ 12 1#1 d
  | .jalr d a i => encRI 13 d a i
  | .fadd d a b => encRR 14 d a b 0#11
  | .fsub d a b => encRR 14 d a b 1#11
  | .fmul d a b => encRR 14 d a b 2#11
  | .fdiv d a b => encRR 14 d a b 3#11
  | .fsqrt d a => encRR 14 d a 0#5 4#11
  | .fmin d a b => encRR 14 d a b 5#11
  | .fmax d a b => encRR 14 d a b 6#11
  | .feq d a b => encRR 14 d a b 7#11
  | .flt d a b => encRR 14 d a b 8#11
  | .fle d a b => encRR 14 d a b 9#11
  | .fclass d a => encRR 14 d a 0#5 10#11
  | .fexp2 d a => encRR 14 d a 0#5 11#11
  | .frcp d a => encRR 14 d a 0#5 12#11
  | .fcvt d a f t => encRR 14 d a 0#5 (1#5 ++ f ++ t)
  | .ffma d a b c => encRF 15 d a b c 0#6
  | .ffms d a b c => encRF 15 d a b c 1#6
  | .fnma d a b c => encRF 15 d a b c 2#6
  | .ld d a o s w x q => encRM 16 d a o s w (x ++ q)
  | .st d a o s w q => encRM 17 d a o s w (0#1 ++ q)
  | .lds d a o s => encRM 18 d a o s 3#2 0#2
  | .ldc d a o s => encRM 18 d a o s 3#2 1#2
  | .ldq d a o s => encRM 18 d a o s 3#2 2#2
  | .ldt d a o s => encRM 18 d a o s 3#2 3#2
  | .stf d a o s => encRM 19 d a o s 3#2 0#2
  | .stw d a o s => encRM 19 d a o s 3#2 1#2
  | .stv d a o s => encRM 19 d a o s 3#2 2#2
  | .ste d a o s => encRM 19 d a o s 3#2 3#2
  | .amoAdd d a b s o => encRA 20 d a b 0#5 s o
  | .amoAnd d a b s o => encRA 20 d a b 1#5 s o
  | .amoOr d a b s o => encRA 20 d a b 2#5 s o
  | .amoXor d a b s o => encRA 20 d a b 3#5 s o
  | .amoMin d a b s o => encRA 20 d a b 4#5 s o
  | .amoMax d a b s o => encRA 20 d a b 5#5 s o
  | .amoMinu d a b s o => encRA 20 d a b 6#5 s o
  | .amoMaxu d a b s o => encRA 20 d a b 7#5 s o
  | .amoSwap d a b s o => encRA 20 d a b 8#5 s o
  | .amoCas d a b s o => encRA 20 d a b 9#5 s o
  | .amoFadd d a b s o => encRA 20 d a b 10#5 s o
  | .amoAddW d a b s o => encRA 20 d a b 11#5 s o
  | .fence e s k => encS 21 0#6 0#5 0#5 (0#2 ++ e ++ s ++ k)
  | .bar n l => encS 21 1#6 0#5 0#5 (0#3 ++ n ++ l)
  | .barArrive b n l => encS 21 2#6 0#5 b (0#3 ++ n ++ l)
  | .barWait a n l => encS 21 3#6 a 0#5 (0#3 ++ n ++ l)
  | .arrive a => encS 21 4#6 a 0#5 0#10
  | .expect a b => encS 21 5#6 a b 0#10
  | .waitc a b => encS 21 6#6 a b 0#10
  | .cwinit a b => encS 21 7#6 a b 0#10
  | .putrG a b t s => encS 22 0#6 a b (t ++ s ++ 0#2)
  | .putrV a b t s => encS 22 1#6 (0#1 ++ a) b (0#1 ++ t ++ s ++ 0#2)
  | .trap n => encS 23 0#6 0#5 0#5 n
  | .eret  => encS 23 1#6 0#5 0#5 0#10
  | .csrr b c => encS 23 2#6 0#5 b c
  | .csrw a b c => encS 23 3#6 a b c
  | .csrs a b c => encS 23 4#6 a b c
  | .csrc a b c => encS 23 5#6 a b c
  | .wait a b => encS 23 6#6 a b 0#10
  | .halt  => encS 23 7#6 0#5 0#5 0#10
  | .yield  => encS 23 8#6 0#5 0#5 0#10
  | .ebreak  => encS 23 9#6 0#5 0#5 0#10
  | .tlbinv a k => encS 23 10#6 a 0#5 (0#8 ++ k)
  | .remptyG b => encS 23 12#6 0#5 b 0#10
  | .remptyV v => encS 23 13#6 0#5 (0#1 ++ v) 0#10
  | .vadd d a b k e => encV 24 d a b k e 0#9
  | .vsub d a b k e => encV 24 d a b k e 1#9
  | .vmul d a b k e => encV 24 d a b k e 2#9
  | .vmulh d a b k e => encV 24 d a b k e 3#9
  | .vand d a b k e => encV 24 d a b k e 4#9
  | .vor d a b k e => encV 24 d a b k e 5#9
  | .vxor d a b k e => encV 24 d a b k e 6#9
  | .vsll d a b k e => encV 24 d a b k e 7#9
  | .vsrl d a b k e => encV 24 d a b k e 8#9
  | .vsra d a b k e => encV 24 d a b k e 9#9
  | .vmin d a b k e => encV 24 d a b k e 10#9
  | .vmax d a b k e => encV 24 d a b k e 11#9
  | .vminu d a b k e => encV 24 d a b k e 12#9
  | .vmaxu d a b k e => encV 24 d a b k e 13#9
  | .vadds d a b k e => encV 24 d a b k e 14#9
  | .vsubs d a b k e => encV 24 d a b k e 15#9
  | .vfadd d a b k e => encV 25 d a b k e 0#9
  | .vfsub d a b k e => encV 25 d a b k e 1#9
  | .vfmul d a b k e => encV 25 d a b k e 2#9
  | .vfdiv d a b k e => encV 25 d a b k e 3#9
  | .vfsqrt d a k e => encV 25 d a 0#4 k e 4#9
  | .vfmin d a b k e => encV 25 d a b k e 5#9
  | .vfmax d a b k e => encV 25 d a b k e 6#9
  | .vfexp2 d a k e => encV 25 d a 0#4 k e 7#9
  | .vfrcp d a k e => encV 25 d a 0#4 k e 8#9
  | .vfabs d a k e => encV 25 d a 0#4 k e 9#9
  | .vfneg d a k e => encV 25 d a 0#4 k e 10#9
  | .vfma d a b c k => encVF 26 d a b c k 0#7
  | .vfms d a b c k => encVF 26 d a b c k 1#7
  | .vfnma d a b c k => encVF 26 d a b c k 2#7
  | .vcmpEq d a b k e => encV 27 (0#1 ++ d) a b k e 0#9
  | .vcmpNe d a b k e => encV 27 (0#1 ++ d) a b k e 1#9
  | .vcmpLt d a b k e => encV 27 (0#1 ++ d) a b k e 2#9
  | .vcmpGe d a b k e => encV 27 (0#1 ++ d) a b k e 3#9
  | .vcmpLtu d a b k e => encV 27 (0#1 ++ d) a b k e 4#9
  | .vcmpGeu d a b k e => encV 27 (0#1 ++ d) a b k e 5#9
  | .vfcmpEq d a b k e => encV 27 (0#1 ++ d) a b k e 8#9
  | .vfcmpLt d a b k e => encV 27 (0#1 ++ d) a b k e 9#9
  | .vfcmpLe d a b k e => encV 27 (0#1 ++ d) a b k e 10#9
  | .vfcmpUn d a b k e => encV 27 (0#1 ++ d) a b k e 11#9
  | .vsel d a b k => encV 27 d a b k 2#2 16#9
  | .kand d a b k => encV 27 (0#1 ++ d) (0#1 ++ a) (0#1 ++ b) k 0#2 17#9
  | .kor d a b k => encV 27 (0#1 ++ d) (0#1 ++ a) (0#1 ++ b) k 0#2 18#9
  | .kxor d a b k => encV 27 (0#1 ++ d) (0#1 ++ a) (0#1 ++ b) k 0#2 19#9
  | .knot d a k => encV 27 (0#1 ++ d) (0#1 ++ a) 0#4 k 0#2 20#9
  | .vbcast d g k => encVS 28 d g 0#4 k 0#5 0#5
  | .vext g a l => encVS 28 0#4 g a 0#3 l 1#5
  | .vins d g l => encVS 28 d g 0#4 0#3 l 2#5
  | .kpopc g a k => encVS 28 0#4 g (0#1 ++ a) k 0#5 3#5
  | .kfirst g a k => encVS 28 0#4 g (0#1 ++ a) k 0#5 4#5
  | .vperm d a b k e => encV 28 d a b k e 8#9
  | .vredadd d a k e => encV 28 d a 0#4 k e 10#9
  | .vredmax d a k e => encV 28 d a 0#4 k e 11#9
  | .vredmin d a k e => encV 28 d a 0#4 k e 12#9
  | .vfredadd d a k => encV 28 d a 0#4 k 2#2 13#9
  | .vfredmax d a k => encV 28 d a 0#4 k 2#2 14#9
  | .vtopk d a b k => encV 28 d a b k 2#2 15#9
  | .vscan d a k e => encV 28 d a 0#4 k e 16#9
  | .vld d a k e => encVM 29 d a 0#5 k e 0#7
  | .vst d a k e => encVM 29 d a 0#5 k e 1#7
  | .vlds d a b k e => encVM 29 d a b k e 2#7
  | .vsts d a b k e => encVM 29 d a b k e 3#7
  | .vldsync d a k e => encVM 29 d a 0#5 k e 4#7
  | .vgather d a i k => encVM 30 d a (i ++ 0#1) k 2#2 0#7
  | .vscatter d a i k => encVM 30 d a (i ++ 0#1) k 2#2 1#7
  | .vgatherb d a i k => encVM 30 d a (i ++ 0#1) k 2#2 2#7
  | .vcvt d a k f t => encV 31 d a 0#4 k 0#2 (0#1 ++ f ++ t)
  | .bsAttach a b => encS 32 0#6 a b 0#10
  | .bsGet b n => encS 32 1#6 0#5 b n
  | .bsPeek b n => encS 32 2#6 0#5 b n
  | .bsSkip a n => encS 32 3#6 a 0#5 n
  | .bsVlc a b m => encS 32 4#6 a b m
  | .bsPut a k => encS 32 5#6 a 0#5 k
  | .bsFlush a => encS 32 6#6 a 0#5 0#10
  | .bsOattach a => encS 32 7#6 a 0#5 0#10
  | .rndLo d a b => encRR 33 d a b 0#11
  | .rndHi d a b => encRR 33 d a b 1#11
  | .illegalInstruction _ => 0
  | .lnErw a n => encS 40 0#6 a 0#5 (0#4 ++ n)
  | .lnErr b n => encS 40 1#6 0#5 b (0#4 ++ n)
  | .lnLaunch a b => encS 40 2#6 a b 0#10
  | .lnQstat a b => encS 40 3#6 a b 0#10
  | .lnKill a => encS 40 4#6 a 0#5 0#10
  | .frErw a n => encS 41 0#6 a 0#5 (0#4 ++ n)
  | .frErr b n => encS 41 1#6 0#5 b (0#4 ++ n)
  | .frPush a b => encS 41 2#6 a b 0#10
  | .frPop a => encS 41 3#6 a 0#5 0#10
  | .frEnter a => encS 41 4#6 a 0#5 0#10
  | .frLeave  => encS 41 5#6 0#5 0#5 0#10
  | .frApp a b => encS 41 6#6 a b 0#10
  | .frSeal a => encS 41 7#6 a 0#5 0#10
  | .frCut a b => encS 41 8#6 a b 0#10
  | .frRd a b f => encS 41 9#6 a b (0#5 ++ f)
  | .frScope a v => encS 41 10#6 a 0#5 (0#6 ++ v)
  | .atErw a n => encS 42 0#6 a 0#5 (0#4 ++ n)
  | .atErr b n => encS 42 1#6 0#5 b (0#4 ++ n)
  | .atQ  => encS 42 2#6 0#5 0#5 0#10
  | .atKv a v => encS 42 3#6 a 0#5 (0#6 ++ v)
  | .atTree a b => encS 42 4#6 a b 0#10
  | .atFold a v => encS 42 5#6 a 0#5 (0#6 ++ v)
  | .atLin  => encS 42 6#6 0#5 0#5 0#10
  | .atMerge a => encS 42 7#6 a 0#5 0#10
  | .atOut k => encS 42 8#6 0#5 0#5 (0#9 ++ k)
  | .atReset  => encS 42 9#6 0#5 0#5 0#10
  | .mxErw a n => encS 43 0#6 a 0#5 (0#4 ++ n)
  | .mxErr b n => encS 43 1#6 0#5 b (0#4 ++ n)
  | .mxBegin a => encS 43 2#6 a 0#5 0#10
  | .mxEnd  => encS 43 3#6 0#5 0#5 0#10
  | .mxPerm a b => encS 43 4#6 a b 0#10
  | .mxStep a b => encS 43 5#6 a b 0#10
  | .mxDrain k => encS 43 6#6 0#5 0#5 (0#6 ++ k)
  | .mxClear  => encS 43 7#6 0#5 0#5 0#10
  | .cpErw a n => encS 44 0#6 a 0#5 (0#4 ++ n)
  | .cpErr b n => encS 44 1#6 0#5 b (0#4 ++ n)
  | .cpGo a b => encS 44 2#6 a b 0#10
  | .cpCancel a => encS 44 4#6 a 0#5 0#10
  | .cpSave a => encS 44 5#6 a 0#5 0#10
  | .cpRestore a => encS 44 6#6 a 0#5 0#10
  | .fxErw a n => encS 45 0#6 a 0#5 (0#4 ++ n)
  | .fxErr b n => encS 45 1#6 0#5 b (0#4 ++ n)
  | .fxGo b => encS 45 2#6 0#5 b 0#10
  | .fxSend a => encS 45 3#6 a 0#5 0#10
  | .fxRecv a => encS 45 4#6 a 0#5 0#10
  | .fxBar  => encS 45 5#6 0#5 0#5 0#10
  | .fxAbort  => encS 45 6#6 0#5 0#5 0#10
  | .mkErw a n => encS 46 0#6 a 0#5 (0#4 ++ n)
  | .mkErr b n => encS 46 1#6 0#5 b (0#4 ++ n)
  | .mkLoad a => encS 46 2#6 a 0#5 0#10
  | .mkStep a b => encS 46 3#6 a b 0#10
  | .mkMask a v => encS 46 4#6 a 0#5 (0#6 ++ v)
  | .mkWait a b => encS 46 5#6 a b 0#10
  | .mkForced b => encS 46 6#6 0#5 b 0#10
  | .mkReset  => encS 46 7#6 0#5 0#5 0#10
  | .memoryReply _ _ _ => 0
  | .parkWake _ => 0
  | .waitWake _ _ => 0
  | .cycleBudgetFault => 0
  | .stoppedSlotClear _ _ => 0
  | .missMessage _ => 0
  | .pagerWake _ _ => 0
  | .pagerDecline _ _ => 0
  | .engineCommandAccept _ _ => 0
  | .engineCommandComplete _ _ _ => 0
  | .putrDelivery _ => 0
  | .transformRestart _ => 0
  | .fibreDispatch _ => 0
  | .queueAging _ _ => 0
  | .evictionPosting _ _ _ _ => 0
  | .evictionEvaluation _ => 0
  | .forcedInstant _ => 0
  | .saveSectionsWrite _ _ _ => 0
  | .saveCompleteBit _ => 0
  | .restoreBind _ => 0
  | .slotCleaning _ _ => 0
  | .copyPage _ _ => 0
  | .copyRegisterDelivery _ _ => 0
  | .attentionBlockUpdate _ _ => 0
  | .queryWordRead _ _ => 0
  | .partialRecordRead _ _ => 0
  | .microTile _ _ _ => 0
  | .tileStepStart _ => 0
  | .fabricMessage _ _ _ => 0
  | .fabricNotice _ _ _ => 0
  | .collectiveTimeout _ _ => 0
  | .p2pTransfer _ _ _ => 0
  | .linkUp _ _ _ => 0
  | .linkDown _ _ => 0
  | .rhoiqFlit _ _ _ => 0
  | .flitReplay _ _ _ => 0
  | .exponentCountHalving _ _ _ => 0
  | .codenWrite _ _ _ => 0
  | .maskProductionChunk _ _ => 0
  | .maskReady _ _ => 0
  | .mkWaitTimeout _ _ => 0
  | .hostMailboxWrite _ _ _ => 0
  | .hostAliasWrite _ _ _ => 0
  | .hostAliasRead _ _ => 0
  | .unsupportedRequest _ => 0
  | .pcieCompletion _ _ => 0
  | .completionTimeout _ => 0
  | .priResponse _ _ _ => 0
  | .priResponseTimeout _ _ => 0
  | .functionLevelReset _ => 0
  | .vfDisable _ => 0
  | .doeRequest _ => 0
  | .coldReset _ _ => 0
  | .freezeInput => 0
  | .freezeRegisterWrite => 0
  | .clockThrottle => 0
  | .overTemperature => 0
  | .thermalFreeze => 0
  | .tierMigration _ => 0
  | .uncorrectableError _ _ => 0
  | .refreshWindowEnd _ _ => 0
  | .placeWrite _ => 0
  | .mxdoneWrite _ => 0
  | .budgetWrite _ => 0
  | .tcdropWrite _ => 0
  | .tcdropComplete _ => 0
  | .tenantInstall _ _ => 0
  | .vfEnable _ _ => 0
  | .faultedBeyondRecovery _ _ => 0
  | .hostWriteErrorReport _ => 0

/-! ### Decoding -/

/-- R82, R83: a reserved selecting value gives 0x01 before a nonzero reserved field gives 0x02; a word with neither is the
instruction. -/
def legal (w : BitVec 32) (reserved nonzero : List Bool) (i : Instr) : Except Reject Instr :=
  if reserved.any id then .error (.reserved w)
  else if nonzero.any id then .error (.nonzeroField (w.setWidth 64))
  else .ok i

/-- R83, R219: of a bit-buffer word whose reserved fields are 0, the range of the immediate; the slot is checked in between, so that a word
out of range is told apart. -/
def legalIn (w : BitVec 32) (nonzero : List Bool) (max : Nat) (i : Instr) : Except Reject Instr :=
  if nonzero.any id then .error (.nonzeroField (w.setWidth 64))
  else if w.extractLsb' 0 10 = 0 ∨ max < (w.extractLsb' 0 10).toNat then .error (.immediate w)
  else .ok i

/-- The checks of R19 on an index of an engine with `n` registers: imm[9:6], the register map, then the unused field. -/
def decIndex (w : BitVec 32) (n : Nat) (unused : BitVec 5) (i : Instr) : Except Reject Instr :=
  if w.extractLsb' 6 4 ≠ 0 then .error (.nonzeroField ((w.extractLsb' 0 10).setWidth 64))
  else if n ≤ (w.extractLsb' 0 6).toNat then .error (.nonzeroField ((w.extractLsb' 0 6).setWidth 64))
  else if unused ≠ 0 then .error (.nonzeroField (unused.setWidth 64))
  else .ok i

/-- `XX.erw` of an engine with `n` registers: field b must be 0 (R19). -/
def decErw (w : BitVec 32) (n : Nat) (i : Instr) : Except Reject Instr := decIndex w n (w.extractLsb' 10 5) i

/-- `XX.err` of an engine with `n` registers: field a must be 0 (R19). -/
def decErr (w : BitVec 32) (n : Nat) (i : Instr) : Except Reject Instr := decIndex w n (w.extractLsb' 15 5) i

/-- Major 0x01 (R78). -/
def decInt (w : BitVec 32) : Except Reject Instr :=
  match (w.extractLsb' 0 11).toNat with
  | 0 => legal w [] [] (.add (w.extractLsb' 21 5) (w.extractLsb' 16 5) (w.extractLsb' 11 5))
  | 1 => legal w [] [] (.sub (w.extractLsb' 21 5) (w.extractLsb' 16 5) (w.extractLsb' 11 5))
  | 2 => legal w [] [] (.and (w.extractLsb' 21 5) (w.extractLsb' 16 5) (w.extractLsb' 11 5))
  | 3 => legal w [] [] (.or (w.extractLsb' 21 5) (w.extractLsb' 16 5) (w.extractLsb' 11 5))
  | 4 => legal w [] [] (.xor (w.extractLsb' 21 5) (w.extractLsb' 16 5) (w.extractLsb' 11 5))
  | 5 => legal w [] [] (.sll (w.extractLsb' 21 5) (w.extractLsb' 16 5) (w.extractLsb' 11 5))
  | 6 => legal w [] [] (.srl (w.extractLsb' 21 5) (w.extractLsb' 16 5) (w.extractLsb' 11 5))
  | 7 => legal w [] [] (.sra (w.extractLsb' 21 5) (w.extractLsb' 16 5) (w.extractLsb' 11 5))
  | 8 => legal w [] [] (.slt (w.extractLsb' 21 5) (w.extractLsb' 16 5) (w.extractLsb' 11 5))
  | 9 => legal w [] [] (.sltu (w.extractLsb' 21 5) (w.extractLsb' 16 5) (w.extractLsb' 11 5))
  | 10 => legal w [] [] (.min (w.extractLsb' 21 5) (w.extractLsb' 16 5) (w.extractLsb' 11 5))
  | 11 => legal w [] [] (.max (w.extractLsb' 21 5) (w.extractLsb' 16 5) (w.extractLsb' 11 5))
  | 12 => legal w [] [] (.minu (w.extractLsb' 21 5) (w.extractLsb' 16 5) (w.extractLsb' 11 5))
  | 13 => legal w [] [] (.maxu (w.extractLsb' 21 5) (w.extractLsb' 16 5) (w.extractLsb' 11 5))
  | 14 => legal w [] [decide ((w.extractLsb' 11 5) ≠ 0)] (.clz (w.extractLsb' 21 5) (w.extractLsb' 16 5))
  | 15 => legal w [] [decide ((w.extractLsb' 11 5) ≠ 0)] (.ctz (w.extractLsb' 21 5) (w.extractLsb' 16 5))
  | 16 => legal w [] [decide ((w.extractLsb' 11 5) ≠ 0)] (.popc (w.extractLsb' 21 5) (w.extractLsb' 16 5))
  | 17 => legal w [] [] (.bext (w.extractLsb' 21 5) (w.extractLsb' 16 5) (w.extractLsb' 11 5))
  | 18 => legal w [] [] (.bins (w.extractLsb' 21 5) (w.extractLsb' 16 5) (w.extractLsb' 11 5))
  | 19 => legal w [] [] (.csel (w.extractLsb' 21 5) (w.extractLsb' 16 5) (w.extractLsb' 11 5))
  | 32 => legal w [] [] (.addW (w.extractLsb' 21 5) (w.extractLsb' 16 5) (w.extractLsb' 11 5))
  | 33 => legal w [] [] (.subW (w.extractLsb' 21 5) (w.extractLsb' 16 5) (w.extractLsb' 11 5))
  | 37 => legal w [] [] (.sllW (w.extractLsb' 21 5) (w.extractLsb' 16 5) (w.extractLsb' 11 5))
  | 38 => legal w [] [] (.srlW (w.extractLsb' 21 5) (w.extractLsb' 16 5) (w.extractLsb' 11 5))
  | 39 => legal w [] [] (.sraW (w.extractLsb' 21 5) (w.extractLsb' 16 5) (w.extractLsb' 11 5))
  | _ => .error (.reserved w)

/-- Major 0x02 (R78). -/
def decMulDiv (w : BitVec 32) : Except Reject Instr :=
  match (w.extractLsb' 0 11).toNat with
  | 0 => legal w [] [] (.mul (w.extractLsb' 21 5) (w.extractLsb' 16 5) (w.extractLsb' 11 5))
  | 1 => legal w [] [] (.mulh (w.extractLsb' 21 5) (w.extractLsb' 16 5) (w.extractLsb' 11 5))
  | 2 => legal w [] [] (.mulhu (w.extractLsb' 21 5) (w.extractLsb' 16 5) (w.extractLsb' 11 5))
  | 3 => legal w [] [] (.div (w.extractLsb' 21 5) (w.extractLsb' 16 5) (w.extractLsb' 11 5))
  | 4 => legal w [] [] (.divu (w.extractLsb' 21 5) (w.extractLsb' 16 5) (w.extractLsb' 11 5))
  | 5 => legal w [] [] (.rem (w.extractLsb' 21 5) (w.extractLsb' 16 5) (w.extractLsb' 11 5))
  | 6 => legal w [] [] (.remu (w.extractLsb' 21 5) (w.extractLsb' 16 5) (w.extractLsb' 11 5))
  | 32 => legal w [] [] (.mulW (w.extractLsb' 21 5) (w.extractLsb' 16 5) (w.extractLsb' 11 5))
  | _ => .error (.reserved w)

/-- Major 0x07 (R78). -/
def decShi (w : BitVec 32) : Except Reject Instr :=
  match (w.extractLsb' 14 2).toNat with
  | 0 => legal w [] [decide ((w.extractLsb' 6 8) ≠ 0)] (.slli (w.extractLsb' 21 5) (w.extractLsb' 16 5) (w.extractLsb' 0 6))
  | 1 => legal w [] [decide ((w.extractLsb' 6 8) ≠ 0)] (.srli (w.extractLsb' 21 5) (w.extractLsb' 16 5) (w.extractLsb' 0 6))
  | 2 => legal w [] [decide ((w.extractLsb' 6 8) ≠ 0)] (.srai (w.extractLsb' 21 5) (w.extractLsb' 16 5) (w.extractLsb' 0 6))
  | _ => .error (.reserved w)

/-- Major 0x0B (R78). -/
def decBranch (w : BitVec 32) : Except Reject Instr :=
  match (w.extractLsb' 22 4).toNat with
  | 0 => legal w [] [] (.bEq (w.extractLsb' 17 5) (w.extractLsb' 12 5) (w.extractLsb' 0 12))
  | 1 => legal w [] [] (.bNe (w.extractLsb' 17 5) (w.extractLsb' 12 5) (w.extractLsb' 0 12))
  | 2 => legal w [] [] (.bLt (w.extractLsb' 17 5) (w.extractLsb' 12 5) (w.extractLsb' 0 12))
  | 3 => legal w [] [] (.bGe (w.extractLsb' 17 5) (w.extractLsb' 12 5) (w.extractLsb' 0 12))
  | 4 => legal w [] [] (.bLtu (w.extractLsb' 17 5) (w.extractLsb' 12 5) (w.extractLsb' 0 12))
  | 5 => legal w [] [] (.bGeu (w.extractLsb' 17 5) (w.extractLsb' 12 5) (w.extractLsb' 0 12))
  | 6 => legal w [] [decide ((w.extractLsb' 17 5) ≠ 0), decide ((w.extractLsb' 12 5) ≠ 0)] (.bVs (w.extractLsb' 0 12))
  | 7 => legal w [] [decide ((w.extractLsb' 17 5) ≠ 0), decide ((w.extractLsb' 12 5) ≠ 0)] (.bVc (w.extractLsb' 0 12))
  | _ => .error (.reserved w)

/-- Major 0x0C (R78). -/
def decJump (w : BitVec 32) : Except Reject Instr :=
  match (w.extractLsb' 25 1).toNat with
  | 0 => legal w [] [] (.j (w.extractLsb' 0 25))
  | 1 => legal w [] [] (.jal (w.extractLsb' 0 25))
  | _ => .error (.reserved w)

/-- Major 0x0E (R78). -/
def decFp (w : BitVec 32) : Except Reject Instr :=
  if (w.extractLsb' 6 5) = 1 then
    legal w [decide ((w.extractLsb' 3 3) = (w.extractLsb' 0 3))] [decide ((w.extractLsb' 11 5) ≠ 0)] (.fcvt (w.extractLsb' 21 5) (w.extractLsb' 16 5) (w.extractLsb' 3 3) (w.extractLsb' 0 3))
  else
  match (w.extractLsb' 0 11).toNat with
  | 0 => legal w [] [] (.fadd (w.extractLsb' 21 5) (w.extractLsb' 16 5) (w.extractLsb' 11 5))
  | 1 => legal w [] [] (.fsub (w.extractLsb' 21 5) (w.extractLsb' 16 5) (w.extractLsb' 11 5))
  | 2 => legal w [] [] (.fmul (w.extractLsb' 21 5) (w.extractLsb' 16 5) (w.extractLsb' 11 5))
  | 3 => legal w [] [] (.fdiv (w.extractLsb' 21 5) (w.extractLsb' 16 5) (w.extractLsb' 11 5))
  | 4 => legal w [] [decide ((w.extractLsb' 11 5) ≠ 0)] (.fsqrt (w.extractLsb' 21 5) (w.extractLsb' 16 5))
  | 5 => legal w [] [] (.fmin (w.extractLsb' 21 5) (w.extractLsb' 16 5) (w.extractLsb' 11 5))
  | 6 => legal w [] [] (.fmax (w.extractLsb' 21 5) (w.extractLsb' 16 5) (w.extractLsb' 11 5))
  | 7 => legal w [] [] (.feq (w.extractLsb' 21 5) (w.extractLsb' 16 5) (w.extractLsb' 11 5))
  | 8 => legal w [] [] (.flt (w.extractLsb' 21 5) (w.extractLsb' 16 5) (w.extractLsb' 11 5))
  | 9 => legal w [] [] (.fle (w.extractLsb' 21 5) (w.extractLsb' 16 5) (w.extractLsb' 11 5))
  | 10 => legal w [] [decide ((w.extractLsb' 11 5) ≠ 0)] (.fclass (w.extractLsb' 21 5) (w.extractLsb' 16 5))
  | 11 => legal w [] [decide ((w.extractLsb' 11 5) ≠ 0)] (.fexp2 (w.extractLsb' 21 5) (w.extractLsb' 16 5))
  | 12 => legal w [] [decide ((w.extractLsb' 11 5) ≠ 0)] (.frcp (w.extractLsb' 21 5) (w.extractLsb' 16 5))
  | _ => .error (.reserved w)

/-- Major 0x0F (R78). -/
def decFfma (w : BitVec 32) : Except Reject Instr :=
  match (w.extractLsb' 0 6).toNat with
  | 0 => legal w [] [] (.ffma (w.extractLsb' 21 5) (w.extractLsb' 16 5) (w.extractLsb' 11 5) (w.extractLsb' 6 5))
  | 1 => legal w [] [] (.ffms (w.extractLsb' 21 5) (w.extractLsb' 16 5) (w.extractLsb' 11 5) (w.extractLsb' 6 5))
  | 2 => legal w [] [] (.fnma (w.extractLsb' 21 5) (w.extractLsb' 16 5) (w.extractLsb' 11 5) (w.extractLsb' 6 5))
  | _ => .error (.reserved w)

/-- Major 0x12 (R78). -/
def decPresLoad (w : BitVec 32) : Except Reject Instr :=
  if (w.extractLsb' 2 2) ≠ 3 then .error (.reserved w) else
  match (w.extractLsb' 0 2).toNat with
  | 0 => legal w [decide ((w.extractLsb' 4 3) = 7)] [] (.lds (w.extractLsb' 21 5) (w.extractLsb' 16 5) (w.extractLsb' 7 9) (w.extractLsb' 4 3))
  | 1 => legal w [decide ((w.extractLsb' 4 3) = 7)] [] (.ldc (w.extractLsb' 21 5) (w.extractLsb' 16 5) (w.extractLsb' 7 9) (w.extractLsb' 4 3))
  | 2 => legal w [decide ((w.extractLsb' 4 3) = 7)] [] (.ldq (w.extractLsb' 21 5) (w.extractLsb' 16 5) (w.extractLsb' 7 9) (w.extractLsb' 4 3))
  | 3 => legal w [decide ((w.extractLsb' 4 3) = 7)] [] (.ldt (w.extractLsb' 21 5) (w.extractLsb' 16 5) (w.extractLsb' 7 9) (w.extractLsb' 4 3))
  | _ => .error (.reserved w)

/-- Major 0x13 (R78). -/
def decPresStore (w : BitVec 32) : Except Reject Instr :=
  if (w.extractLsb' 2 2) ≠ 3 then .error (.reserved w) else
  match (w.extractLsb' 0 2).toNat with
  | 0 => legal w [decide ((w.extractLsb' 4 3) = 7)] [] (.stf (w.extractLsb' 21 5) (w.extractLsb' 16 5) (w.extractLsb' 7 9) (w.extractLsb' 4 3))
  | 1 => legal w [decide ((w.extractLsb' 4 3) = 7)] [] (.stw (w.extractLsb' 21 5) (w.extractLsb' 16 5) (w.extractLsb' 7 9) (w.extractLsb' 4 3))
  | 2 => legal w [decide ((w.extractLsb' 4 3) = 7)] [] (.stv (w.extractLsb' 21 5) (w.extractLsb' 16 5) (w.extractLsb' 7 9) (w.extractLsb' 4 3))
  | 3 => legal w [decide ((w.extractLsb' 4 3) = 7)] [] (.ste (w.extractLsb' 21 5) (w.extractLsb' 16 5) (w.extractLsb' 7 9) (w.extractLsb' 4 3))
  | _ => .error (.reserved w)

/-- Major 0x14 (R78). -/
def decAmo (w : BitVec 32) : Except Reject Instr :=
  match (w.extractLsb' 6 5).toNat with
  | 0 => legal w [decide ((w.extractLsb' 3 3) = 7), decide (4 < (w.extractLsb' 0 3))] [] (.amoAdd (w.extractLsb' 21 5) (w.extractLsb' 16 5) (w.extractLsb' 11 5) (w.extractLsb' 3 3) (w.extractLsb' 0 3))
  | 1 => legal w [decide ((w.extractLsb' 3 3) = 7), decide (4 < (w.extractLsb' 0 3))] [] (.amoAnd (w.extractLsb' 21 5) (w.extractLsb' 16 5) (w.extractLsb' 11 5) (w.extractLsb' 3 3) (w.extractLsb' 0 3))
  | 2 => legal w [decide ((w.extractLsb' 3 3) = 7), decide (4 < (w.extractLsb' 0 3))] [] (.amoOr (w.extractLsb' 21 5) (w.extractLsb' 16 5) (w.extractLsb' 11 5) (w.extractLsb' 3 3) (w.extractLsb' 0 3))
  | 3 => legal w [decide ((w.extractLsb' 3 3) = 7), decide (4 < (w.extractLsb' 0 3))] [] (.amoXor (w.extractLsb' 21 5) (w.extractLsb' 16 5) (w.extractLsb' 11 5) (w.extractLsb' 3 3) (w.extractLsb' 0 3))
  | 4 => legal w [decide ((w.extractLsb' 3 3) = 7), decide (4 < (w.extractLsb' 0 3))] [] (.amoMin (w.extractLsb' 21 5) (w.extractLsb' 16 5) (w.extractLsb' 11 5) (w.extractLsb' 3 3) (w.extractLsb' 0 3))
  | 5 => legal w [decide ((w.extractLsb' 3 3) = 7), decide (4 < (w.extractLsb' 0 3))] [] (.amoMax (w.extractLsb' 21 5) (w.extractLsb' 16 5) (w.extractLsb' 11 5) (w.extractLsb' 3 3) (w.extractLsb' 0 3))
  | 6 => legal w [decide ((w.extractLsb' 3 3) = 7), decide (4 < (w.extractLsb' 0 3))] [] (.amoMinu (w.extractLsb' 21 5) (w.extractLsb' 16 5) (w.extractLsb' 11 5) (w.extractLsb' 3 3) (w.extractLsb' 0 3))
  | 7 => legal w [decide ((w.extractLsb' 3 3) = 7), decide (4 < (w.extractLsb' 0 3))] [] (.amoMaxu (w.extractLsb' 21 5) (w.extractLsb' 16 5) (w.extractLsb' 11 5) (w.extractLsb' 3 3) (w.extractLsb' 0 3))
  | 8 => legal w [decide ((w.extractLsb' 3 3) = 7), decide (4 < (w.extractLsb' 0 3))] [] (.amoSwap (w.extractLsb' 21 5) (w.extractLsb' 16 5) (w.extractLsb' 11 5) (w.extractLsb' 3 3) (w.extractLsb' 0 3))
  | 9 => legal w [decide ((w.extractLsb' 3 3) = 7), decide (4 < (w.extractLsb' 0 3))] [] (.amoCas (w.extractLsb' 21 5) (w.extractLsb' 16 5) (w.extractLsb' 11 5) (w.extractLsb' 3 3) (w.extractLsb' 0 3))
  | 10 => legal w [decide ((w.extractLsb' 3 3) = 7), decide (4 < (w.extractLsb' 0 3))] [] (.amoFadd (w.extractLsb' 21 5) (w.extractLsb' 16 5) (w.extractLsb' 11 5) (w.extractLsb' 3 3) (w.extractLsb' 0 3))
  | 11 => legal w [decide ((w.extractLsb' 3 3) = 7), decide (4 < (w.extractLsb' 0 3))] [] (.amoAddW (w.extractLsb' 21 5) (w.extractLsb' 16 5) (w.extractLsb' 11 5) (w.extractLsb' 3 3) (w.extractLsb' 0 3))
  | _ => .error (.reserved w)

/-- Major 0x15 (R78). -/
def decSync (w : BitVec 32) : Except Reject Instr :=
  match (w.extractLsb' 20 6).toNat with
  | 0 => legal w [decide ((w.extractLsb' 4 3) = 7)] [decide ((w.extractLsb' 15 5) ≠ 0), decide ((w.extractLsb' 10 5) ≠ 0), decide ((w.extractLsb' 8 2) ≠ 0)] (.fence (w.extractLsb' 7 1) (w.extractLsb' 4 3) (w.extractLsb' 0 4))
  | 1 => legal w [decide (5 < (w.extractLsb' 0 3))] [decide ((w.extractLsb' 15 5) ≠ 0), decide ((w.extractLsb' 10 5) ≠ 0), decide ((w.extractLsb' 7 3) ≠ 0)] (.bar (w.extractLsb' 3 4) (w.extractLsb' 0 3))
  | 2 => legal w [decide (5 < (w.extractLsb' 0 3))] [decide ((w.extractLsb' 15 5) ≠ 0), decide ((w.extractLsb' 7 3) ≠ 0)] (.barArrive (w.extractLsb' 10 5) (w.extractLsb' 3 4) (w.extractLsb' 0 3))
  | 3 => legal w [decide (5 < (w.extractLsb' 0 3))] [decide ((w.extractLsb' 10 5) ≠ 0), decide ((w.extractLsb' 7 3) ≠ 0)] (.barWait (w.extractLsb' 15 5) (w.extractLsb' 3 4) (w.extractLsb' 0 3))
  | 4 => legal w [] [decide ((w.extractLsb' 10 5) ≠ 0), decide ((w.extractLsb' 0 10) ≠ 0)] (.arrive (w.extractLsb' 15 5))
  | 5 => legal w [] [decide ((w.extractLsb' 0 10) ≠ 0)] (.expect (w.extractLsb' 15 5) (w.extractLsb' 10 5))
  | 6 => legal w [] [decide ((w.extractLsb' 0 10) ≠ 0)] (.waitc (w.extractLsb' 15 5) (w.extractLsb' 10 5))
  | 7 => legal w [] [decide ((w.extractLsb' 0 10) ≠ 0)] (.cwinit (w.extractLsb' 15 5) (w.extractLsb' 10 5))
  | _ => .error (.reserved w)

/-- Major 0x16 (R78). -/
def decPutr (w : BitVec 32) : Except Reject Instr :=
  match (w.extractLsb' 20 6).toNat with
  | 0 => legal w [] [decide ((w.extractLsb' 0 2) ≠ 0)] (.putrG (w.extractLsb' 15 5) (w.extractLsb' 10 5) (w.extractLsb' 5 5) (w.extractLsb' 2 3))
  | 1 => legal w [] [decide ((w.extractLsb' 19 1) ≠ 0), decide ((w.extractLsb' 0 2) ≠ 0), decide ((w.extractLsb' 9 1) ≠ 0)] (.putrV (w.extractLsb' 15 4) (w.extractLsb' 10 5) (w.extractLsb' 5 4) (w.extractLsb' 2 3))
  | _ => .error (.reserved w)

/-- Major 0x17 (R78). -/
def decSys (w : BitVec 32) : Except Reject Instr :=
  match (w.extractLsb' 20 6).toNat with
  | 0 => legal w [] [decide ((w.extractLsb' 15 5) ≠ 0), decide ((w.extractLsb' 10 5) ≠ 0)] (.trap (w.extractLsb' 0 10))
  | 1 => legal w [] [decide ((w.extractLsb' 15 5) ≠ 0), decide ((w.extractLsb' 10 5) ≠ 0), decide ((w.extractLsb' 0 10) ≠ 0)] (.eret)
  | 2 => legal w [] [decide ((w.extractLsb' 15 5) ≠ 0)] (.csrr (w.extractLsb' 10 5) (w.extractLsb' 0 10))
  | 3 => legal w [] [] (.csrw (w.extractLsb' 15 5) (w.extractLsb' 10 5) (w.extractLsb' 0 10))
  | 4 => legal w [] [] (.csrs (w.extractLsb' 15 5) (w.extractLsb' 10 5) (w.extractLsb' 0 10))
  | 5 => legal w [] [] (.csrc (w.extractLsb' 15 5) (w.extractLsb' 10 5) (w.extractLsb' 0 10))
  | 6 => legal w [] [decide ((w.extractLsb' 0 10) ≠ 0)] (.wait (w.extractLsb' 15 5) (w.extractLsb' 10 5))
  | 7 => legal w [] [decide ((w.extractLsb' 15 5) ≠ 0), decide ((w.extractLsb' 10 5) ≠ 0), decide ((w.extractLsb' 0 10) ≠ 0)] (.halt)
  | 8 => legal w [] [decide ((w.extractLsb' 15 5) ≠ 0), decide ((w.extractLsb' 10 5) ≠ 0), decide ((w.extractLsb' 0 10) ≠ 0)] (.yield)
  | 9 => legal w [] [decide ((w.extractLsb' 15 5) ≠ 0), decide ((w.extractLsb' 10 5) ≠ 0), decide ((w.extractLsb' 0 10) ≠ 0)] (.ebreak)
  | 10 => legal w [] [decide ((w.extractLsb' 10 5) ≠ 0), decide ((w.extractLsb' 2 8) ≠ 0)] (.tlbinv (w.extractLsb' 15 5) (w.extractLsb' 0 2))
  | 12 => legal w [] [decide ((w.extractLsb' 15 5) ≠ 0), decide ((w.extractLsb' 0 10) ≠ 0)] (.remptyG (w.extractLsb' 10 5))
  | 13 => legal w [] [decide ((w.extractLsb' 15 5) ≠ 0), decide ((w.extractLsb' 14 1) ≠ 0), decide ((w.extractLsb' 0 10) ≠ 0)] (.remptyV (w.extractLsb' 10 4))
  | _ => .error (.reserved w)

/-- Major 0x18 (R78). -/
def decVint (w : BitVec 32) : Except Reject Instr :=
  match (w.extractLsb' 0 9).toNat with
  | 0 => legal w [decide ((w.extractLsb' 9 2) = 3)] [] (.vadd (w.extractLsb' 22 4) (w.extractLsb' 18 4) (w.extractLsb' 14 4) (w.extractLsb' 11 3) (w.extractLsb' 9 2))
  | 1 => legal w [decide ((w.extractLsb' 9 2) = 3)] [] (.vsub (w.extractLsb' 22 4) (w.extractLsb' 18 4) (w.extractLsb' 14 4) (w.extractLsb' 11 3) (w.extractLsb' 9 2))
  | 2 => legal w [decide ((w.extractLsb' 9 2) = 3)] [] (.vmul (w.extractLsb' 22 4) (w.extractLsb' 18 4) (w.extractLsb' 14 4) (w.extractLsb' 11 3) (w.extractLsb' 9 2))
  | 3 => legal w [decide ((w.extractLsb' 9 2) = 3)] [] (.vmulh (w.extractLsb' 22 4) (w.extractLsb' 18 4) (w.extractLsb' 14 4) (w.extractLsb' 11 3) (w.extractLsb' 9 2))
  | 4 => legal w [decide ((w.extractLsb' 9 2) = 3)] [] (.vand (w.extractLsb' 22 4) (w.extractLsb' 18 4) (w.extractLsb' 14 4) (w.extractLsb' 11 3) (w.extractLsb' 9 2))
  | 5 => legal w [decide ((w.extractLsb' 9 2) = 3)] [] (.vor (w.extractLsb' 22 4) (w.extractLsb' 18 4) (w.extractLsb' 14 4) (w.extractLsb' 11 3) (w.extractLsb' 9 2))
  | 6 => legal w [decide ((w.extractLsb' 9 2) = 3)] [] (.vxor (w.extractLsb' 22 4) (w.extractLsb' 18 4) (w.extractLsb' 14 4) (w.extractLsb' 11 3) (w.extractLsb' 9 2))
  | 7 => legal w [decide ((w.extractLsb' 9 2) = 3)] [] (.vsll (w.extractLsb' 22 4) (w.extractLsb' 18 4) (w.extractLsb' 14 4) (w.extractLsb' 11 3) (w.extractLsb' 9 2))
  | 8 => legal w [decide ((w.extractLsb' 9 2) = 3)] [] (.vsrl (w.extractLsb' 22 4) (w.extractLsb' 18 4) (w.extractLsb' 14 4) (w.extractLsb' 11 3) (w.extractLsb' 9 2))
  | 9 => legal w [decide ((w.extractLsb' 9 2) = 3)] [] (.vsra (w.extractLsb' 22 4) (w.extractLsb' 18 4) (w.extractLsb' 14 4) (w.extractLsb' 11 3) (w.extractLsb' 9 2))
  | 10 => legal w [decide ((w.extractLsb' 9 2) = 3)] [] (.vmin (w.extractLsb' 22 4) (w.extractLsb' 18 4) (w.extractLsb' 14 4) (w.extractLsb' 11 3) (w.extractLsb' 9 2))
  | 11 => legal w [decide ((w.extractLsb' 9 2) = 3)] [] (.vmax (w.extractLsb' 22 4) (w.extractLsb' 18 4) (w.extractLsb' 14 4) (w.extractLsb' 11 3) (w.extractLsb' 9 2))
  | 12 => legal w [decide ((w.extractLsb' 9 2) = 3)] [] (.vminu (w.extractLsb' 22 4) (w.extractLsb' 18 4) (w.extractLsb' 14 4) (w.extractLsb' 11 3) (w.extractLsb' 9 2))
  | 13 => legal w [decide ((w.extractLsb' 9 2) = 3)] [] (.vmaxu (w.extractLsb' 22 4) (w.extractLsb' 18 4) (w.extractLsb' 14 4) (w.extractLsb' 11 3) (w.extractLsb' 9 2))
  | 14 => legal w [decide ((w.extractLsb' 9 2) = 3)] [] (.vadds (w.extractLsb' 22 4) (w.extractLsb' 18 4) (w.extractLsb' 14 4) (w.extractLsb' 11 3) (w.extractLsb' 9 2))
  | 15 => legal w [decide ((w.extractLsb' 9 2) = 3)] [] (.vsubs (w.extractLsb' 22 4) (w.extractLsb' 18 4) (w.extractLsb' 14 4) (w.extractLsb' 11 3) (w.extractLsb' 9 2))
  | _ => .error (.reserved w)

/-- Major 0x19 (R78). -/
def decVfp (w : BitVec 32) : Except Reject Instr :=
  match (w.extractLsb' 0 9).toNat with
  | 0 => legal w [decide ((w.extractLsb' 9 2) = 0), decide ((w.extractLsb' 9 2) = 3)] [] (.vfadd (w.extractLsb' 22 4) (w.extractLsb' 18 4) (w.extractLsb' 14 4) (w.extractLsb' 11 3) (w.extractLsb' 9 2))
  | 1 => legal w [decide ((w.extractLsb' 9 2) = 0), decide ((w.extractLsb' 9 2) = 3)] [] (.vfsub (w.extractLsb' 22 4) (w.extractLsb' 18 4) (w.extractLsb' 14 4) (w.extractLsb' 11 3) (w.extractLsb' 9 2))
  | 2 => legal w [decide ((w.extractLsb' 9 2) = 0), decide ((w.extractLsb' 9 2) = 3)] [] (.vfmul (w.extractLsb' 22 4) (w.extractLsb' 18 4) (w.extractLsb' 14 4) (w.extractLsb' 11 3) (w.extractLsb' 9 2))
  | 3 => legal w [decide ((w.extractLsb' 9 2) = 0), decide ((w.extractLsb' 9 2) = 3)] [] (.vfdiv (w.extractLsb' 22 4) (w.extractLsb' 18 4) (w.extractLsb' 14 4) (w.extractLsb' 11 3) (w.extractLsb' 9 2))
  | 4 => legal w [decide ((w.extractLsb' 9 2) = 0), decide ((w.extractLsb' 9 2) = 3)] [decide ((w.extractLsb' 14 4) ≠ 0)] (.vfsqrt (w.extractLsb' 22 4) (w.extractLsb' 18 4) (w.extractLsb' 11 3) (w.extractLsb' 9 2))
  | 5 => legal w [decide ((w.extractLsb' 9 2) = 0), decide ((w.extractLsb' 9 2) = 3)] [] (.vfmin (w.extractLsb' 22 4) (w.extractLsb' 18 4) (w.extractLsb' 14 4) (w.extractLsb' 11 3) (w.extractLsb' 9 2))
  | 6 => legal w [decide ((w.extractLsb' 9 2) = 0), decide ((w.extractLsb' 9 2) = 3)] [] (.vfmax (w.extractLsb' 22 4) (w.extractLsb' 18 4) (w.extractLsb' 14 4) (w.extractLsb' 11 3) (w.extractLsb' 9 2))
  | 7 => legal w [decide ((w.extractLsb' 9 2) = 0), decide ((w.extractLsb' 9 2) = 3)] [decide ((w.extractLsb' 14 4) ≠ 0)] (.vfexp2 (w.extractLsb' 22 4) (w.extractLsb' 18 4) (w.extractLsb' 11 3) (w.extractLsb' 9 2))
  | 8 => legal w [decide ((w.extractLsb' 9 2) = 0), decide ((w.extractLsb' 9 2) = 3)] [decide ((w.extractLsb' 14 4) ≠ 0)] (.vfrcp (w.extractLsb' 22 4) (w.extractLsb' 18 4) (w.extractLsb' 11 3) (w.extractLsb' 9 2))
  | 9 => legal w [decide ((w.extractLsb' 9 2) = 0), decide ((w.extractLsb' 9 2) = 3)] [decide ((w.extractLsb' 14 4) ≠ 0)] (.vfabs (w.extractLsb' 22 4) (w.extractLsb' 18 4) (w.extractLsb' 11 3) (w.extractLsb' 9 2))
  | 10 => legal w [decide ((w.extractLsb' 9 2) = 0), decide ((w.extractLsb' 9 2) = 3)] [decide ((w.extractLsb' 14 4) ≠ 0)] (.vfneg (w.extractLsb' 22 4) (w.extractLsb' 18 4) (w.extractLsb' 11 3) (w.extractLsb' 9 2))
  | _ => .error (.reserved w)

/-- Major 0x1A (R78). -/
def decVfma (w : BitVec 32) : Except Reject Instr :=
  match (w.extractLsb' 0 5).toNat with
  | 0 => legal w [] [decide ((w.extractLsb' 5 2) ≠ 0)] (.vfma (w.extractLsb' 22 4) (w.extractLsb' 18 4) (w.extractLsb' 14 4) (w.extractLsb' 10 4) (w.extractLsb' 7 3))
  | 1 => legal w [] [decide ((w.extractLsb' 5 2) ≠ 0)] (.vfms (w.extractLsb' 22 4) (w.extractLsb' 18 4) (w.extractLsb' 14 4) (w.extractLsb' 10 4) (w.extractLsb' 7 3))
  | 2 => legal w [] [decide ((w.extractLsb' 5 2) ≠ 0)] (.vfnma (w.extractLsb' 22 4) (w.extractLsb' 18 4) (w.extractLsb' 14 4) (w.extractLsb' 10 4) (w.extractLsb' 7 3))
  | _ => .error (.reserved w)

/-- Major 0x1B (R78). -/
def decVmask (w : BitVec 32) : Except Reject Instr :=
  match (w.extractLsb' 0 9).toNat with
  | 0 => legal w [decide ((w.extractLsb' 9 2) = 3)] [decide ((w.extractLsb' 25 1) ≠ 0)] (.vcmpEq (w.extractLsb' 22 3) (w.extractLsb' 18 4) (w.extractLsb' 14 4) (w.extractLsb' 11 3) (w.extractLsb' 9 2))
  | 1 => legal w [decide ((w.extractLsb' 9 2) = 3)] [decide ((w.extractLsb' 25 1) ≠ 0)] (.vcmpNe (w.extractLsb' 22 3) (w.extractLsb' 18 4) (w.extractLsb' 14 4) (w.extractLsb' 11 3) (w.extractLsb' 9 2))
  | 2 => legal w [decide ((w.extractLsb' 9 2) = 3)] [decide ((w.extractLsb' 25 1) ≠ 0)] (.vcmpLt (w.extractLsb' 22 3) (w.extractLsb' 18 4) (w.extractLsb' 14 4) (w.extractLsb' 11 3) (w.extractLsb' 9 2))
  | 3 => legal w [decide ((w.extractLsb' 9 2) = 3)] [decide ((w.extractLsb' 25 1) ≠ 0)] (.vcmpGe (w.extractLsb' 22 3) (w.extractLsb' 18 4) (w.extractLsb' 14 4) (w.extractLsb' 11 3) (w.extractLsb' 9 2))
  | 4 => legal w [decide ((w.extractLsb' 9 2) = 3)] [decide ((w.extractLsb' 25 1) ≠ 0)] (.vcmpLtu (w.extractLsb' 22 3) (w.extractLsb' 18 4) (w.extractLsb' 14 4) (w.extractLsb' 11 3) (w.extractLsb' 9 2))
  | 5 => legal w [decide ((w.extractLsb' 9 2) = 3)] [decide ((w.extractLsb' 25 1) ≠ 0)] (.vcmpGeu (w.extractLsb' 22 3) (w.extractLsb' 18 4) (w.extractLsb' 14 4) (w.extractLsb' 11 3) (w.extractLsb' 9 2))
  | 8 => legal w [decide ((w.extractLsb' 9 2) = 0), decide ((w.extractLsb' 9 2) = 3)] [decide ((w.extractLsb' 25 1) ≠ 0)] (.vfcmpEq (w.extractLsb' 22 3) (w.extractLsb' 18 4) (w.extractLsb' 14 4) (w.extractLsb' 11 3) (w.extractLsb' 9 2))
  | 9 => legal w [decide ((w.extractLsb' 9 2) = 0), decide ((w.extractLsb' 9 2) = 3)] [decide ((w.extractLsb' 25 1) ≠ 0)] (.vfcmpLt (w.extractLsb' 22 3) (w.extractLsb' 18 4) (w.extractLsb' 14 4) (w.extractLsb' 11 3) (w.extractLsb' 9 2))
  | 10 => legal w [decide ((w.extractLsb' 9 2) = 0), decide ((w.extractLsb' 9 2) = 3)] [decide ((w.extractLsb' 25 1) ≠ 0)] (.vfcmpLe (w.extractLsb' 22 3) (w.extractLsb' 18 4) (w.extractLsb' 14 4) (w.extractLsb' 11 3) (w.extractLsb' 9 2))
  | 11 => legal w [decide ((w.extractLsb' 9 2) = 0), decide ((w.extractLsb' 9 2) = 3)] [decide ((w.extractLsb' 25 1) ≠ 0)] (.vfcmpUn (w.extractLsb' 22 3) (w.extractLsb' 18 4) (w.extractLsb' 14 4) (w.extractLsb' 11 3) (w.extractLsb' 9 2))
  | 16 => legal w [decide ((w.extractLsb' 9 2) ≠ 2)] [] (.vsel (w.extractLsb' 22 4) (w.extractLsb' 18 4) (w.extractLsb' 14 4) (w.extractLsb' 11 3))
  | 17 => legal w [] [decide ((w.extractLsb' 25 1) ≠ 0), decide ((w.extractLsb' 21 1) ≠ 0), decide ((w.extractLsb' 17 1) ≠ 0), decide ((w.extractLsb' 9 2) ≠ 0)] (.kand (w.extractLsb' 22 3) (w.extractLsb' 18 3) (w.extractLsb' 14 3) (w.extractLsb' 11 3))
  | 18 => legal w [] [decide ((w.extractLsb' 25 1) ≠ 0), decide ((w.extractLsb' 21 1) ≠ 0), decide ((w.extractLsb' 17 1) ≠ 0), decide ((w.extractLsb' 9 2) ≠ 0)] (.kor (w.extractLsb' 22 3) (w.extractLsb' 18 3) (w.extractLsb' 14 3) (w.extractLsb' 11 3))
  | 19 => legal w [] [decide ((w.extractLsb' 25 1) ≠ 0), decide ((w.extractLsb' 21 1) ≠ 0), decide ((w.extractLsb' 17 1) ≠ 0), decide ((w.extractLsb' 9 2) ≠ 0)] (.kxor (w.extractLsb' 22 3) (w.extractLsb' 18 3) (w.extractLsb' 14 3) (w.extractLsb' 11 3))
  | 20 => legal w [] [decide ((w.extractLsb' 25 1) ≠ 0), decide ((w.extractLsb' 21 1) ≠ 0), decide ((w.extractLsb' 14 4) ≠ 0), decide ((w.extractLsb' 9 2) ≠ 0)] (.knot (w.extractLsb' 22 3) (w.extractLsb' 18 3) (w.extractLsb' 11 3))
  | _ => .error (.reserved w)

/-- Major 0x1C (R78). -/
def decVperm (w : BitVec 32) : Except Reject Instr :=
  match (w.extractLsb' 0 5).toNat with
  | 0 => legal w [] [decide ((w.extractLsb' 13 4) ≠ 0), decide ((w.extractLsb' 5 5) ≠ 0)] (.vbcast (w.extractLsb' 22 4) (w.extractLsb' 17 5) (w.extractLsb' 10 3))
  | 1 => legal w [] [decide ((w.extractLsb' 22 4) ≠ 0), decide ((w.extractLsb' 10 3) ≠ 0)] (.vext (w.extractLsb' 17 5) (w.extractLsb' 13 4) (w.extractLsb' 5 5))
  | 2 => legal w [] [decide ((w.extractLsb' 13 4) ≠ 0), decide ((w.extractLsb' 10 3) ≠ 0)] (.vins (w.extractLsb' 22 4) (w.extractLsb' 17 5) (w.extractLsb' 5 5))
  | 3 => legal w [] [decide ((w.extractLsb' 22 4) ≠ 0), decide ((w.extractLsb' 16 1) ≠ 0), decide ((w.extractLsb' 5 5) ≠ 0)] (.kpopc (w.extractLsb' 17 5) (w.extractLsb' 13 3) (w.extractLsb' 10 3))
  | 4 => legal w [] [decide ((w.extractLsb' 22 4) ≠ 0), decide ((w.extractLsb' 16 1) ≠ 0), decide ((w.extractLsb' 5 5) ≠ 0)] (.kfirst (w.extractLsb' 17 5) (w.extractLsb' 13 3) (w.extractLsb' 10 3))
  | 8 => legal w [decide ((w.extractLsb' 9 2) = 3)] [decide ((w.extractLsb' 5 4) ≠ 0)] (.vperm (w.extractLsb' 22 4) (w.extractLsb' 18 4) (w.extractLsb' 14 4) (w.extractLsb' 11 3) (w.extractLsb' 9 2))
  | 10 => legal w [decide ((w.extractLsb' 9 2) = 3)] [decide ((w.extractLsb' 14 4) ≠ 0), decide ((w.extractLsb' 5 4) ≠ 0)] (.vredadd (w.extractLsb' 22 4) (w.extractLsb' 18 4) (w.extractLsb' 11 3) (w.extractLsb' 9 2))
  | 11 => legal w [decide ((w.extractLsb' 9 2) = 3)] [decide ((w.extractLsb' 14 4) ≠ 0), decide ((w.extractLsb' 5 4) ≠ 0)] (.vredmax (w.extractLsb' 22 4) (w.extractLsb' 18 4) (w.extractLsb' 11 3) (w.extractLsb' 9 2))
  | 12 => legal w [decide ((w.extractLsb' 9 2) = 3)] [decide ((w.extractLsb' 14 4) ≠ 0), decide ((w.extractLsb' 5 4) ≠ 0)] (.vredmin (w.extractLsb' 22 4) (w.extractLsb' 18 4) (w.extractLsb' 11 3) (w.extractLsb' 9 2))
  | 13 => legal w [decide ((w.extractLsb' 9 2) ≠ 2)] [decide ((w.extractLsb' 14 4) ≠ 0), decide ((w.extractLsb' 5 4) ≠ 0)] (.vfredadd (w.extractLsb' 22 4) (w.extractLsb' 18 4) (w.extractLsb' 11 3))
  | 14 => legal w [decide ((w.extractLsb' 9 2) ≠ 2)] [decide ((w.extractLsb' 14 4) ≠ 0), decide ((w.extractLsb' 5 4) ≠ 0)] (.vfredmax (w.extractLsb' 22 4) (w.extractLsb' 18 4) (w.extractLsb' 11 3))
  | 15 => legal w [decide ((w.extractLsb' 9 2) ≠ 2)] [decide ((w.extractLsb' 5 4) ≠ 0)] (.vtopk (w.extractLsb' 22 4) (w.extractLsb' 18 4) (w.extractLsb' 14 4) (w.extractLsb' 11 3))
  | 16 => legal w [decide ((w.extractLsb' 9 2) = 3)] [decide ((w.extractLsb' 14 4) ≠ 0), decide ((w.extractLsb' 5 4) ≠ 0)] (.vscan (w.extractLsb' 22 4) (w.extractLsb' 18 4) (w.extractLsb' 11 3) (w.extractLsb' 9 2))
  | _ => .error (.reserved w)

/-- Major 0x1D (R78). -/
def decVmem (w : BitVec 32) : Except Reject Instr :=
  match (w.extractLsb' 0 7).toNat with
  | 0 => legal w [decide ((w.extractLsb' 7 2) = 3)] [decide ((w.extractLsb' 12 5) ≠ 0)] (.vld (w.extractLsb' 22 4) (w.extractLsb' 17 5) (w.extractLsb' 9 3) (w.extractLsb' 7 2))
  | 1 => legal w [decide ((w.extractLsb' 7 2) = 3)] [decide ((w.extractLsb' 12 5) ≠ 0)] (.vst (w.extractLsb' 22 4) (w.extractLsb' 17 5) (w.extractLsb' 9 3) (w.extractLsb' 7 2))
  | 2 => legal w [decide ((w.extractLsb' 7 2) = 3)] [] (.vlds (w.extractLsb' 22 4) (w.extractLsb' 17 5) (w.extractLsb' 12 5) (w.extractLsb' 9 3) (w.extractLsb' 7 2))
  | 3 => legal w [decide ((w.extractLsb' 7 2) = 3)] [] (.vsts (w.extractLsb' 22 4) (w.extractLsb' 17 5) (w.extractLsb' 12 5) (w.extractLsb' 9 3) (w.extractLsb' 7 2))
  | 4 => legal w [decide ((w.extractLsb' 7 2) = 3)] [decide ((w.extractLsb' 12 5) ≠ 0)] (.vldsync (w.extractLsb' 22 4) (w.extractLsb' 17 5) (w.extractLsb' 9 3) (w.extractLsb' 7 2))
  | _ => .error (.reserved w)

/-- Major 0x1E (R78). -/
def decVidx (w : BitVec 32) : Except Reject Instr :=
  match (w.extractLsb' 0 7).toNat with
  | 0 => legal w [decide ((w.extractLsb' 7 2) ≠ 2)] [decide ((w.extractLsb' 12 1) ≠ 0)] (.vgather (w.extractLsb' 22 4) (w.extractLsb' 17 5) (w.extractLsb' 13 4) (w.extractLsb' 9 3))
  | 1 => legal w [decide ((w.extractLsb' 7 2) ≠ 2)] [decide ((w.extractLsb' 12 1) ≠ 0)] (.vscatter (w.extractLsb' 22 4) (w.extractLsb' 17 5) (w.extractLsb' 13 4) (w.extractLsb' 9 3))
  | 2 => legal w [decide ((w.extractLsb' 7 2) ≠ 2)] [decide ((w.extractLsb' 12 1) ≠ 0)] (.vgatherb (w.extractLsb' 22 4) (w.extractLsb' 17 5) (w.extractLsb' 13 4) (w.extractLsb' 9 3))
  | _ => .error (.reserved w)

/-- Major 0x20 (R78). -/
def decBs (w : BitVec 32) : Except Reject Instr :=
  match (w.extractLsb' 20 6).toNat with
  | 0 => legal w [] [decide ((w.extractLsb' 0 10) ≠ 0)] (.bsAttach (w.extractLsb' 15 5) (w.extractLsb' 10 5))
  | 1 => legalIn w [decide ((w.extractLsb' 15 5) ≠ 0)] 57 (.bsGet (w.extractLsb' 10 5) (w.extractLsb' 0 10))
  | 2 => legalIn w [decide ((w.extractLsb' 15 5) ≠ 0)] 57 (.bsPeek (w.extractLsb' 10 5) (w.extractLsb' 0 10))
  | 3 => legal w [] [decide ((w.extractLsb' 10 5) ≠ 0)] (.bsSkip (w.extractLsb' 15 5) (w.extractLsb' 0 10))
  | 4 => legalIn w [] 16 (.bsVlc (w.extractLsb' 15 5) (w.extractLsb' 10 5) (w.extractLsb' 0 10))
  | 5 => legalIn w [decide ((w.extractLsb' 10 5) ≠ 0)] 57 (.bsPut (w.extractLsb' 15 5) (w.extractLsb' 0 10))
  | 6 => legal w [] [decide ((w.extractLsb' 10 5) ≠ 0), decide ((w.extractLsb' 0 10) ≠ 0)] (.bsFlush (w.extractLsb' 15 5))
  | 7 => legal w [] [decide ((w.extractLsb' 10 5) ≠ 0), decide ((w.extractLsb' 0 10) ≠ 0)] (.bsOattach (w.extractLsb' 15 5))
  | _ => .error (.reserved w)

/-- Major 0x21 (R78). -/
def decRnd (w : BitVec 32) : Except Reject Instr :=
  match (w.extractLsb' 0 11).toNat with
  | 0 => legal w [] [] (.rndLo (w.extractLsb' 21 5) (w.extractLsb' 16 5) (w.extractLsb' 11 5))
  | 1 => legal w [] [] (.rndHi (w.extractLsb' 21 5) (w.extractLsb' 16 5) (w.extractLsb' 11 5))
  | _ => .error (.reserved w)

/-- Major 0x28 (R78). -/
def decLn (w : BitVec 32) : Except Reject Instr :=
  match (w.extractLsb' 20 6).toNat with
  | 0 => decErw w 3 (.lnErw (w.extractLsb' 15 5) (w.extractLsb' 0 6))
  | 1 => decErr w 3 (.lnErr (w.extractLsb' 10 5) (w.extractLsb' 0 6))
  | 2 => legal w [] [decide ((w.extractLsb' 0 10) ≠ 0)] (.lnLaunch (w.extractLsb' 15 5) (w.extractLsb' 10 5))
  | 3 => legal w [] [decide ((w.extractLsb' 0 10) ≠ 0)] (.lnQstat (w.extractLsb' 15 5) (w.extractLsb' 10 5))
  | 4 => legal w [] [decide ((w.extractLsb' 10 5) ≠ 0), decide ((w.extractLsb' 0 10) ≠ 0)] (.lnKill (w.extractLsb' 15 5))
  | _ => .error (.reserved w)

/-- Major 0x29 (R78). -/
def decFr (w : BitVec 32) : Except Reject Instr :=
  match (w.extractLsb' 20 6).toNat with
  | 0 => decErw w 1 (.frErw (w.extractLsb' 15 5) (w.extractLsb' 0 6))
  | 1 => decErr w 1 (.frErr (w.extractLsb' 10 5) (w.extractLsb' 0 6))
  | 2 => legal w [] [decide ((w.extractLsb' 0 10) ≠ 0)] (.frPush (w.extractLsb' 15 5) (w.extractLsb' 10 5))
  | 3 => legal w [] [decide ((w.extractLsb' 10 5) ≠ 0), decide ((w.extractLsb' 0 10) ≠ 0)] (.frPop (w.extractLsb' 15 5))
  | 4 => legal w [] [decide ((w.extractLsb' 10 5) ≠ 0), decide ((w.extractLsb' 0 10) ≠ 0)] (.frEnter (w.extractLsb' 15 5))
  | 5 => legal w [] [decide ((w.extractLsb' 15 5) ≠ 0), decide ((w.extractLsb' 10 5) ≠ 0), decide ((w.extractLsb' 0 10) ≠ 0)] (.frLeave)
  | 6 => legal w [] [decide ((w.extractLsb' 0 10) ≠ 0)] (.frApp (w.extractLsb' 15 5) (w.extractLsb' 10 5))
  | 7 => legal w [] [decide ((w.extractLsb' 10 5) ≠ 0), decide ((w.extractLsb' 0 10) ≠ 0)] (.frSeal (w.extractLsb' 15 5))
  | 8 => legal w [] [decide ((w.extractLsb' 0 10) ≠ 0)] (.frCut (w.extractLsb' 15 5) (w.extractLsb' 10 5))
  | 9 => legal w [decide (13 ≤ (w.extractLsb' 0 5) ∧ (w.extractLsb' 0 5) ≤ 15)] [decide ((w.extractLsb' 5 5) ≠ 0)] (.frRd (w.extractLsb' 15 5) (w.extractLsb' 10 5) (w.extractLsb' 0 5))
  | 10 => legal w [] [decide ((w.extractLsb' 10 5) ≠ 0), decide ((w.extractLsb' 4 6) ≠ 0)] (.frScope (w.extractLsb' 15 5) (w.extractLsb' 0 4))
  | _ => .error (.reserved w)

/-- Major 0x2A (R78). -/
def decAt (w : BitVec 32) : Except Reject Instr :=
  match (w.extractLsb' 20 6).toNat with
  | 0 => decErw w 13 (.atErw (w.extractLsb' 15 5) (w.extractLsb' 0 6))
  | 1 => decErr w 13 (.atErr (w.extractLsb' 10 5) (w.extractLsb' 0 6))
  | 2 => legal w [] [decide ((w.extractLsb' 15 5) ≠ 0), decide ((w.extractLsb' 10 5) ≠ 0), decide ((w.extractLsb' 0 10) ≠ 0)] (.atQ)
  | 3 => legal w [] [decide ((w.extractLsb' 10 5) ≠ 0), decide ((w.extractLsb' 4 6) ≠ 0)] (.atKv (w.extractLsb' 15 5) (w.extractLsb' 0 4))
  | 4 => legal w [] [decide ((w.extractLsb' 0 10) ≠ 0)] (.atTree (w.extractLsb' 15 5) (w.extractLsb' 10 5))
  | 5 => legal w [] [decide ((w.extractLsb' 10 5) ≠ 0), decide ((w.extractLsb' 4 6) ≠ 0)] (.atFold (w.extractLsb' 15 5) (w.extractLsb' 0 4))
  | 6 => legal w [] [decide ((w.extractLsb' 15 5) ≠ 0), decide ((w.extractLsb' 10 5) ≠ 0), decide ((w.extractLsb' 0 10) ≠ 0)] (.atLin)
  | 7 => legal w [] [decide ((w.extractLsb' 10 5) ≠ 0), decide ((w.extractLsb' 0 10) ≠ 0)] (.atMerge (w.extractLsb' 15 5))
  | 8 => legal w [] [decide ((w.extractLsb' 15 5) ≠ 0), decide ((w.extractLsb' 10 5) ≠ 0), decide ((w.extractLsb' 1 9) ≠ 0)] (.atOut (w.extractLsb' 0 1))
  | 9 => legal w [] [decide ((w.extractLsb' 15 5) ≠ 0), decide ((w.extractLsb' 10 5) ≠ 0), decide ((w.extractLsb' 0 10) ≠ 0)] (.atReset)
  | _ => .error (.reserved w)

/-- Major 0x2B (R78). -/
def decMx (w : BitVec 32) : Except Reject Instr :=
  match (w.extractLsb' 20 6).toNat with
  | 0 => decErw w 9 (.mxErw (w.extractLsb' 15 5) (w.extractLsb' 0 6))
  | 1 => decErr w 9 (.mxErr (w.extractLsb' 10 5) (w.extractLsb' 0 6))
  | 2 => legal w [] [decide ((w.extractLsb' 10 5) ≠ 0), decide ((w.extractLsb' 0 10) ≠ 0)] (.mxBegin (w.extractLsb' 15 5))
  | 3 => legal w [] [decide ((w.extractLsb' 15 5) ≠ 0), decide ((w.extractLsb' 10 5) ≠ 0), decide ((w.extractLsb' 0 10) ≠ 0)] (.mxEnd)
  | 4 => legal w [] [decide ((w.extractLsb' 0 10) ≠ 0)] (.mxPerm (w.extractLsb' 15 5) (w.extractLsb' 10 5))
  | 5 => legal w [] [decide ((w.extractLsb' 0 10) ≠ 0)] (.mxStep (w.extractLsb' 15 5) (w.extractLsb' 10 5))
  | 6 => legal w [] [decide ((w.extractLsb' 15 5) ≠ 0), decide ((w.extractLsb' 10 5) ≠ 0), decide ((w.extractLsb' 4 6) ≠ 0)] (.mxDrain (w.extractLsb' 0 4))
  | 7 => legal w [] [decide ((w.extractLsb' 15 5) ≠ 0), decide ((w.extractLsb' 10 5) ≠ 0), decide ((w.extractLsb' 0 10) ≠ 0)] (.mxClear)
  | _ => .error (.reserved w)

/-- Major 0x2C (R78). -/
def decCp (w : BitVec 32) : Except Reject Instr :=
  match (w.extractLsb' 20 6).toNat with
  | 0 => decErw w 11 (.cpErw (w.extractLsb' 15 5) (w.extractLsb' 0 6))
  | 1 => decErr w 11 (.cpErr (w.extractLsb' 10 5) (w.extractLsb' 0 6))
  | 2 => legal w [] [decide ((w.extractLsb' 0 10) ≠ 0)] (.cpGo (w.extractLsb' 15 5) (w.extractLsb' 10 5))
  | 4 => legal w [] [decide ((w.extractLsb' 10 5) ≠ 0), decide ((w.extractLsb' 0 10) ≠ 0)] (.cpCancel (w.extractLsb' 15 5))
  | 5 => legal w [] [decide ((w.extractLsb' 10 5) ≠ 0), decide ((w.extractLsb' 0 10) ≠ 0)] (.cpSave (w.extractLsb' 15 5))
  | 6 => legal w [] [decide ((w.extractLsb' 10 5) ≠ 0), decide ((w.extractLsb' 0 10) ≠ 0)] (.cpRestore (w.extractLsb' 15 5))
  | _ => .error (.reserved w)

/-- Major 0x2D (R78). -/
def decFx (w : BitVec 32) : Except Reject Instr :=
  match (w.extractLsb' 20 6).toNat with
  | 0 => decErw w 11 (.fxErw (w.extractLsb' 15 5) (w.extractLsb' 0 6))
  | 1 => decErr w 11 (.fxErr (w.extractLsb' 10 5) (w.extractLsb' 0 6))
  | 2 => legal w [] [decide ((w.extractLsb' 15 5) ≠ 0), decide ((w.extractLsb' 0 10) ≠ 0)] (.fxGo (w.extractLsb' 10 5))
  | 3 => legal w [] [decide ((w.extractLsb' 10 5) ≠ 0), decide ((w.extractLsb' 0 10) ≠ 0)] (.fxSend (w.extractLsb' 15 5))
  | 4 => legal w [] [decide ((w.extractLsb' 10 5) ≠ 0), decide ((w.extractLsb' 0 10) ≠ 0)] (.fxRecv (w.extractLsb' 15 5))
  | 5 => legal w [] [decide ((w.extractLsb' 15 5) ≠ 0), decide ((w.extractLsb' 10 5) ≠ 0), decide ((w.extractLsb' 0 10) ≠ 0)] (.fxBar)
  | 6 => legal w [] [decide ((w.extractLsb' 15 5) ≠ 0), decide ((w.extractLsb' 10 5) ≠ 0), decide ((w.extractLsb' 0 10) ≠ 0)] (.fxAbort)
  | _ => .error (.reserved w)

/-- Major 0x2E (R78). -/
def decMk (w : BitVec 32) : Except Reject Instr :=
  match (w.extractLsb' 20 6).toNat with
  | 0 => decErw w 11 (.mkErw (w.extractLsb' 15 5) (w.extractLsb' 0 6))
  | 1 => decErr w 11 (.mkErr (w.extractLsb' 10 5) (w.extractLsb' 0 6))
  | 2 => legal w [] [decide ((w.extractLsb' 10 5) ≠ 0), decide ((w.extractLsb' 0 10) ≠ 0)] (.mkLoad (w.extractLsb' 15 5))
  | 3 => legal w [] [decide ((w.extractLsb' 0 10) ≠ 0)] (.mkStep (w.extractLsb' 15 5) (w.extractLsb' 10 5))
  | 4 => legal w [] [decide ((w.extractLsb' 10 5) ≠ 0), decide ((w.extractLsb' 4 6) ≠ 0)] (.mkMask (w.extractLsb' 15 5) (w.extractLsb' 0 4))
  | 5 => legal w [] [decide ((w.extractLsb' 0 10) ≠ 0)] (.mkWait (w.extractLsb' 15 5) (w.extractLsb' 10 5))
  | 6 => legal w [] [decide ((w.extractLsb' 15 5) ≠ 0), decide ((w.extractLsb' 0 10) ≠ 0)] (.mkForced (w.extractLsb' 10 5))
  | 7 => legal w [] [decide ((w.extractLsb' 15 5) ≠ 0), decide ((w.extractLsb' 10 5) ≠ 0), decide ((w.extractLsb' 0 10) ≠ 0)] (.mkReset)
  | _ => .error (.reserved w)

/-- Decoding by major opcode (R78, R81), whatever the core kind. -/
def decodeAny (w : BitVec 32) : Except Reject Instr :=
  match (w.extractLsb' 26 6).toNat with
  | 1 => decInt w
  | 2 => decMulDiv w
  | 3 => legal w [] [] (.addi (w.extractLsb' 21 5) (w.extractLsb' 16 5) (w.extractLsb' 0 16))
  | 4 => legal w [] [] (.andi (w.extractLsb' 21 5) (w.extractLsb' 16 5) (w.extractLsb' 0 16))
  | 5 => legal w [] [] (.ori (w.extractLsb' 21 5) (w.extractLsb' 16 5) (w.extractLsb' 0 16))
  | 6 => legal w [] [] (.xori (w.extractLsb' 21 5) (w.extractLsb' 16 5) (w.extractLsb' 0 16))
  | 7 => decShi w
  | 8 => legal w [] [] (.lui (w.extractLsb' 21 5) (w.extractLsb' 0 21))
  | 9 => legal w [] [] (.addpc (w.extractLsb' 21 5) (w.extractLsb' 0 21))
  | 10 => legal w [] [] (.slti (w.extractLsb' 21 5) (w.extractLsb' 16 5) (w.extractLsb' 0 16))
  | 11 => decBranch w
  | 12 => decJump w
  | 13 => legal w [] [] (.jalr (w.extractLsb' 21 5) (w.extractLsb' 16 5) (w.extractLsb' 0 16))
  | 14 => decFp w
  | 15 => decFfma w
  | 16 => legal w [decide ((w.extractLsb' 4 3) = 7)] [decide ((w.extractLsb' 2 2) = 3 ∧ (w.extractLsb' 1 1) = 1)] (.ld (w.extractLsb' 21 5) (w.extractLsb' 16 5) (w.extractLsb' 7 9) (w.extractLsb' 4 3) (w.extractLsb' 2 2) (w.extractLsb' 1 1) (w.extractLsb' 0 1))
  | 17 => legal w [decide ((w.extractLsb' 4 3) = 7)] [decide ((w.extractLsb' 1 1) ≠ 0)] (.st (w.extractLsb' 21 5) (w.extractLsb' 16 5) (w.extractLsb' 7 9) (w.extractLsb' 4 3) (w.extractLsb' 2 2) (w.extractLsb' 0 1))
  | 18 => decPresLoad w
  | 19 => decPresStore w
  | 20 => decAmo w
  | 21 => decSync w
  | 22 => decPutr w
  | 23 => decSys w
  | 24 => decVint w
  | 25 => decVfp w
  | 26 => decVfma w
  | 27 => decVmask w
  | 28 => decVperm w
  | 29 => decVmem w
  | 30 => decVidx w
  | 31 => legal w [decide (11 < (w.extractLsb' 4 4)), decide (11 < (w.extractLsb' 0 4)), decide ((w.extractLsb' 4 4) = (w.extractLsb' 0 4))] [decide ((w.extractLsb' 14 4) ≠ 0), decide ((w.extractLsb' 9 2) ≠ 0), decide ((w.extractLsb' 8 1) ≠ 0)] (.vcvt (w.extractLsb' 22 4) (w.extractLsb' 18 4) (w.extractLsb' 11 3) (w.extractLsb' 4 4) (w.extractLsb' 0 4))
  | 32 => decBs w
  | 33 => decRnd w
  | 40 => decLn w
  | 41 => decFr w
  | 42 => decAt w
  | 43 => decMx w
  | 44 => decCp w
  | 45 => decFx w
  | 46 => decMk w
  | _ => .error (.reserved w)

/-- Whether a kind of core has a major opcode (R17, R78). -/
def hasMajor (k : CoreKind) (m : Nat) : Bool :=
  match k with
  | .compute => true
  | .control => m ≠ 42 && m ≠ 43
  | .pager => m ≠ 40 && m ≠ 41 && m ≠ 42 && m ≠ 43 && m ≠ 45 && m ≠ 46

/-- The instruction of a word on a kind of core (R78, R82). -/
def decode (k : CoreKind) (w : BitVec 32) : Except Reject Instr :=
  if hasMajor k (w.extractLsb' 26 6).toNat then decodeAny w else .error (.reserved w)

/-- The instruction word that four bytes hold, the first at the lowest address (R2, R72); a byte that is not there is 0. -/
def wordOfBytes (l : List Byte) : BitVec 32 := l.getD 3 0 ++ l.getD 2 0 ++ l.getD 1 0 ++ l.getD 0 0

/-- The instruction that the bytes at an address hold, on a kind of core. Any bytes decode or are rejected by name. -/
def decodeBytes (k : CoreKind) (l : List Byte) : Except Reject Instr := decode k (wordOfBytes l)

/-- The bytes of a word in memory. -/
def bytesOfWord (w : BitVec 32) : List Byte :=
  [w.extractLsb' 0 8, w.extractLsb' 8 8, w.extractLsb' 16 8, w.extractLsb' 24 8]

/-- The instruction that the decoder reads from an instruction whose bits are `w`, numbered as the opcode table numbers
them: every instruction is one 32-bit word. -/
def decodeTableWord (nbits w : Nat) : Option Instr :=
  match decodeBytes .compute (bytesOfWord (BitVec.ofNat 32 (w % 2 ^ nbits))) with
  | .ok i => some i
  | .error _ => none

end Sys2Proof
end

