-- ==== Sys2Proof/Config.lean ====
section
/-! DEFINITION. What is fixed for the machine, and the free values: results that the spec leaves open. A free value is an
opaque constant applied to a counter of State, so nothing can be proved of it (log entries 3, 4). -/

namespace Sys2Proof.Config

/-- A 64-bit value the spec does not state: what a PCIe read brings, a counter the hypervisor reads (log entry 3). -/
opaque freeWord : Nat → Word

/-- A one-bit choice the spec leaves open: whether the host's address service fails to translate a page (R34; log entry 4). -/
opaque freeBit : Nat → Bool

/-- The interface-versions word of window 4 (R386): it shows the versions of R390 in a layout that the spec does not state (log entry 3). -/
opaque versionsWord : Word

/-- Word `i` of the body of a save section whose layout the spec does not state: what it is of the state that the section holds (R346; log
entry 17). -/
opaque stateWord : (kind i : Nat) → (content : List Nat) → Word

/-- Entries of an instruction TLB (R33). -/
def itlbSize : Nat := 32
/-- Entries of a data TLB (R33). -/
def dtlbSize : Nat := 64
/-- Entries of an attention engine TLB (R33). -/
def atTlbSize : Nat := 128
/-- Entries of a copy engine TLB (R33). -/
def cpTlbSize : Nat := 512
/-- Entries of a cluster TLB (R33). -/
def clusterTlbSize : Nat := 4096
/-- Entries of a die TLB (R33). -/
def dieTlbSize : Nat := 8192

/-- The core clock at full speed in MHz (R8). -/
def fullClockMHz : Nat := 3300

/-- The lowest clock of the throttle; the spec gives the 100 MHz step and no floor (log entry 12). -/
def minClockMHz : Nat := 100

/-- Commands a copy context holds (R338). -/
def cpDepth : Nat := 16
/-- Commands a fabric context holds (R350). -/
def fxDepth : Nat := 8
/-- Commands an attention context holds; the spec gives no number (log entry 13). -/
def atDepth : Nat := 16
/-- Launches a queue holds (R228). -/
def queueDepth : Nat := 64

/-- The PCIe completion timeout in ns before a configuration record sets it (R387: 50 µs to 64 ms; log entry 10). -/
def pcieTimeoutNs : Nat := 50000
/-- The PRI response timeout in ns before a configuration record sets it (R387: 1 ms to 4 s; log entry 10). -/
def priTimeoutNs : Nat := 1000000

end Sys2Proof.Config
end

