-- ==== Sys2Proof/Machine/Tab.lean ====
section
/-! DEFINITION. Sparse tables: a list of (key, value) pairs with rising keys and no pair that holds the default, so that
equal tables are equal lists. Memory, presence, registers and CSRs are such tables. -/

namespace Sys2Proof.Machine

/-- The value at key `k` of a table whose unlisted keys hold `d`. -/
def tabGet {α : Type} (d : α) : List (Nat × α) → Nat → α
  | [], _ => d
  | (j, v) :: t, k => if j = k then v else if k < j then d else tabGet d t k

/-- Drops the leading entries with keys up to `k`. -/
def tabDrop {α : Type} : List (Nat × α) → Nat → List (Nat × α)
  | [], _ => []
  | (j, v) :: t, k => if j ≤ k then tabDrop t k else (j, v) :: t

/-- The table with `v` at key `k`; writing the default removes the entry. -/
def tabPut {α : Type} [DecidableEq α] (d : α) : List (Nat × α) → Nat → α → List (Nat × α)
  | [], k, v => if v = d then [] else [(k, v)]
  | (j, w) :: t, k, v =>
    if j = k then (if v = d then tabDrop t k else (k, v) :: t)
    else if k < j then (if v = d then (j, w) :: t else (k, v) :: (j, w) :: t)
    else (j, w) :: tabPut d t k v

/-- The canonical form: keys rise strictly and no entry holds the default. -/
def tabWf {α : Type} [DecidableEq α] (d : α) : List (Nat × α) → Bool
  | [] => true
  | [(_, v)] => decide (v ≠ d)
  | (j, v) :: (k, w) :: t => decide (v ≠ d) && decide (j < k) && tabWf d ((k, w) :: t)

end Sys2Proof.Machine
end

