-- ==== Sys2Proof/Machine/State.lean ====
section
/-! DEFINITION. The state of the package, as plain data, and the state after reset. -/

namespace Sys2Proof.Machine

/-- Why the model stops with a fault. -/
inductive Fault where
  /-- An outside event of the agenda names a core, slot, engine or die that the package does not have. Raised by the
  events; safe: no such unit exists. -/
  | noSuchUnit
  deriving DecidableEq, Repr

/-- Why an instruction has no meaning. -/
inductive Refusal where
  /-- An instruction without a meaning in this model, by its mnemonic; safe: nothing is claimed about it. -/
  | notModelled (mnemonic : String)
  deriving DecidableEq, Repr

/-- The five states of a slot (R117). -/
inductive SlotState where
  | free | ready | parked | asleep | stopped
  deriving DecidableEq, Repr

/-- What a slot's occupant is (R127, R213, R252). -/
inductive Occupant where
  | none
  | fibre (tenant queue serial index : Nat)
  | transform
  | resident
  | hypervisor
  deriving DecidableEq, Repr

/-- A source register of an instruction. -/
inductive Src where
  | g (n : BitVec 5)
  | v (n : BitVec 4)
  | k (n : BitVec 3)
  deriving DecidableEq, Repr

/-- The kinds of access of R25, check 4. -/
inductive Access where
  | read | write | readWrite | exec
  deriving DecidableEq, Repr

/-- A translation miss on its way to the pager (R35). -/
structure Miss where
  va : Word
  access : Access
  stage : Nat
  tenant : BitVec 8
  /-- S1ROOT and S2ROOT of the access: the tables by which the pager knows the page (R26). -/
  roots : Word × Word
  deriving DecidableEq, Repr

/-- What a memory word must become before a waiter goes on (R65). -/
inductive Until where
  | notEmpty
  | notFull
  deriving DecidableEq, Repr

/-- A combined translation (R32): the page at virtual page `vpage` of 2^`bits` bytes, and the attributes of its leaf. -/
structure Page where
  tenant : BitVec 8
  vpage : Nat
  bits : Nat
  /-- The target type of R26. -/
  tgt : Nat
  /-- First byte of the page in the model's one physical numbering; of a SELF page, its place in core 0's memory. -/
  base : Nat
  /-- A SELF page (R31): the page lies in the accessing core's own memory. -/
  self : Bool
  r : Bool
  w : Bool
  x : Bool
  u : Bool
  /-- Effective atomic placement (R32): 0 NEAR, 1 MEMSIDE, 2 HOST, 3 HOST at stage 1 only. -/
  atom : Nat
  line : Nat
  parg : Nat
  hashed : Bool
  replica : Bool
  shared : Bool
  deriving DecidableEq, Repr

/-- A PCIe request of a thread to the host (R54, R187, R188): a read of `n` bytes, an AtomicOp with its operands, or the zero-length
read of a fence. -/
inductive HostReq where
  | read (n : Nat)
  | fetchAdd (v : Word)
  | swap (v : Word)
  | cas (compare new : Word)
  | flush
  deriving DecidableEq, Repr

/-- What a completed reply brings to the instruction that waited for it (R120, R186, R187). -/
inductive Reply where
  | none
  /-- FAR data, with the verdict of the tag check (R51). -/
  | far (tagOk : Bool)
  | host (o : PcieOutcome)
  /-- No PCIe completion within the timeout (R190). -/
  | timeout
  /-- `mk.wait` gave up (R380). -/
  | gaveUp
  /-- The co-operative step may start (R334). -/
  | start
  /-- The phase waited for has flipped (R23, R190), whatever it is by now. -/
  | flipped
  /-- The completion word waited on has become VOID (R191), whatever it is by now. -/
  | voided
  deriving DecidableEq, Repr

/-- An access of a thread that has been issued and not yet performed: its address, the translation of its issue (R33), and the reply
that has come. -/
structure Acc where
  va : Word
  page : Page
  phys : Nat
  reply : Reply
  deriving DecidableEq, Repr

/-- Why a frame engine holds a command (R270, R273, R254): a miss that the pager answers, the miss of a push block's `btab`, the drop of a
tile cache, a refresh window, or an earlier command on the same context (R16). -/
inductive FrHold where
  | miss
  | btab
  | drop (cluster : Nat)
  | refresh (bank : Nat)
  | turn
  deriving DecidableEq, Repr

/-- What a parked slot waits for (R117). -/
inductive Wait where
  | none
  /-- An EMPTY source register (R124). -/
  | reg (r : Src)
  /-- The presence of a memory word (R182). -/
  | word (phys : Nat) (u : Until)
  /-- None of the words that `vldsync` covers to be EMPTY (R210). -/
  | words (l : List Nat)
  /-- An input word of the bit-buffer not to be EMPTY: the instruction reissues then (R217). -/
  | input (phys : Nat)
  /-- The phase of a completion word (R191). -/
  | phase (phys : Nat) (bit : Bool)
  /-- The phase of barrier `b` (R190). -/
  | barrier (b : Nat) (bit : Bool)
  /-- Barrier `b` to be idle (R190). -/
  | barrierIdle (b : Nat)
  /-- Pod phase bit `id` of a fabric context (R360). -/
  | podPhase (ctx id : Nat) (bit : Bool)
  /-- An event of `wait` (R173): the mask and the time of gB, and whether a source was VOID as it issued. -/
  | event (mask time : Word) (void : Bool)
  /-- The reply of the FAR access at `va` (R49). -/
  | far (va : Word) (phys : Nat)
  /-- A PCIe completion (R186, R187) of the access at `va`, with the host address and the request emitted, and the time of issue. -/
  | host (va : Word) (addr : Nat) (req : HostReq) (issued : Nat)
  /-- The reply of an instruction fetch from a FAR or HOST page (R162, R187), with its time of issue. -/
  | fetch (phys issued : Nat)
  /-- The end of a weight-store refresh window (R46). -/
  | refresh (die bank : Nat)
  /-- An engine register to become FULL (R19). -/
  | engReg (key : Nat)
  /-- A command queue to have space (R20, R338, R350). -/
  | accept (kind : EngKind) (inst ctx : Nat)
  /-- One of the `n` outstanding commands of its own stream in a context, which touch bytes that the acceptance of its command touches
  (R66). -/
  | stream (kind : EngKind) (inst ctx n : Nat)
  /-- Every command of the fibre to complete (R174, R341, R361). -/
  | commands (kind : Option EngKind) (ctx : Nat) (id : Option Nat)
  /-- The matrix engine to finish or stop a step (R327). -/
  | mxStep
  /-- The held step of another slot to be released (R328). -/
  | mxHeld
  /-- The matrix engine to perform no step, for an `mx.clear` (R328). -/
  | mxRuns
  /-- The ready word of `mk.wait`, with the time at which it gives up (R380). -/
  | ready (phys : Nat) (deadline : Nat) (fault : Bool) (limit : Word)
  /-- The queue event of a halted transform thread (R214). -/
  | queueEvent
  /-- The target core to accept a `putr` (R193). -/
  | put
  /-- The end of a tile-cache drop of a cluster (R254). -/
  | drop (cluster : Nat)
  /-- The accesses under translations that `tlbinv` removed (R33, R177): slot and cycle of issue of each. -/
  | tlb (l : List (Nat × Nat))
  /-- The end of what holds a frame command, which the frame engine keeps with its operands (R270). -/
  | frame (ops : List Word) (why : FrHold)
  /-- The frame commands received before on the context whose frame a launch takes (R16, R228). -/
  | frTurn
  deriving DecidableEq, Repr

/-- A thread slot: a fibre's registers with their presence, its CSRs, and how it stands in the issue rotation. -/
structure Slot where
  state : SlotState
  occupant : Occupant
  pc : Word
  /-- g1–g31 (R121), default 0 FULL. -/
  g : List (Nat × (Word × Presence))
  /-- v0–v15 (R122), default 0 FULL. -/
  v : List (Nat × (VWord × Presence))
  /-- k1–k7 (R123), default 0 FULL. -/
  k : List (Nat × (BitVec 32 × Presence))
  /-- The CSRs of R129 that each slot holds, by index, default 0. S1ROOT of mode H is kept at 0x180. -/
  csr : List (Nat × Word)
  wait : Wait
  /-- Order of arrival at what it waits for (R65, R183). -/
  seq : Nat
  reply : Reply
  /-- The instruction at pc was issued before and only completes (R117): completing is no new issue. -/
  resuming : Bool
  /-- The instruction word fetched at the last issue, until its instruction ends. -/
  fetched : Option (BitVec 32)
  /-- The cycle of the last issue; none has never issued (R118). -/
  lastIssue : Option Nat
  /-- The next own turn was given up by `yield` (R175). -/
  yielded : Bool
  /-- A delivery reached a register in this cycle, or since a `wait` for one issued (R173). -/
  delivered : Bool
  /-- What the slot sleeps on (R35). -/
  miss : Option Miss
  /-- The tenant generation that wakes are addressed to (R36). -/
  gen : Nat
  /-- The tenant for which the launch engine has installed the slot (R251); none before an install and after cleaning. -/
  owner : Option Nat
  /-- The transform entry (R213), at which a halted transform thread restarts. -/
  entry : Word
  /-- Base and length of the fibre's LM slice (R235); of a slot that its outgoing fibre has left, what is still to be cleaned (R245). -/
  slice : Nat × Nat
  /-- The slot has been pre-empted for a save (R243). -/
  preempted : Bool
  /-- The pre-emption has entered the hypervisor's handler (R171): no reply of the slot was outstanding any more (R179). -/
  entered : Bool
  /-- Undelivered `putr` deliveries held for a pre-empted fibre (R194): key of the register, value, presence. -/
  spill : List (Src × VWord × Presence)
  /-- A host store of the thread not yet accepted by the host (R188). -/
  hostStores : Bool
  /-- Accesses of the parked instruction that have been issued, with the translation of their issue (R33). -/
  kept : List Acc
  /-- Input words of the bit-buffer that have been read for the instruction at pc, by physical address (R217). -/
  words : List (Nat × Word × Presence)
  deriving DecidableEq, Repr

/-- A slot that holds nothing. -/
def Slot.empty : Slot :=
  { state := .free, occupant := .none, pc := 0, g := [], v := [], k := [], csr := [], wait := .none, seq := 0,
    reply := .none, resuming := false, fetched := none, lastIssue := none, yielded := false, delivered := false, miss := none, gen := 0, owner := none, entry := 0,
    slice := (0, 0), preempted := false, entered := false, spill := [], hostStores := false, kept := [], words := [] }

/-- Whoever makes an access: a thread, or the issuer of an engine command at its acceptance (R398). -/
structure Who where
  core : Nat
  slot : Nat
  mode : BitVec 2
  tenant : BitVec 8
  /-- The tenant to whom its events are counted: STATUS.tenant, and 0xFF, which is no tenant, in mode H (R257). -/
  acct : BitVec 8
  s1 : Word
  s2 : Word
  fpcsr : Word
  ctxid : Word
  ftb : Word
  place : Word
  rbase : Word
  rlen : Word
  deriving DecidableEq, Repr

/-- A header of a KV block as read at acceptance (R284, R303). -/
structure KvHead where
  block : Nat
  frame : Nat
  hbase : Nat
  valid : Nat
  soff : Nat
  deriving DecidableEq, Repr

/-- The part of a fabric command that its collective or pair needs (R354, R359). -/
structure FabCmd where
  key : FabKey
  rank : Nat
  /-- Active ranks in ascending order, with the (package, die, context) of each. -/
  active : List (Nat × Nat × Nat × Nat)
  /-- The peer rank of a send or receive. -/
  peer : Nat
  /-- What this member holds so far; none until its own contribution is read. -/
  acc : Option FabData
  /-- Level of the tree at which this member stands. -/
  level : Nat
  result : Option FabData
  /-- Of a send to another package: the peer's receive is accepted (R359). -/
  ready : Bool
  /-- Of a send to another package: its data have left, and it awaits word that the last of them is written (R359). -/
  shipped : Bool
  deriving DecidableEq, Repr

/-- An accepted engine command that has not completed (R20). -/
structure Cmd where
  op : Nat
  who : Who
  a : Word
  b : Word
  vec : VWord
  /-- The snapshot of the context's engine registers (R20). -/
  regs : List Word
  id : Nat
  /-- The id of the command that this one awaits (R338). -/
  awaits : Nat
  /-- Work done: bytes of a copy, blocks of an attention command, rows read, words written. -/
  pos : Nat
  /-- How the command ends early: outcome or status, code, culprit. -/
  ending : Option (Nat × Nat × Nat)
  ovr : Bool
  cwe : Bool
  finished : Bool
  miss : Option Miss
  /-- The engine-register frame of an attention command, and its headers. -/
  heads : List KvHead
  fab : Option FabCmd
  time : Nat
  /-- The EMPTY word that the command waits on, and its place among the waiters (R65). -/
  place : Option (Nat × Nat)
  /-- Virtual 64 KiB pages that the pager has declined to the ending command (R396). -/
  declined : List Nat
  /-- Words of the unit in progress that have been read, where reads wait for presence (R182). -/
  got : List (Word × Presence)
  /-- Bytes of a copy that are written and still to be taken from its completion word (R339, R66). -/
  owed : Nat
  deriving DecidableEq, Repr

/-- A running triple (R290) with its VOID mark (R302). -/
structure Triple where
  m : F32
  l : F32
  o : List F32
  status : Nat
  voided : Bool
  deriving DecidableEq, Repr

/-- The internal state of an attention context (R283, R299). -/
structure AtCtx where
  latched : Bool
  rows : Nat
  d : Nat
  scale : F32
  frame : Nat
  qpos : Nat
  ctxid : Nat
  ftb : Word
  q : List (List (BitVec 16))
  triples : List Triple
  treeBase : Nat
  tree : List Word
  fail : Nat
  deriving DecidableEq, Repr

/-- An attention context with nothing latched. -/
def AtCtx.empty : AtCtx :=
  { latched := false, rows := 0, d := 0, scale := 0, frame := 0, qpos := 0, ctxid := 0, ftb := 0, q := [], triples := [],
    treeBase := 0, tree := [], fail := 0 }

/-- A step of the matrix engine: its snapshot, operands and issuing fibre (R313). -/
structure MxStep where
  who : Who
  regs : List Word
  a : Nat
  b : Nat
  /-- Co-operative: started by the whole tile row (R334). -/
  started : Bool
  /-- Its number among the steps of its core in the tile row, for the pairing (R334). -/
  index : Nat
  miss : Option Miss
  /-- The A words that its micro-tiles wait on, each with its place among the waiters (R65, R320), by tile·2^60 + physical address. -/
  places : List (Nat × Nat)
  /-- The A words that its micro-tiles have read (R320), by tile·2^64 + address. -/
  got : List (Nat × Word × Presence)
  deriving DecidableEq, Repr

/-- The state of a matrix engine (R313). Elements are keyed 64·m + n. -/
structure MxCore where
  c : List (Nat × F32)
  total : List (Nat × Int)
  satf : List (Nat × Bool)
  inval : List (Nat × Bool)
  voidm : List (Nat × Bool)
  /-- Elements a command has touched since the last `mx.clear`. -/
  touched : List (Nat × Bool)
  chain : Bool
  ec : Int
  groups : Nat
  running : Option MxStep
  held : Option MxStep
  mxdone : Word
  ovf : Bool
  invalid : Bool
  /-- Steps that this core has issued in each tile row, by `mxRowKey` (R334). -/
  steps : List (Nat × Nat)
  deriving DecidableEq, Repr

/-- A matrix engine after `mx.clear` with no step counted. -/
def MxCore.empty : MxCore :=
  { c := [], total := [], satf := [], inval := [], voidm := [], touched := [], chain := false, ec := 0, groups := 0, running := none,
    held := none, mxdone := 0, ovf := false, invalid := false, steps := [] }

/-- A mask production (R378). -/
structure MkProd where
  who : Who
  regs : List Word
  state : Nat
  top : Nat
  chunk : Nat
  count : Nat
  last : Nat
  miss : Option Miss
  deriving DecidableEq, Repr

/-- The chain of a fibre that has left its slot, while the frame engine unwinds it (R269). -/
structure Unwind where
  who : Who
  fp : Word
  fd : Nat
  /-- The launch that retires afterwards. -/
  tenant : Nat
  queue : Nat
  serial : Nat
  miss : Option Miss
  /-- Its place in the order in which the frame engine receives commands (R16). -/
  seq : Nat
  deriving DecidableEq, Repr

/-- How a launch is to end (R237). -/
inductive Fate where
  | runs | discarded | killed
  deriving DecidableEq, Repr

/-- An accepted launch that has not retired (R225, R228). -/
structure Launch where
  serial : Nat
  x : Nat
  y : Nat
  z : Nat
  slots : Nat
  lmbytes : Nat
  entry : Word
  args : Word
  expect : Word
  budget : Word
  fsr0 : Word
  fsr1 : Word
  cword : Word
  overlap : Bool
  frame : Bool
  base : Nat
  len : Nat
  who : Who
  fp : Word
  fsl : Word
  /-- TVEC of the queue and LMVA, from the supervisor block as read at acceptance (R250). -/
  tvec : Word
  lmva : Word
  /-- A miss of the completion word's page that holds its completion (R35, R399). -/
  miss : Option Miss
  /-- Next linear index to bind. -/
  next : Nat
  retired : Nat
  faulted : Nat
  left : Nat
  /-- TIME of the first binding. -/
  first : Option Nat
  /-- Its fibres are in a complete save record, to be restored (R243, R348). -/
  saved : Bool
  /-- TIME when it left its last slot (R238). -/
  gone : Option Nat
  fate : Fate
  deriving DecidableEq, Repr

/-- A queue of a tenant (R231, R229). -/
structure Queue where
  launches : List Launch
  lastRetired : Nat
  /-- TIME of the last binding; none has never bound a fibre. -/
  bound : Option Nat
  /-- TIME from which the queue is waiting (R232); none when it is not. -/
  since : Option Nat
  /-- Levels by which waiting has raised its priority. -/
  boost : Nat
  deriving DecidableEq, Repr

/-- A queue that holds nothing. -/
def Queue.empty : Queue := { launches := [], lastRetired := 0, bound := none, since := none, boost := 0 }

/-- What the device keeps of a tenant beside its configuration record (R248, R251, R260). -/
structure Tenant where
  enabled : Bool
  installed : Bool
  /-- Near physical base of the mailbox area (R385). -/
  mailbox : Nat
  serial : Nat
  reports : Nat
  gen : BitVec 16
  roots : InstallRoots
  /-- Whether R252 leaves the tenant uninstalled. -/
  refused : Bool
  /-- Threads whose binding waits for the supervisor block, by core·16 + slot, with the miss of its page. -/
  unbound : List (Nat × Option Miss)
  deriving DecidableEq, Repr

/-- A tenant whose VF was never enabled. -/
def Tenant.empty : Tenant :=
  { enabled := false, installed := false, mailbox := 0, serial := 0, reports := 0, gen := 0,
    roots := { s1root := 0, s2root := 0, htvec := 0, placeBase := 0, image := [], weightRoots := [] }, refused := false, unbound := [] }

/-- How a queue stands in an eviction (R242). -/
inductive EvState where
  | rtc | ckpt | discard | finished
  deriving DecidableEq, Repr

/-- An eviction (R239). -/
structure Evict where
  base : Nat
  len : Nat
  deadline : Nat
  posted : Nat
  incoming : Option Nat
  /-- (tenant, queue) with its state. -/
  queues : List (Nat × Nat × EvState)
  /-- Number of evaluations made (R241). -/
  evals : Nat
  /-- Slots cleaned and installed so far: core·16 + slot. -/
  cleaned : List Nat
  done : Bool
  deriving DecidableEq, Repr

/-- A saved fibre: its logical core, its slot, and the words of its LM slice written since dispatch, by offset (R346). -/
structure SavedFibre where
  core : Nat
  number : Nat
  slot : Slot
  lm : List (Nat × Word × Presence)
  deriving DecidableEq, Repr

/-- What a save keeps of a core (R346, kinds 3 to 6): engines, engine registers by engine·64 + index, the counters and
messages of its fabric context. -/
structure SavedCore where
  core : Nat
  mx : MxCore
  attn : AtCtx
  er : List (Nat × (Word × Presence))
  fxSeq : List (Nat × Nat)
  p2p : List (Nat × Nat)
  pod : List (Nat × (Bool × Nat))
  msgs : List FabMsg
  deriving DecidableEq, Repr

/-- A save record being written or complete (R346, R347). -/
structure Save where
  tenant : Nat
  queue : Nat
  serial : Nat
  /-- Address of the record, known once it is begun. -/
  addr : Word
  /-- Bytes written: the resume offset; 0 for a record not begun. -/
  written : Nat
  began : Nat
  /-- Slots whose sections are still to be begun: core·16 + slot. -/
  pending : List Nat
  /-- Words of the section being written, and its cluster. -/
  buf : List Word
  cluster : Nat
  /-- Bytes that each cluster's engine has taken up. -/
  taken : List (Nat × Nat)
  fibres : List SavedFibre
  cores : List SavedCore
  launch : Launch
  complete : Bool
  /-- A miss of the save area that has stopped the save. -/
  miss : Option Miss
  /-- The control word with the resume offset is still to be written, as the drop of a tile cache holds it (R254, R347). -/
  control : Bool
  /-- The copy context that `cp.save` used, with the id of the command; none under an eviction. -/
  ctx : Option (Nat × Nat × Nat)
  deriving DecidableEq, Repr

/-- A restore in progress (R348). -/
structure Restore where
  tenant : Nat
  queue : Nat
  launch : Launch
  todo : List SavedFibre
  cores : List SavedCore
  /-- Address and length of the record. -/
  addr : Word
  len : Nat
  started : Bool
  /-- The copy context of `cp.restore`, with the id of the command. -/
  ctx : Nat × Nat × Nat
  deriving DecidableEq, Repr

/-- A `putr` delivery on its way: from whom, to which register (R193). -/
structure PutMsg where
  fromCore : Nat
  fromSlot : Nat
  tenant : Nat
  core : Nat
  slot : Nat
  reg : Src
  value : VWord
  presence : Presence
  deriving DecidableEq, Repr

/-- An outstanding page request (R260). -/
structure Pri where
  tenant : Nat
  pasid : Nat
  index : Nat
  gen : BitVec 16
  issued : Nat
  agent : Agent
  va : Word
  deriving DecidableEq, Repr

/-- An exponent table (R369): fifteen (exponent, count) pairs in rank order. -/
abbrev ExpTable := List (Nat × Nat)

/-- The exponent tables of one direction of one channel of a link (R369), and those of the last acknowledged flit. -/
structure LinkDir where
  exp32 : ExpTable
  exp16 : ExpTable
  acked32 : ExpTable
  acked16 : ExpTable
  /-- Flits since the counts were last halved, and the same at the last acknowledged flit. -/
  flits : Nat
  ackedFlits : Nat
  deriving DecidableEq, Repr

/-- The table at link-up: 127 down to 113, with counts of 0. -/
def expStart : ExpTable := (List.range 15).map (fun i => (127 - i, 0))

/-- Tables at link-up. -/
def LinkDir.start : LinkDir := { exp32 := expStart, exp16 := expStart, acked32 := expStart, acked16 := expStart, flits := 0, ackedFlits := 0 }

/-- A Rhoiq link (R367–R370). -/
structure Link where
  /-- 0 down, 1 training, 2 up. -/
  state : Nat
  peer : LinkPeer
  /-- CODEN, by which this end codes what it sends (R368, R369). -/
  coden : BitVec 3
  /-- The CODEN by which the peer codes what it sends. -/
  codenIn : BitVec 3
  replays : Nat
  /-- Counters by 4·channel + (0 sent, 1 received, 2 offered, 3 coded). -/
  counts : List (Nat × Nat)
  /-- Tables by 2·channel + (0 outgoing, 1 incoming). -/
  dirs : List (Nat × LinkDir)
  /-- Number of the next flit of a channel, by 2·channel + (0 to send, 1 to receive). -/
  seqs : List (Nat × Nat)
  /-- The sender's buffer: flits sent and not yet acknowledged. -/
  unacked : List Flit
  deriving DecidableEq, Repr

/-- A link that is down. -/
def Link.down : Link :=
  { state := 0, peer := { package := 0, die := 0, link := 0, major := 0, minor := 0 }, coden := 0, codenIn := 0, replays := 0,
    counts := [], dirs := [], seqs := [], unacked := [] }

/-- A hardware barrier (R190): phase, arrivals and owner. -/
structure Barrier where
  phase : Bool
  /-- Who has arrived in this phase, one entry an arrival: a linear fibre index, or 2^32 + core·16 + slot of a thread of
  no launch. -/
  arrived : List Nat
  /-- Owner: tenant, and launch (queue, serial) or the launch-less group. -/
  owner : Option (Nat × Option (Nat × Nat) × Nat)
  deriving DecidableEq, Repr

/-- A barrier at reset. -/
def Barrier.idle : Barrier := { phase := false, arrived := [], owner := none }

/-- What the package shows to the world outside. -/
inductive Out where
  /-- MSI-X vector of function `fn` (0 the PF, t + 1 the VF of tenant t). -/
  | msix (fn vector : Nat)
  /-- Data of a host read (R385). -/
  | hostData (v : Word)
  /-- Unsupported Request (R384). -/
  | unsupported
  /-- A report to the hypervisor: a fault code or reason, an address, a value. -/
  | report (code : Nat) (addr : Nat) (value : Nat)
  /-- A store to a HOST page (R71, R187): PASID, host address, bytes, data. -/
  | hostStore (pasid addr bytes : Nat) (v : Word)
  /-- An ATS translation request (R34, R384): PASID, virtual address. -/
  | ats (pasid : Nat) (addr : Word)
  /-- A PCIe read or AtomicOp request (R54): PASID, host address, request. -/
  | hostRequest (pasid addr : Nat) (req : HostReq)
  /-- A page request (R34, R260): tenant, PASID, index. -/
  | pri (tenant pasid index : Nat)
  /-- A miss message to a pager core (R35), with the slot of a thread. -/
  | miss (pager : Nat) (slot : Option Nat) (m : Miss)
  /-- Signed measurements over DOE (R392). -/
  | measurements (fn : Nat) (log : List (BitVec 256))
  /-- In recovery the PF reports over DOE the boot step that failed (R388). -/
  | recovery (step : Nat)
  /-- A fabric message or notice to another package. -/
  | fabric (package die ctx : Nat) (m : FabMsg)
  | notice (package die ctx : Nat) (n : FabNotice)
  /-- Data of a send to another package (R359). -/
  | p2p (package die ctx : Nat) (d : FabData)
  /-- The matching message of an accepted send or receive, or the word that its last word is written (R359). -/
  | matching (package die ctx : Nat) (m : PeerMsg)
  /-- A link's replay of a flit. -/
  | flit (die link : Nat) (f : Flit)
  deriving DecidableEq, Repr

/-- What the package has shown, with the timestamp, the package index and the source number by which logs and reports are ordered
(R389). -/
structure Event where
  time : Word
  package : Nat
  source : Nat
  what : Out
  deriving DecidableEq, Repr

/-- The parts of a cycle, in order (R120, R126): replies and the device's own work; the issues of the cores from `core` on (R118); the
deliveries of engines into registers; those of `putr`. -/
inductive Phase where
  | replies
  | issues (core : Nat)
  | engines
  | putrs
  deriving DecidableEq, Repr

/-- The whole package. -/
structure State where
  slots : List (Nat × Slot)
  mem : List Host.Cell
  /-- Presence of the words of NEAR and LM, by word number, default FULL (R42). -/
  pres : List (Nat × Presence)
  /-- LM words written since they were last cleared or given out (R240), by word number. -/
  lmDirty : List (Nat × Bool)
  /-- Engine registers with presence, keyed by engine, instance, context and index (R18), default 0 FULL. -/
  er : List (Nat × (Word × Presence))
  /-- Accepted commands per engine context, oldest first. -/
  cmds : List (Nat × List Cmd)
  /-- The id serial of a copy context (R338), default 0: the next id is 1. -/
  cpSerial : List (Nat × Nat)
  atc : List (Nat × AtCtx)
  mx : List (Nat × MxCore)
  mkp : List (Nat × Option MkProd)
  /-- Chains being unwound (R269). -/
  unwinds : List Unwind
  barriers : List (Nat × Barrier)
  /-- Pod phase bits (R360) with the status of the barrier that flipped them last. -/
  pod : List (Nat × (Bool × Nat))
  /-- Translations cached per structure (R33), newest first. -/
  tlb : List (Nat × List Page)
  /-- Place tables taken up by each core (R253): key core·2^64 + PLACE. -/
  placeCache : List (Nat × Option (List (BitVec 16)))
  /-- `putr` deliveries on their way (R193). -/
  putNet : List PutMsg
  /-- Fabric messages sent within the package and not yet received: (die, context) and message. -/
  fabNet : List ((Nat × Nat) × FabMsg)
  fabNotices : List ((Nat × Nat) × FabNotice)
  /-- Counts of sends and receives per pair (R359): key from context, tag, peer and direction. -/
  p2p : List (Nat × Nat)
  /-- The current seq of a context on a tag, as of its last acceptance (R355, R363): key from context and tag. -/
  fxSeq : List (Nat × Nat)
  queues : List (Nat × Queue)
  tenants : List (Nat × Tenant)
  /-- Deficit counters per die and queue (R231). -/
  deficit : List (Nat × Int)
  /-- Queue served last per die and level (R231), plus 1; 0 none. -/
  served : List (Nat × Nat)
  evicts : List Evict
  saves : List Save
  restores : List Restore
  /-- Event counters (R257): key tenant·16 + n. -/
  evc : List (Nat × Word)
  /-- Event codes (R258): key tenant·16 + n. -/
  evsel : List (Nat × Byte)
  /-- Package CSRs of R254, by index. -/
  pcsr : List (Nat × Word)
  /-- TCK per cluster; TCCOL per cluster and tenant. -/
  tck : List (Nat × BitVec 3)
  tccol : List (Nat × BitVec 4)
  /-- Home cluster of a TOUCH page, plus 1 (R39), by physical address of the page. -/
  touch : List (Nat × Nat)
  /-- Clusters whose TCDROP is running (R254). -/
  dropping : List Nat
  /-- Clusters whose tile cache may hold a line: one has been accessed since the last TCDROP. -/
  filled : List Nat
  /-- Clusters whose k or a colour was changed while lines were held (R40), with the lines written since. -/
  recoloured : List (Nat × List Nat)
  /-- Poisoned 128-byte lines and far pages (R52, R53), by physical address of the line or page. -/
  poison : List Nat
  /-- Quarantined far pages (R51), by physical address. -/
  quarantine : List Nat
  /-- Pages whose hash check failed (R47), by physical address, with the byte ranges that have been rewritten since. -/
  badHash : List (Nat × List (Nat × Nat))
  /-- Far sectors whose stored tag no longer matches (R51), by physical address. -/
  badTags : List Nat
  /-- Tenants, plus 1, whose keys encrypt the far sectors written (R50), by sector number. -/
  farKeys : List (Nat × Nat)
  /-- Issuers of engine commands, by core·16 + slot, a read of which a refresh window has stalled (R46, R258). -/
  stalled : List Nat
  /-- Soft errors corrected (R53), and sectors fetched again from a replica (R52). -/
  softErrors : Nat
  refetched : Nat
  /-- Weight-store generations (R45): first page, last page (die·32,768 + page), in use. -/
  generations : List (Nat × Nat × Bool)
  /-- Version counters of far sectors (R50). -/
  versions : List (Nat × BitVec 32)
  wsphase : BitVec 16
  links : List (Nat × Link)
  pris : List Pri
  /-- Host pages (tenant, page) that the answer to a page request has made translatable (R34). -/
  atsOk : List (Nat × Nat)
  config : Option ConfigRecord
  /-- Boot status (R388): the last step completed; with bit 8 over-temperature (R393). -/
  boot : Nat
  attest : List (BitVec 256)
  packageIndex : Nat
  frozen : Bool
  thermal : Option Nat
  clockMHz : Nat
  cycle : Nat
  time : Word
  timeFrac : Nat
  /-- The part of the cycle in which the next step falls. -/
  phase : Phase
  curCore : Nat
  curSlot : Nat
  /-- Outside events to come, with their cycle (model's own; log entry 2). -/
  agenda : List (Nat × Instr)
  seq : Nat
  /-- Free values drawn so far (model's own; log entry 3). -/
  drawn : Nat
  out : List Event
  deriving DecidableEq, Repr

/-- The machine right after reset, before the boot steps of R388: nothing is bound, near memory is 0 and FULL. -/
def State.reset : State :=
  { slots := [], mem := [], pres := [], lmDirty := [], er := [], cmds := [], cpSerial := [], atc := [], mx := [], mkp := [], unwinds := [],
    barriers := [], pod := [], tlb := [], placeCache := [], fabNet := [], fabNotices := [], p2p := [], fxSeq := [], queues := [],
    tenants := [], deficit := [], served := [], evicts := [], saves := [], restores := [], evc := [], evsel := [],
    pcsr := [], tck := [], tccol := [], touch := [], dropping := [], filled := [], recoloured := [], poison := [], quarantine := [], badHash := [], badTags := [], farKeys := [], stalled := [], softErrors := 0, refetched := 0,
    generations := [], versions := [], wsphase := 0, links := [], pris := [], atsOk := [], putNet := [], config := none, boot := 0,
    attest := [], packageIndex := 0, frozen := false, thermal := none, clockMHz := 3300, cycle := 0, time := 0,
    timeFrac := 0, phase := .replies, curCore := 0, curSlot := 0, agenda := [], seq := 0, drawn := 0, out := [] }

end Sys2Proof.Machine
end

