-- ==== Sys2Proof/Machine/Ops.lean ====
section
/-! DEFINITION. The named operations over slots, registers, CSRs and the raw memory; taking an exception (R135, R136) and
returning from one (R171); parking and waking; deliveries; event counters. -/

namespace Sys2Proof.Machine

/-- How the body of a meaning ends early (R5): a fault of the thread, a wait, a translation miss, or a stop of the model. -/
inductive Stop where
  | trap (code : Nat) (eval : Word)
  | park (w : Wait)
  /-- A wait of an instruction with accesses that have been issued: they keep their translations (R33). -/
  | hold (w : Wait) (l : List Acc)
  /-- A wait of an instruction of the bit-buffer, with the input words that it has read (R217). -/
  | read (w : Wait) (l : List (Nat × Word × Presence))
  | miss (m : Miss)
  | stuck (f : Fault)
  deriving DecidableEq, Repr

/-! ### Bits -/

/-- Bits [lo+n−1 : lo] of a word, as a number. -/
def fld (w : Word) (lo n : Nat) : Nat := (w.toNat >>> lo) % 2 ^ n

/-- Bit `i` of a word. -/
def bit (w : Word) (i : Nat) : Bool := w.getLsbD i

/-- A word from a number, modulo 2^64. -/
def word (n : Nat) : Word := BitVec.ofNat 64 n

/-- A two's complement field of n bits as an integer. -/
def sfield (v n : Nat) : Int := if v < 2 ^ (n - 1) then (v : Int) else (v : Int) - 2 ^ n

/-! ### The one physical numbering -/

/-- Start of FAR, LM, BSLICE, WSTORE, HOST and IO in the one physical numbering; NEAR starts at 0 (log entry 5). -/
def farBase : Nat := 2 ^ 44
def lmBase : Nat := 2 ^ 48
def bsBase : Nat := 2 ^ 49
def wsBase : Nat := 2 ^ 50
def hostBase : Nat := 2 ^ 52
def ioBase : Nat := 2 ^ 56

/-- Whether a physical address lies in FAR. -/
def isFar (a : Nat) : Bool := decide (farBase ≤ a) && decide (a < farBase + 2 ^ 43)

/-! ### Cores (R11–R14, R16) -/

/-- Cores are numbered 0–1,023 compute, 1,024 + 4·die + n control, 1,040 + cluster pager (log entry 5). -/
def coreKind (c : Nat) : CoreKind := if c < 1024 then .compute else if c < 1040 then .control else .pager

/-- The number of slots of a core (R116). -/
def slotCount (c : Nat) : Nat := if c < 1024 then 8 else if c < 1040 then 16 else 8

/-- The die of a core (R13). -/
def dieOf (c : Nat) : Nat := if c < 1024 then c / 256 else if c < 1040 then (c - 1024) / 4 else (c - 1040) / 16

/-- The cluster of a compute or pager core; of a control core the first cluster of its die (R14, R35). -/
def clusterOf (c : Nat) : Nat := if c < 1024 then c / 16 else if c < 1040 then dieOf c * 16 else c - 1040

/-- Mesh coordinates of in-die index `d` (R13): one level of the Hilbert walk. -/
def hilbertStep (level : Nat) (p : Nat × Nat × Nat) : Nat × Nat × Nat :=
  let s := 2 ^ level
  let rx := (p.2.2 / 2) % 2
  let ry := (p.2.2 % 2 + rx) % 2
  let x := p.1
  let y := p.2.1
  let xy := if ry = 0 then (if rx = 1 then (s - 1 - y, s - 1 - x) else (y, x)) else (x, y)
  (xy.1 + s * rx, xy.2 + s * ry, p.2.2 / 4)

/-- Where an event, or a part of the scan, comes from (R389). -/
inductive Source where
  | compute (core : Nat)
  | control (die n : Nat)
  | pager (cluster : Nat)
  | launch (die : Nat)
  | frame (die : Nat)
  | fabric (die : Nat)
  | mask (die : Nat)
  | tier (die : Nat)
  | cleaning (die : Nat)
  | copy (cluster : Nat)
  | attention (quad : Nat)
  | link (die l : Nat)
  | host
  deriving DecidableEq, Repr

/-- Source numbers (R389). -/
def Source.number : Source → Nat
  | .compute c => c
  | .control d n => 0x0400 + 4 * d + n
  | .pager c => 0x0500 + c
  | .launch d => 0x0600 + d
  | .frame d => 0x0610 + d
  | .fabric d => 0x0620 + d
  | .mask d => 0x0630 + d
  | .tier d => 0x0640 + d
  | .cleaning d => 0x0650 + d
  | .copy c => 0x0700 + c
  | .attention q => 0x0800 + q
  | .link d l => 0x0A00 + 4 * d + l
  | .host => 0x0F00

/-- A core as a source. -/
def coreSource (core : Nat) : Source :=
  match coreKind core with
  | .compute => .compute core
  | .control => .control (dieOf core) ((core - 1024) % 4)
  | .pager => .pager (core - 1040)

/-- The mesh position of in-die index `d` (R13). -/
def hilbertXY (d : Nat) : Nat × Nat :=
  let r := hilbertStep 3 (hilbertStep 2 (hilbertStep 1 (hilbertStep 0 (0, 0, d))))
  (r.1, r.2.1)

/-! ### Slots -/

/-- The slot `slot` of core `core`. -/
def State.slotAt (s : State) (core slot : Nat) : Slot := tabGet .empty s.slots (core * 16 + slot)

/-- Replaces a slot. -/
def State.setSlot (s : State) (core slot : Nat) (sl : Slot) : State :=
  { s with slots := tabPut .empty s.slots (core * 16 + slot) sl }

/-- The slot that executes. -/
def State.me (s : State) : Slot := s.slotAt s.curCore s.curSlot

/-- Replaces the slot that executes. -/
def State.setMe (s : State) (sl : Slot) : State := s.setSlot s.curCore s.curSlot sl

/-- Whether a core and slot exist (R116). -/
def slotExists (core slot : Nat) : Bool := decide (core < 1104) && decide (slot < slotCount core)

/-! ### CSRs (R129, R131) -/

/-- A CSR of the slot, by index. -/
def Slot.csrv (sl : Slot) (i : Nat) : Word := tabGet 0 sl.csr i

/-- Writes a CSR of the slot. -/
def Slot.setCsr (sl : Slot) (i : Nat) (v : Word) : Slot := { sl with csr := tabPut 0 sl.csr i v }

/-- STATUS (R131). -/
def Slot.status (sl : Slot) : Word := sl.csrv 0
/-- STATUS.MODE. -/
def Slot.mode (sl : Slot) : BitVec 2 := sl.status.extractLsb' 0 2
/-- STATUS.PMODE. -/
def Slot.pmode (sl : Slot) : BitVec 2 := sl.status.extractLsb' 2 2
/-- STATUS.INH. -/
def Slot.inh (sl : Slot) : Bool := sl.status.getLsbD 4
/-- STATUS.tenant. -/
def Slot.tenant (sl : Slot) : BitVec 8 := sl.status.extractLsb' 16 8

/-- A STATUS word from its fields (R131). -/
def mkStatus (tenant slot : Nat) (inh : Bool) (pmode mode : BitVec 2) : Word :=
  word ((tenant % 256) * 65536 + (slot % 16) * 256 + (if inh then 16 else 0) + pmode.toNat * 4 + mode.toNat)

/-- Writes MODE, PMODE and INH of STATUS and keeps the rest. -/
def Slot.setStatus (sl : Slot) (inh : Bool) (pmode mode : BitVec 2) : Slot :=
  sl.setCsr 0 ((sl.status &&& ~~~(0x1F : Word)) ||| word ((if inh then 16 else 0) + pmode.toNat * 4 + mode.toNat))

/-- FLAGS.V := 1 (R132). -/
def Slot.setV (sl : Slot) : Slot := sl.setCsr 6 (sl.csrv 6 ||| 1)

/-- FLAGS.V. -/
def Slot.flagV (sl : Slot) : Bool := (sl.csrv 6).getLsbD 0

/-! ### Registers with presence (R121–R125) -/

/-- g`r`: value and presence; g0 reads 0 and is FULL. -/
def Slot.gp (sl : Slot) (r : BitVec 5) : Word × Presence := if r = 0 then (0, .full) else tabGet (0, .full) sl.g r.toNat
/-- v`r`: value and presence. -/
def Slot.vp (sl : Slot) (r : BitVec 4) : VWord × Presence := tabGet (0, .full) sl.v r.toNat
/-- k`r`: value and presence; k0 reads all ones and is FULL. -/
def Slot.kp (sl : Slot) (r : BitVec 3) : BitVec 32 × Presence :=
  if r = 0 then (0xFFFFFFFF, .full) else tabGet (0, .full) sl.k r.toNat

/-- The value an executing instruction reads from g`r`: a VOID register reads 0 (R124). -/
def Slot.gv (sl : Slot) (r : BitVec 5) : Word := if (sl.gp r).2 = .void then 0 else (sl.gp r).1
/-- The value an executing instruction reads from v`r`. -/
def Slot.vv (sl : Slot) (r : BitVec 4) : VWord := if (sl.vp r).2 = .void then 0 else (sl.vp r).1
/-- The value an executing instruction reads from k`r`. -/
def Slot.kv (sl : Slot) (r : BitVec 3) : BitVec 32 := if (sl.kp r).2 = .void then 0 else (sl.kp r).1

/-- Writes g`r` with a presence; g0 ignores writes (R121). -/
def Slot.setG (sl : Slot) (r : BitVec 5) (v : Word) (p : Presence) : Slot :=
  if r = 0 then sl else { sl with g := tabPut (0, .full) sl.g r.toNat (v, p) }
/-- Writes v`r` with a presence. -/
def Slot.setVr (sl : Slot) (r : BitVec 4) (v : VWord) (p : Presence) : Slot :=
  { sl with v := tabPut (0, .full) sl.v r.toNat (v, p) }
/-- Writes k`r` with a presence; k0 ignores writes (R123). -/
def Slot.setK (sl : Slot) (r : BitVec 3) (v : BitVec 32) (p : Presence) : Slot :=
  if r = 0 then sl else { sl with k := tabPut (0, .full) sl.k r.toNat (v, p) }

/-- write_g: an instruction's result, FULL (R124). -/
def Slot.wrG (sl : Slot) (r : BitVec 5) (v : Word) : Slot := sl.setG r v .full
/-- A vector result, FULL. -/
def Slot.wrV (sl : Slot) (r : BitVec 4) (v : VWord) : Slot := sl.setVr r v .full
/-- A mask result, FULL. -/
def Slot.wrK (sl : Slot) (r : BitVec 3) (v : BitVec 32) : Slot := sl.setK r v .full

/-- The presence of a source. -/
def Slot.presOf (sl : Slot) : Src → Presence
  | .g r => (sl.gp r).2
  | .v r => (sl.vp r).2
  | .k r => (sl.kp r).2

/-- R124: an instruction examines all its sources before it takes effect. An EMPTY one parks it; otherwise a VOID one
sets V. The values are then read with gv, vv and kv. -/
def Slot.gate (sl : Slot) (l : List Src) : Except Stop Slot :=
  match l.find? (fun r => decide (sl.presOf r = .empty)) with
  | some r => .error (.park (.reg r))
  | none => if l.any (fun r => decide (sl.presOf r = .void)) then .ok sl.setV else .ok sl

/-- pc := pc + 4, and the slot goes on issuing. -/
def Slot.advance (sl : Slot) : Slot :=
  { sl with pc := sl.pc + 4, state := .ready, wait := .none, reply := .none, resuming := false, fetched := none, kept := [], words := [] }

/-- The slot goes on at `pc`. -/
def Slot.jump (sl : Slot) (pc : Word) : Slot :=
  { sl with pc := pc, state := .ready, wait := .none, reply := .none, resuming := false, fetched := none, kept := [], words := [] }

/-- An address with its two low bits cleared (R72). -/
def align4 (a : Word) : Word := a &&& ~~~(3 : Word)

/-! ### Taking an exception and returning from one -/

/-- A fault of the thread: delivery to TVEC (R135), escalation to HTVEC, or STOPPED in mode H (R136). -/
def Slot.raise (sl : Slot) (code : Nat) (eval : Word) : Slot :=
  if sl.mode = 0 ∧ sl.inh = false ∧ sl.csrv 4 ≠ 0 then
    ((((sl.setCsr 1 (word code)).setCsr 2 sl.pc).setCsr 3 eval).setStatus true sl.mode 1).jump (sl.csrv 4)
  else
    let h := word (code + sl.mode.toNat * 256 + (if sl.inh then 1024 else 0))
    let e := ((sl.setCsr 0x103 h).setCsr 0x102 sl.pc).setCsr 0x105 eval
    if sl.mode = 3 then { e.jump sl.pc with state := .stopped }
    else (e.setStatus sl.inh sl.pmode 3).jump (align4 (sl.csrv 0x101))

/-- R171: return from a handler. -/
def Slot.eret (sl : Slot) : Slot :=
  if sl.mode = 1 then (sl.setStatus false sl.pmode sl.pmode).jump (align4 (sl.csrv 2))
  else
    let m := (sl.csrv 0x103).extractLsb' 8 2
    (sl.setStatus ((sl.csrv 0x103).getLsbD 10) sl.pmode (if m = 2 then 3 else m)).jump (align4 (sl.csrv 0x102))

/-! ### Event counters (R257, R258) -/

/-- Adds `n` events of a code to the counters of a tenant that count it. -/
def State.countEv (s : State) (tenant code n : Nat) : State :=
  s.evsel.foldl (fun s p =>
    if p.1 / 16 = tenant ∧ tenant < 128 ∧ p.2.toNat = code ∧ code < 18 then
      { s with evc := tabPut 0 s.evc p.1 (tabGet 0 s.evc p.1 + word n) } else s) s

/-- Whether a tenant counts events of a code. -/
def State.counts (s : State) (tenant code : Nat) : Bool := s.evsel.any (fun p => decide (p.1 / 16 = tenant) && decide (p.2.toNat = code))

/-- Adds to the log of what the world outside sees, with its timestamp, the package index and the source (R389). -/
def State.emit (s : State) (src : Source) (o : Out) : State :=
  { s with out := s.out ++ [{ time := s.time, package := s.packageIndex, source := src.number, what := o }] }

/-! ### Ending a meaning -/

/-- The space and the tenant for which a slot works: in mode H the hypervisor's, number 0xFF, whose work is counted to no tenant (R33,
R257). -/
def Slot.acct (sl : Slot) : BitVec 8 := if sl.mode = 3 then 0xFF else sl.tenant

/-- The PASID of requests for a space: the number of its tenant names it (log entry 56). -/
def Slot.pasid (sl : Slot) : Nat := sl.acct.toNat

/-- A PCIe request goes out for a tenant, with its translation request where the page is not cached (R54, R258, R384). -/
def State.pcieRequest (s : State) (pasid : Nat) (acct : BitVec 8) (ats : Option Word) (o : Out) : State :=
  let s := match ats with
    | some va => s.emit .host (.ats pasid va)
    | none => s
  (s.emit .host o).countEv acct.toNat 15 1

/-- Whether some structures hold a page that serves an access (R33). -/
def State.holdsPage (s : State) (keys : List Nat) (tenant : BitVec 8) (va : Nat) : Bool :=
  keys.any (fun k => (tabGet [] s.tlb k).any (fun p => decide (p.tenant = tenant) && decide (va / 2 ^ p.bits = p.vpage)))

/-- The address of a thread's access whose translation is asked of the host: none where it is cached. -/
def State.asks (s : State) (unit : Nat) (va : Word) : Option Word :=
  if s.holdsPage [s.curCore * 2 + unit, if coreKind s.curCore = .control then 30000 + dieOf s.curCore else 20000 + clusterOf s.curCore]
      s.me.acct va.toNat then none else some va

/-- The PCIe request that a wait emits, if it does (R186, R187); the zero-length read of a fence has no address to translate. -/
def State.waitEmits (s : State) (w : Wait) : State :=
  match w with
  | .host va a r _ => s.pcieRequest s.me.pasid s.me.acct (if r = .flush then none else s.asks 1 va) (.hostRequest s.me.pasid a r)
  | .fetch p _ =>
    if isFar p then s else s.pcieRequest s.me.pasid s.me.acct (s.asks 0 s.me.pc) (.hostRequest s.me.pasid (p - hostBase) (.read 4))
  | _ => s

/-- Whether an instruction that parks on `w` after `v` keeps its place among the waiters (R65): its request had left for memory by then. The
frame engine has its own order of receipt (R16). -/
def Wait.keeps (v w : Wait) : Bool :=
  match v, w with
  | .reg _, _ => false
  | .frame _ _, .frame _ _ => true
  | .frTurn, .frTurn => true
  | _, .frame _ _ => false
  | _, .frTurn => false
  | _, _ => true

/-- The executing thread's place among the waiters if it parks on `w`: where it has waited before, that of its first wait. -/
def State.placeFor (s : State) (w : Wait) : Nat := if s.me.resuming && s.me.wait.keeps w then s.me.seq else s.seq

/-- The slot parks on `w` with its instruction not executed; accesses of it that have been issued keep their translations. An
instruction that parks again keeps its place among the waiters (R65). -/
def State.holdMe (s : State) (w : Wait) (l : List Acc) : State :=
  let s := s.waitEmits w
  { s.setMe { s.me with
      state := .parked, wait := w, seq := s.placeFor w, resuming := false, reply := .none, kept := l } with
    seq := s.seq + 1 }

/-- An instruction of the bit-buffer parks on `w`: the words that it has read stay read (R217). -/
def State.readMe (s : State) (w : Wait) (l : List (Nat × Word × Presence)) : State :=
  let t := s.holdMe w []
  t.setMe { t.me with words := l }

/-- The slot parks on `w` with its instruction not executed. -/
def State.parkMe (s : State) (w : Wait) : State := s.holdMe w []

/-- The pager core of a core: that of its cluster; of a control core that of the first cluster of its die (R35). -/
def pagerOf (core : Nat) : Nat := 1040 + clusterOf core

/-- A miss message goes to the pager core, and is counted to the tenant whose access missed (R35, R258); where ATS has failed, its request
came first (R34). -/
def State.sendMiss (s : State) (core : Nat) (slot : Option Nat) (acct : Nat) (m : Miss) : State :=
  let s := if m.stage = 3 then s.emit .host (.ats m.tenant.toNat m.va) else s
  (s.emit (coreSource core) (.miss (pagerOf core) slot m)).countEv acct 14 1

/-- R35: the thread drops from rotation and a miss message goes to the pager. -/
def State.sleepMe (s : State) (m : Miss) : State :=
  (s.setMe { s.me with state := .asleep, wait := .none, resuming := false, reply := .none, miss := some m, kept := [] }).sendMiss
    s.curCore (some s.curSlot) s.me.acct.toNat m

/-- A fault of the executing slot. A fault in mode H is also reported to the die's firmware (R136). -/
def State.raise (s : State) (code : Nat) (eval : Word) : State :=
  let t := s.setMe (s.me.raise code eval)
  if s.me.mode = 3 then t.emit (coreSource s.curCore) (.report code s.me.pc.toNat eval.toNat) else t

/-- A free value (log entry 3). -/
def State.draw (s : State) : Word × State := (Config.freeWord s.drawn, { s with drawn := s.drawn + 1 })

/-- Adds events whose number the spec leaves to timing to the counters of a tenant (R258, R397): a free number of them (log entry 3). -/
def State.countTimed (s : State) (tenant code : Nat) : State :=
  if s.counts tenant code then let r := s.draw; r.2.countEv tenant code r.1.toNat else s

/-- Who makes an access of the thread in a slot. In mode H the hypervisor's own S1ROOT and tenant number hold (R26, R33). -/
def Slot.who (m : Slot) (core slot : Nat) : Who :=
  { core := core, slot := slot, mode := m.mode, tenant := m.acct, acct := m.acct,
    s1 := if m.mode = 3 then m.csrv 0x180 else m.csrv 0x080, s2 := m.csrv 0x104, fpcsr := m.csrv 0x012,
    ctxid := m.csrv 0x023, ftb := m.csrv 0x024, place := m.csrv 0x110, rbase := m.csrv 0x111, rlen := m.csrv 0x112 }

/-- Who makes an access of the executing thread. -/
def State.who (s : State) : Who := s.me.who s.curCore s.curSlot

/-! ### Deliveries into registers (R126, R194) -/

/-- Writes a register that a delivery aims at. -/
def Slot.setSrc (sl : Slot) (r : Src) (v : VWord) (p : Presence) : Slot :=
  match r with
  | .g n => sl.setG n (v.setWidth 64) p
  | .v n => sl.setVr n v p
  | .k n => sl.setK n (v.setWidth 32) p

/-- A delivery reaches a slot that holds a fibre: the register is written, and a wait for it ends. One aimed at g0 or k0 writes
nothing (R121), and still counts as a delivery for `wait` (DESIGN CHOICE, log entry 44). -/
def Slot.receive (sl : Slot) (r : Src) (v : VWord) (p : Presence) : Slot :=
  let t := { sl.setSrc r v p with delivered := true }
  if t.state = .parked ∧ t.wait = .reg r ∧ p ≠ .empty then { t with state := .ready, wait := .none } else t

/-- R194: a delivery is discarded at a FREE slot and counted to the sender, spilled for a pre-empted fibre, or applied. -/
def State.deliver (s : State) (sender core slot : Nat) (r : Src) (v : VWord) (p : Presence) : State :=
  let t := s.slotAt core slot
  if t.state = .free then s.countEv sender 12 1
  else if t.preempted then s.setSlot core slot { t with spill := t.spill ++ [(r, v, p)] }
  else s.setSlot core slot (t.receive r v p)

/-! ### Engine registers and contexts (R18) -/

/-- Code of an engine kind, for keys. -/
def engCode : EngKind → Nat
  | .ln => 0 | .fr => 1 | .at => 2 | .mx => 3 | .cp => 4 | .fx => 5 | .mk => 6

/-- Key of a command context. -/
def ctxKey (k : EngKind) (inst ctx : Nat) : Nat := (engCode k * 1024 + inst) * 2048 + ctx

/-- Key of an engine register. -/
def erKey (k : EngKind) (inst ctx n : Nat) : Nat := ctxKey k inst ctx * 64 + n

/-- An engine register: value and presence. -/
def State.erp (s : State) (k : EngKind) (inst ctx n : Nat) : Word × Presence := tabGet (0, .full) s.er (erKey k inst ctx n)

/-- Writes an engine register. -/
def State.setEr (s : State) (k : EngKind) (inst ctx n : Nat) (v : Word) (p : Presence) : State :=
  { s with er := tabPut (0, .full) s.er (erKey k inst ctx n) (v, p) }

/-- The instance and context of an issuer (R18). The instance of a frame engine depends on FTB too (R16; `State.myCtx`). The spec
gives a pager core no context of an engine but `cp`; what this formula gives it is never used but for a level-5 barrier (DESIGN
CHOICE, log entry 14). -/
def engCtx (k : EngKind) (core slot : Nat) (cpsel : Nat) : Nat × Nat :=
  let d := dieOf core
  let n := (core - 1024) % 4
  match k with
  | .mx => (core, 0)
  | .at => (core / 4, core % 4)
  | .cp =>
    if core < 1024 then (core / 16, core % 16)
    else if core < 1040 then (16 * d + cpsel, 17 + 16 * n + slot)
    else (core - 1040, 16)
  | .fr => (0, if core < 1024 then core else 1024 + 64 * d + 16 * n + slot)
  | _ => (d, if core < 1024 then core % 256 else 256 + 16 * n + slot)

/-- The snapshot of the first `n` engine registers of a context (R20). -/
def State.snap (s : State) (k : EngKind) (inst ctx n : Nat) : List Word :=
  (List.range n).map (fun i => (s.erp k inst ctx i).1)

/-- Register `i` of a snapshot. -/
def reg (l : List Word) (i : Nat) : Word := l.getD i 0

/-- The accepted commands of a context. -/
def State.cmdsOf (s : State) (k : EngKind) (inst ctx : Nat) : List Cmd := tabGet [] s.cmds (ctxKey k inst ctx)

/-- Replaces the accepted commands of a context. -/
def State.setCmds (s : State) (k : EngKind) (inst ctx : Nat) (l : List Cmd) : State :=
  { s with cmds := tabPut [] s.cmds (ctxKey k inst ctx) l }

/-- STAT's index in an engine's register map. -/
def engStat : EngKind → Nat
  | .ln => 2 | .fr => 0 | .at => 12 | .mx => 8 | .cp => 10 | .fx => 9 | .mk => 10

/-- Acceptance of a command: STAT becomes EMPTY and keeps its value (R21). -/
def State.statEmpty (s : State) (k : EngKind) (inst ctx : Nat) : State :=
  s.setEr k inst ctx (engStat k) (s.erp k inst ctx (engStat k)).1 .empty

/-- Completion: STAT is written and FULL (R21). -/
def State.statFull (s : State) (k : EngKind) (inst ctx : Nat) (v : Word) : State := s.setEr k inst ctx (engStat k) v .full

/-! ### Raw memory -/

/-- The value of byte `a` of the one physical numbering; an unlisted byte is 0 (R43; log entry 7). -/
def State.byteAt (s : State) (a : Nat) : Byte := tabGet 0 s.mem a

/-- `n` bytes from `a`, little-endian (R2). -/
def State.peek (s : State) (a : Nat) : Nat → Nat
  | 0 => 0
  | n + 1 => (s.byteAt a).toNat + 256 * s.peek (a + 1) n

/-- A memory with `n` bytes at `a` set to those of `v`, little-endian. -/
def pokeMem (m : List Host.Cell) (a : Nat) : Nat → Nat → List Host.Cell
  | 0, _ => m
  | n + 1, v => pokeMem (tabPut 0 m a (BitVec.ofNat 8 v)) (a + 1) n (v / 256)

/-- Whether a physical address lies in LM. -/
def isLm (a : Nat) : Bool := decide (lmBase ≤ a) && decide (a < lmBase + 1024 * 524288)

/-- Whether an address is one of near DRAM (R31): die d owns d·128 GiB and 96 GiB on. -/
def isNear (a : Nat) : Bool := decide (a < 2 ^ 39) && decide (a % 2 ^ 37 < 96 * 2 ^ 30)

/-- Whether a physical address keeps presence (R42). -/
def hasPres (a : Nat) : Bool := isNear a || isLm a

/-- A word of LM counts as written (R240). -/
def State.marked (s : State) (a : Nat) : State :=
  if isLm a then { s with lmDirty := tabPut false s.lmDirty (a / 8) true } else s

/-- Adds a byte range to rising ranges that neither meet nor touch. -/
def addRange (lo hi : Nat) : List (Nat × Nat) → List (Nat × Nat)
  | [] => [(lo, hi)]
  | (a, b) :: t =>
    if hi < a then (lo, hi) :: (a, b) :: t else if b < lo then (a, b) :: addRange lo hi t else addRange (min lo a) (max hi b) t

/-- Bytes of a page whose hash check failed are rewritten; the page is valid again once all are (R47). -/
def State.covered (s : State) (a n : Nat) : State :=
  { s with badHash := (s.badHash.map (fun e =>
      if e.1 = a / 65536 * 65536 then (e.1, addRange (a % 65536) (a % 65536 + n) e.2) else e)).filter (fun e => decide (e.2 ≠ [(0, 65536)])) }

/-- Stores `n` bytes. In LM the word counts as written (R240). -/
def State.poke (s : State) (a n v : Nat) : State := (({ s with mem := pokeMem s.mem a n v } : State).marked a).covered a n

/-- A tenant's write of a far sector raises its version counter, and encrypts it under the tenant's key; the hypervisor's leaves the
sector's owner as it is (R50). -/
def State.versioned (s : State) (tenant : BitVec 8) (a : Nat) : State :=
  if isFar a then
    { s with
      versions := tabPut 0 s.versions (a / 4096) (tabGet 0 s.versions (a / 4096) + 1)
      farKeys := if tenant.toNat < 128 then tabPut 0 s.farKeys (a / 4096) (tenant.toNat + 1) else s.farKeys }
  else s

/-- The presence of the word that holds `a`. -/
def State.presAt (s : State) (a : Nat) : Presence := tabGet .full s.pres (a / 8)

/-- Gives the waits that `f` names their end, whatever the word or phase is by now (R23, R190, R191); `all` includes pre-empted threads. -/
def State.endsWaits (s : State) (r : Reply) (all : Bool) (f : Wait → Bool) : State :=
  let mark (sl : Slot) : Slot := if sl.state = .parked ∧ (all ∨ sl.preempted = false) ∧ f sl.wait then { sl with reply := r } else sl
  let saved (l : List SavedFibre) : List SavedFibre := if all then l.map (fun x => { x with slot := mark x.slot }) else l
  { s with
    slots := s.slots.map (fun e => (e.1, mark e.2))
    saves := s.saves.map (fun v => { v with fibres := saved v.fibres })
    restores := s.restores.map (fun r => { r with todo := saved r.todo }) }

/-- A word has become VOID: every `waitc` parked on it completes (R191). -/
def State.voided (s : State) (a : Nat) : State :=
  s.endsWaits .voided false (fun w => match w with
    | .phase b _ => decide (b / 8 = a / 8)
    | _ => false)

/-- set_presence (R5). A target without presence keeps none. -/
def State.setPres (s : State) (a : Nat) (p : Presence) : State :=
  if hasPres a then
    let t := ({ s with pres := tabPut .full s.pres (a / 8) p } : State).marked a
    if p = .void then t.voided a else t
  else s

/-- A 64-bit word with its new presence, in one store (R56). -/
def State.pokeWord (s : State) (a : Nat) (v : Word) (p : Presence) : State := (s.poke a 8 v.toNat).setPres a p

/-- The first of the accepted commands of a context that a thread issued and that are not finished. -/
def State.streamOf (s : State) (k : EngKind) (inst ctx core slot : Nat) : List Cmd :=
  (s.cmdsOf k inst ctx).filter (fun c => !c.finished && decide (c.who.core = core) && decide (c.who.slot = slot))

/-- The canonical form of a memory: addresses rise strictly, and no entry holds 0, which an unlisted address reads as. -/
def Memory.wf (m : List Host.Cell) : Bool := tabWf 0 m

end Sys2Proof.Machine
end

