-- ==== Sys2Proof/Machine/LinkCode.lean ====
section
/-! DEFINITION. One end of a Rhoiq link: exponent coding (R369), the flits that it sends and takes (R367), and a change of CODEN. -/

namespace Sys2Proof.Machine

/-! ### Exponent coding (R369) -/

/-- Puts a pair at its rank: higher counts first, then lower exponents. -/
def expInsert (x : Nat × Nat) : ExpTable → ExpTable
  | [] => [x]
  | y :: t => if y.2 < x.2 ∨ (y.2 = x.2 ∧ x.1 < y.1) then x :: y :: t else y :: expInsert x t

/-- Adds a flit's exponents to the counts of a table, and sorts it again. -/
def expAdd (t : ExpTable) (es : List Nat) : ExpTable :=
  (t.map (fun x => (x.1, x.2 + (es.filter (· = x.1)).length))).foldr expInsert []

/-- Halves every count of both tables. -/
def LinkDir.halve (d : LinkDir) : LinkDir :=
  { d with exp32 := (d.exp32.map (fun x => (x.1, x.2 / 2))).foldr expInsert [],
           exp16 := (d.exp16.map (fun x => (x.1, x.2 / 2))).foldr expInsert [], flits := 0 }

/-- The tables after one more flit; counts that are due are halved first. -/
def LinkDir.step (d : LinkDir) (f : Flit) : LinkDir :=
  let d := if 256 ≤ d.flits then d.halve else d
  { d with exp32 := expAdd d.exp32 f.exp32, exp16 := expAdd d.exp16 f.exp16, flits := d.flits + 1 }

/-- The last flit is acknowledged. -/
def LinkDir.ack (d : LinkDir) : LinkDir := { d with acked32 := d.exp32, acked16 := d.exp16, ackedFlits := d.flits }

/-- A replay starts from the tables of the last acknowledged flit. -/
def LinkDir.restore (d : LinkDir) : LinkDir := { d with exp32 := d.acked32, exp16 := d.acked16, flits := d.ackedFlits }

/-- Bits that coding saves or adds for exponents: a rank is 4 bits in place of 8, an escape 12. -/
def expBits (t : ExpTable) (es : List Nat) : Int := (es.map (fun e => if t.any (·.1 = e) then (-4 : Int) else 4)).foldl (· + ·) 0

/-- Payload bytes of a flit as sent, with coding on. -/
def LinkDir.codedBytes (d : LinkDir) (f : Flit) : Nat :=
  (((8 * f.bytes : Nat) + expBits d.exp32 f.exp32 + expBits d.exp16 f.exp16).toNat + 7) / 8

/-! ### Sending -/

/-- Tables of a channel and direction. -/
def Link.dirAt (k : Link) (i : Nat) : LinkDir := tabGet .start k.dirs i
/-- Adds to a counter, modulo 2^64. -/
def Link.count (k : Link) (i n : Nat) : Link := { k with counts := tabPut 0 k.counts i ((tabGet 0 k.counts i + n) % 2 ^ 64) }

/-- Number of the next flit of a channel, to send (0) or to receive (1). -/
def Link.next (k : Link) (c way : Nat) : Nat := tabGet 0 k.seqs (2 * c + way)

/-- A flit leaves on channel `f.channel` under the next number; one that changes CODEN does so for the flits behind it (R367, R369). -/
def Link.send (k : Link) (f : Flit) : Link :=
  let c := f.channel
  let d := k.dirAt (2 * c)
  let on := decide (c < 3) && k.coden.getLsbD c
  let k := ((k.count (4 * c) 1).count (4 * c + 2) f.bytes).count (4 * c + 3) (if on then d.codedBytes f else f.bytes)
  let k := if on then { k with dirs := tabPut .start k.dirs (2 * c) (d.step f) } else k
  { k with
    unacked := k.unacked ++ [{ f with seq := k.next c 0 }]
    seqs := tabPut 0 k.seqs (2 * c) (k.next c 0 + 1)
    coden := f.coden.getD k.coden }

/-- A flit of channel 3 (log entry 21). -/
def controlFlit : Flit := { channel := 3, crcOk := true, bytes := 64, exp32 := [], exp16 := [], seq := 0, dst := 0, coden := none }

/-- The flits of a message's data: eight words each, with the exponents of its words that hold two FP32 values, those whose number `fp32`
accepts (log entry 21). -/
def dataFlits (channel : Nat) (fp32 : Nat → Bool) (d : FabData) : List Flit :=
  (List.range ((d.length + 7) / 8)).map (fun i =>
    let l := (d.drop (8 * i)).take 8
    { channel := channel, crcOk := true, bytes := 8 * l.length,
      exp32 := (l.mapIdx (fun j w => if fp32 (8 * i + j) then [fld w.1 23 8, fld w.1 55 8] else [])).flatten, exp16 := [],
      seq := 0, dst := 0, coden := none })

/-- A write of CODEN: on a link that is up, a flit of channel 3 carries it, and the change takes effect there at both ends (R369). -/
def Link.setCoden (k : Link) (v : BitVec 3) : Link :=
  if k.state = 2 then k.send { controlFlit with dst := k.peer.package, coden := some v } else { k with coden := v, codenIn := v }

/-- The peer's change of CODEN: it holds for the flits behind it, and this end answers with its own change (R369). -/
def Link.takeCoden (k : Link) (v : BitVec 3) : Link :=
  let k := { k with codenIn := v }
  if k.coden = v then k else k.setCoden v

/-- A flit of the peer that is the next of its channel is taken: it is counted and decoded with the tables following, and it acknowledges
what this end has sent (log entry 21). Any other has been lost before it, or comes again, and is dropped (R367). -/
def Link.take (k : Link) (f : Flit) : Link :=
  let c := f.channel
  if f.seq ≠ k.next c 1 then k
  else
    let k := k.count (4 * c + 1) 1
    let k :=
      if c < 3 ∧ k.codenIn.getLsbD c then { k with dirs := tabPut .start k.dirs (2 * c + 1) ((k.dirAt (2 * c + 1)).step f).ack } else k
    let k := { k with
      seqs := tabPut 0 k.seqs (2 * c + 1) (f.seq + 1)
      unacked := []
      dirs := k.dirs.map (fun (e : Nat × LinkDir) => (e.1, e.2.ack)) }
    match f.coden with
    | some v => k.takeCoden v
    | none => k

/-- The unacknowledged flits of a channel go again, from the tables of the last acknowledged one (R367, R369). -/
def Link.replay (k : Link) (channel : Nat) : Link :=
  let l := k.unacked.filter (fun f => decide (f.channel = channel))
  let k := { k with replays := (k.replays + l.length) % 2 ^ 64 }
  if channel < 3 ∧ k.coden.getLsbD channel then
    { k with dirs := tabPut .start k.dirs (2 * channel) (l.foldl LinkDir.step (k.dirAt (2 * channel)).restore) }
  else k

end Sys2Proof.Machine
end

