-- ==== Sys2Proof/Machine/Memory.lean ====
section
/-! DEFINITION. Translation (R24–R35), the check order of R25, tile-cache homes (R39, R40), the device windows (R386), and
the accesses of threads and engines built on them. -/

namespace Sys2Proof.Machine

/-! ### Walks -/

/-- A pointer entry that is valid and well formed but for its table's place (R28, R30); `szOk` says which SZ may stand. -/
def pointerOk (e : Word) (align1 : Nat) : Bool :=
  bit e 0 && fld e 52 4 = 0 && fld e 6 6 = 0 && fld e 1 3 = 0 && decide (fld e 4 2 < 2) &&
    decide ((fld e 12 40 * 4096) % (if fld e 4 2 = 0 then 32768 else align1) = 0)

/-- The table a pointer names (R28). -/
def pointerTable (e : Word) : Nat := fld e 12 40 * 4096

/-- A leaf entry that is valid and well formed but for the limits that its target type sets on the location (R29, R30). -/
def leafOk (e : Word) (bits : Nat) : Bool :=
  bit e 0 && fld e 52 4 = 0 && !bit e 19 && decide (fld e 1 3 ≠ 0) && decide (fld e 14 2 ≠ 3) && decide (fld e 8 2 ≠ 3) &&
    decide (fld e 5 3 ≠ 7) && (fld e 8 2 ≠ 0 || decide (fld e 10 4 ≤ 4)) && (fld e 8 2 ≠ 2 || fld e 10 4 = 0) &&
    decide (fld e 20 32 % 2 ^ (bits - 16) = 0) &&
    (bits = 16 || (fld e 5 3 ≠ 2 && fld e 5 3 ≠ 3 && fld e 5 3 ≠ 6))

/-- An entry's test; a failure is a miss of stage `n` (R30, R34). -/
def entryIs (n : Nat) (b : Bool) : Except Nat Unit := if b then .ok () else .error n

/-- A walk of stage `n` (R27): the leaf and the log of its page size. `rd` reads a table entry. An error is the stage that misses:
V = 0, a malformed entry, or a table that does not lie in NEAR memory. -/
def walk (n : Nat) (rd : Nat → Except Nat Word) (root : Word) (va : Nat) : Except Nat (Word × Nat) := do
  let e1 ← rd (fld root 15 37 * 32768 + 8 * ((va >>> 40) % 4096))
  entryIs n (pointerOk e1 8192)
  if fld e1 4 2 = 1 then
    let l ← rd (pointerTable e1 + 8 * ((va >>> 30) % 1024))
    entryIs n (leafOk l 30)
    pure (l, 30)
  else
    let e2 ← rd (pointerTable e1 + 8 * ((va >>> 28) % 4096))
    entryIs n (pointerOk e2 4096)
    if fld e2 4 2 = 1 then
      let l ← rd (pointerTable e2 + 8 * ((va >>> 21) % 128))
      entryIs n (leafOk l 21)
      pure (l, 21)
    else
      let l ← rd (pointerTable e2 + 8 * ((va >>> 16) % 4096))
      entryIs n (leafOk l 16)
      pure (l, 16)

/-- A table entry of stage `n` at a near physical address. One that lies in a poisoned line reads as its bytes stand, with no 0x08: R53 does
not speak of walks (DESIGN CHOICE, log entry 63). -/
def State.entryAt (s : State) (n : Nat) (a : Nat) : Except Nat Word := if isNear a then .ok (word (s.peek a 8)) else .error n

/-- The physical place of a leaf (R31): its first byte, and whether it is SELF. None is a malformed location. -/
def leafPlace (e : Word) (bits : Nat) : Option (Nat × Bool) :=
  let loc := fld e 20 32
  match fld e 5 3 with
  | 0 => if isNear (loc * 65536) ∧ isNear (loc * 65536 + 2 ^ bits - 1) then some (loc * 65536, false) else none
  | 1 => if loc + 2 ^ (bits - 16) ≤ 2 ^ 27 then some (farBase + loc * 65536, false) else none
  | 2 =>
    if fld e 24 17 ≠ 0 ∨ bit e 23 ∨ (bit e 41 ∧ fld e 42 10 ≠ 0) then none
    else some (lmBase + fld e 42 10 * 524288 + fld e 20 3 * 65536, bit e 41)
  | 3 =>
    if fld e 24 17 ≠ 0 ∨ (bit e 41 ∧ fld e 42 10 ≠ 0) then none
    else some (bsBase + fld e 42 10 * 1048576 + fld e 20 4 * 65536, bit e 41)
  | 4 =>
    if fld e 37 15 ≠ 0 ∨ 32768 < fld e 20 15 + 2 ^ (bits - 16) then none
    else some (wsBase + fld e 35 2 * 2 ^ 31 + fld e 20 15 * 65536, false)
  | 5 => some (hostBase + loc * 65536, false)
  | 6 => if loc < 5 then some (ioBase + loc * 65536, false) else none
  | _ => none

/-- Reads a stage-1 table entry: its address is intermediate, and stage 2 translates it. Stage 2 misses by itself (R34); a place
outside NEAR memory makes the stage-1 pointer malformed (R27, R30). -/
def State.entryAt2 (s : State) (s2 : Word) (ia : Nat) : Except Nat Word := do
  let (l, bits) ← walk 2 (s.entryAt 2) s2 ia
  match leafPlace l bits with
  | none => .error 2
  | some (b, _) => if fld l 5 3 = 0 then s.entryAt 1 (b + ia % 2 ^ bits) else .error 1

/-- The combined page of one stage. -/
def onePage (tenant : BitVec 8) (va : Nat) (l : Word) (bits : Nat) (b : Nat × Bool) : Page :=
  { tenant := tenant, vpage := va / 2 ^ bits, bits := bits, tgt := fld l 5 3, base := b.1, self := b.2, r := bit l 1,
    w := bit l 2, x := bit l 3, u := bit l 4, atom := fld l 14 2, line := fld l 8 2, parg := fld l 10 4,
    hashed := bit l 17, replica := bit l 16, shared := bit l 18 }

/-- The combined page of two stages (R32). The stage-1 location names the intermediate address of the page (log entry 8). -/
def twoPage (tenant : BitVec 8) (va : Nat) (l1 : Word) (b1 : Nat) (l2 : Word) (b2 : Nat) (p : Nat × Bool) : Page :=
  let bits := min b1 b2
  let ia := fld l1 20 32 * 65536 + va % 2 ^ b1
  { tenant := tenant, vpage := va / 2 ^ bits, bits := bits, tgt := fld l2 5 3,
    base := p.1 + ia % 2 ^ b2 - va % 2 ^ bits, self := p.2, r := bit l1 1 && bit l2 1, w := bit l1 2 && bit l2 2,
    x := bit l1 3 && bit l2 3, u := bit l1 4,
    atom := if fld l1 14 2 = 2 ∧ fld l2 14 2 ≠ 2 then 3 else fld l1 14 2, line := fld l1 8 2, parg := fld l1 10 4,
    hashed := bit l2 17, replica := bit l2 16, shared := bit l2 18 }

/-- Translates without a cache: a page, a miss of a stage, or 0x06 for target types that differ (R32, R34). -/
def State.walkPage (s : State) (w : Who) (acc : Access) (va : Word) : Except Stop Page :=
  let a := va.toNat
  let miss (n : Nat) : Except Stop Page := .error (.miss { va := va, access := acc, stage := n, tenant := w.tenant, roots := (w.s1, w.s2) })
  if w.mode = 3 then
    match walk 1 (s.entryAt 1) w.s1 a with
    | .error n => miss n
    | .ok (l, bits) => match leafPlace l bits with
      | none => miss 1
      | some p => .ok (onePage w.tenant a l bits p)
  else
    match walk 1 (s.entryAt2 w.s2) w.s1 a with
    | .error n => miss n
    | .ok (l1, b1) =>
      match walk 2 (s.entryAt 2) w.s2 (fld l1 20 32 * 65536 + a % 2 ^ b1) with
      | .error n => miss n
      | .ok (l2, b2) => match leafPlace l2 b2 with
        | none => miss 2
        | some p => if fld l1 5 3 ≠ fld l2 5 3 then .error (.trap 0x06 va) else .ok (twoPage w.tenant a l1 b1 l2 b2 p)

/-! ### Cached translations (R33) -/

/-- The structure that serves an access first. -/
inductive TlbUnit where
  | fetch | data | attn
  | copy (cluster : Nat)
  | die
  /-- The die TLB of a frame engine. -/
  | home (die : Nat)
  deriving DecidableEq, Repr

/-- Key and size of the first and the second structure of an access (R33). -/
def tlbPath (u : TlbUnit) (core : Nat) : List (Nat × Nat) :=
  let second := if coreKind core = .control then (30000 + dieOf core, Config.dieTlbSize)
    else (20000 + clusterOf core, Config.clusterTlbSize)
  match u with
  | .fetch => [(core * 2, Config.itlbSize), second]
  | .data => [(core * 2 + 1, Config.dtlbSize), second]
  | .attn => [(10000 + core / 4, Config.atTlbSize), second]
  | .copy c => [(15000 + c, Config.cpTlbSize), (30000 + c / 16, Config.dieTlbSize)]
  | .die => [(30000 + dieOf core, Config.dieTlbSize)]
  | .home d => [(30000 + d, Config.dieTlbSize)]

/-- Whether a cached page serves an access. -/
def Page.covers (p : Page) (tenant : BitVec 8) (va : Nat) : Bool := decide (p.tenant = tenant) && decide (va / 2 ^ p.bits = p.vpage)

/-- The cached page of an access, first structure first. -/
def State.cached (s : State) (path : List (Nat × Nat)) (tenant : BitVec 8) (va : Nat) : Option Page :=
  path.findSome? (fun k => (tabGet [] s.tlb k.1).find? (fun p => p.covers tenant va))

/-- Enters a page at the head of each structure of its path; the oldest entry leaves a full one (log entry 9). -/
def State.fill (s : State) (path : List (Nat × Nat)) (p : Page) : State :=
  path.foldl (fun s k =>
    let l := tabGet [] s.tlb k.1
    if p ∈ l then s else { s with tlb := tabPut [] s.tlb k.1 ((p :: l).take k.2) }) s

/-- Whether ATS cannot translate a host page of a tenant: the host's choice (log entry 4), until a page request is answered. -/
def State.atsFails (s : State) (t page : Nat) : Bool := !s.atsOk.contains (t, page) && Config.freeBit (t * 2 ^ 32 + page)

/-- Checks 2 and 3 of R25: the page of an access and its physical address, with the caches filled. The translation of a HOST page that no
structure holds is asked of the host (R384). -/
def State.translate (s : State) (w : Who) (u : TlbUnit) (acc : Access) (va : Word) : Except Stop (Page × Nat × State) := do
  if 2 ^ 52 ≤ va.toNat then throw (.trap 0x07 va)
  let path := tlbPath u w.core
  let p ← match s.cached path w.tenant va.toNat with
    | some p => pure p
    | none => s.walkPage w acc va
  let missed (n : Nat) : Stop := .miss { va := va, access := acc, stage := n, tenant := w.tenant, roots := (w.s1, w.s2) }
  if p.self ∧ 1024 ≤ w.core then throw (missed (if w.mode = 3 then 1 else 2))
  if p.tgt = 5 ∧ s.atsFails w.tenant.toNat ((p.base - hostBase) / 65536) then throw (missed 3)
  let off := if p.self then w.core * (if p.tgt = 2 then 524288 else 1048576) else 0
  let s := if p.tgt = 5 ∧ s.cached path w.tenant va.toNat = none then s.emit .host (.ats w.tenant.toNat va) else s
  pure (p, p.base + off + va.toNat % 2 ^ p.bits, s.fill path p)

/-! ### Tile-cache homes (R39, R40) -/

/-- h(n) of R39, from physical address bits [47:7]. -/
def tileH (n : Nat) : Nat := (n ^^^ (n >>> 8) ^^^ (n >>> 16) ^^^ (n >>> 24) ^^^ (n >>> 32)) % 16
/-- k(n) of R39. -/
def tileK (n : Nat) : Nat := ((n >>> 4) ^^^ (n >>> 12) ^^^ (n >>> 20) ^^^ (n >>> 28) ^^^ (n >>> 36)) % 16

/-- Home cluster within the home die and home bank of a line (R39); `touch` is the cluster of the first touch. The spec gives a far line no
physical address but its far page number: this model hashes its address in the one numbering, 2^44 + 65,536 times that number on, so
that bit 44 enters k(n) (DESIGN CHOICE, log entry 5). -/
def tileHome (line parg phys touch : Nat) : Nat × Nat :=
  let n := (phys >>> 7) % 2 ^ 41
  let f := (phys >>> 16) % 16
  match line with
  | 0 => (f / 2 ^ parg * 2 ^ parg + tileK n % 2 ^ parg, tileH n)
  | 1 => (f, parg)
  | _ => (touch, tileH n)

/-- Set index and replaced bits of a line (R40): the upper k bits of the set index give way to the colour. -/
def tileSet (k colour : Nat) (shared : Bool) (phys : Nat) : Nat × Nat :=
  let i := (phys >>> 7) % 256
  if shared then (i, 0) else (colour % 2 ^ k * 2 ^ (8 - k) + i % 2 ^ (8 - k), i / 2 ^ (8 - k))

/-- The die whose enabled tier port serves a far page (R31, R387); ports 2d and 2d + 1 lie on die d (R9; log entry 11). -/
def State.farDie (s : State) (page : Nat) : Nat :=
  match s.config with
  | none => 0
  | some c => match c.portRanges.find? (fun r => c.ports.getLsbD r.1 && decide (r.2.1 ≤ page) && decide (page ≤ r.2.2)) with
    | some r => r.1 / 2
    | none => 0

/-- The package cluster whose tile cache is the home of an access (R38, R39). -/
def State.homeCluster (s : State) (p : Page) (phys core : Nat) : Nat :=
  let die := if p.tgt = 0 then phys / 2 ^ 37 else s.farDie ((phys - farBase) / 65536)
  let t := tabGet 0 s.touch p.base
  die * 16 + (tileHome p.line p.parg phys (if t = 0 then clusterOf core % 16 else t - 1)).1

/-! ### The checks of an access (R25) -/

/-- What an access asks for. -/
structure Req where
  acc : Access
  /-- Bytes; the access is aligned to `align`. -/
  width : Nat
  align : Nat
  /-- An operation that needs presence at its target (R44). -/
  pres : Bool
  /-- U is needed: an access of mode U at an address that a program supplies (R398). -/
  user : Bool
  /-- A copy engine's access: W governs WSTORE pages (R45). -/
  copies : Bool
  /-- 0 no atomic, 1 an atomic, 2 an atomic that exists as a PCIe AtomicOp (R54). -/
  atomic : Nat
  /-- The access belongs to a rewrite of whole lines (1) or whole 64 KiB pages (2), which ends poison (R52, R53). -/
  whole : Nat
  deriving DecidableEq, Repr

/-- A plain access of `width` bytes. -/
def Req.plain (acc : Access) (width : Nat) (user : Bool) : Req :=
  { acc := acc, width := width, align := width, pres := false, user := user, copies := false, atomic := 0, whole := 0 }

/-- Check 4 of R25. -/
def permits (p : Page) (r : Req) : Bool :=
  (!r.user || p.u) &&
  (match r.acc with
    | .read => p.r
    | .write => p.w && (p.tgt ≠ 4 || r.copies)
    | .readWrite => p.r && p.w && (p.tgt ≠ 4 || r.copies)
    | .exec => p.x)

/-- Check 6 of R25 (R41). -/
def atomicOk (p : Page) (r : Req) : Bool :=
  r.atomic = 0 ||
  (match p.tgt with
    | 0 => decide (p.atom ≤ 1)
    | 1 => p.atom = 0
    | 2 => decide (p.atom ≤ 2)
    | 5 => p.atom = 2 && r.atomic = 2
    | _ => false)

/-- Check 7 of R25: the fault of the page or line that `phys` lies in, or 0 (R47, R51–R53). What rewrites the line or the
page is not stopped; an invalid page stops its readers only. -/
def State.badState (s : State) (w : Who) (r : Req) (phys : Nat) : Nat :=
  if (phys / 128 * 128) ∈ s.poison ∧ r.whole = 0 then 0x08
  else if isFar phys ∧ (phys / 65536 * 65536 + 1) ∈ s.poison ∧ r.whole ≠ 2 then 0x08
  else if (phys / 65536 * 65536) ∈ s.quarantine ∧ !(r.whole = 2 && w.mode = 3) then 0x09
  else if s.badHash.any (fun e => e.1 = phys / 65536 * 65536) ∧ r.acc ≠ .write then 0x0A
  else 0

/-- A line, or with it its page, has been rewritten (R51–R53): the poison ends, and with a whole page the tags are new; the quarantine
of a page ends when the hypervisor rewrites it. -/
def State.rewritten (s : State) (w : Who) (whole phys : Nat) : State :=
  if whole = 0 then s
  else
    let s := { s with poison := s.poison.filter (fun a => decide (a ≠ phys / 128 * 128) && !(whole = 2 && a = phys / 65536 * 65536 + 1)) }
    let s := if whole = 2 then { s with badTags := s.badTags.filter (fun a => decide (a / 65536 ≠ phys / 65536)) } else s
    if whole = 2 ∧ w.mode = 3 then { s with quarantine := s.quarantine.filter (· ≠ phys / 65536 * 65536) } else s

/-- Whether a weight-store bank is in its refresh window (R46). -/
def State.inRefresh (s : State) (bank : Nat) : Bool :=
  decide ((s.time.toNat + 64000 * 3 - s.wsphase.toNat - 1000 * bank % 64000) % 64000 < 1200)

/-- What holds an access that passes its checks: a tile cache that is being dropped (R254), a refresh window (R46). -/
def State.heldBy (s : State) (p : Page) (r : Req) (phys core : Nat) : Option Wait :=
  if (p.tgt = 0 ∨ p.tgt = 1) ∧ s.dropping ≠ [] ∧ s.homeCluster p phys core ∈ s.dropping then
    some (.drop (s.homeCluster p phys core))
  else if p.tgt = 4 ∧ r.acc ≠ .write ∧ s.inRefresh ((phys - wsBase) % 2 ^ 31 / 65536 % 64) then
    some (.refresh ((phys - wsBase) / 2 ^ 31) ((phys - wsBase) % 2 ^ 31 / 65536 % 64))
  else none

/-- The checks of R25 for one access, in order: its page and physical address, with the caches filled. -/
def State.checked (s : State) (w : Who) (u : TlbUnit) (r : Req) (va : Word) : Except Stop (Page × Nat × State) := do
  if va.toNat % r.align ≠ 0 then throw (.trap 0x05 va)
  let (p, phys, s) ← s.translate w u r.acc va
  if permits p r = false then throw (.trap 0x06 va)
  if r.pres ∧ p.tgt ≠ 0 ∧ p.tgt ≠ 2 then throw (.trap 0x18 va)
  if p.tgt = 6 ∧ r.width ≠ 8 then throw (.trap 0x05 va)
  if atomicOk p r = false then throw (.trap 0x23 va)
  let bad := s.badState w r phys
  if bad ≠ 0 then throw (.trap bad va)
  pure (p, phys, s)

/-- An access to a tile cache counts as a hit or as a miss (R258): no line is kept here, so which of them is a free value (log entry 49). -/
def State.tileCount (s : State) (acct : Nat) : State :=
  if s.counts acct 3 ∨ s.counts acct 4 then let r := s.draw; r.2.countEv acct (if bit r.1 0 then 3 else 4) 1 else s

/-- The home cluster of an access may hold its line from now on. -/
def State.filledBy (s : State) (p : Page) (phys core : Nat) : State :=
  if s.homeCluster p phys core ∈ s.filled then s else { s with filled := s.homeCluster p phys core :: s.filled }

/-- A line of a cluster whose k or colour has changed is written: a dirty copy that the cluster still holds may go over it later (R40). -/
def State.rewrites (s : State) (p : Page) (phys core : Nat) : State :=
  if s.recoloured = [] ∨ p.shared then s
  else { s with recoloured := s.recoloured.map (fun e =>
    if e.1 = s.homeCluster p phys core ∧ phys / 128 ∉ e.2 then (e.1, phys / 128 :: e.2) else e) }

/-- An access of NEAR or FAR reaches its tile cache: the first one to a TOUCH page sets its home (R39). -/
def State.touched (s : State) (w : Who) (p : Page) (acc : Access) (phys : Nat) : State :=
  if p.tgt ≤ 1 then
    let s := (s.filledBy p phys w.core).tileCount w.acct.toNat
    let s := if acc = .write ∨ acc = .readWrite then s.rewrites p phys w.core else s
    if p.line = 2 ∧ tabGet 0 s.touch p.base = 0 then { s with touch := tabPut 0 s.touch p.base (clusterOf w.core % 16 + 1) } else s
  else s

/-- An access of an engine: the checks of R25, the tag of a far sector that is read (R51), and what holds it. -/
def State.access (s : State) (w : Who) (u : TlbUnit) (r : Req) (va : Word) : Except Stop (Page × Nat × State) := do
  let (p, phys, s) ← s.checked w u r va
  if r.acc ≠ .write ∧ (phys / 4096 * 4096) ∈ s.badTags then throw (.trap 0x09 va)
  match s.heldBy p r phys w.core with
  | some k => throw (.park k)
  | none => pure (p, phys, s.touched w p r.acc phys)

/-- A far sector whose tag fails: its page is quarantined, and the hypervisor receives one report (R51). -/
def State.quarantined (s : State) (phys : Nat) : State :=
  if (phys / 65536 * 65536) ∈ s.quarantine then s
  else ({ s with quarantine := (phys / 65536 * 65536) :: s.quarantine } : State).emit (.tier (s.farDie ((phys - farBase) / 65536))) (.report 0x09 phys 0)

/-- An engine access that ends in 0x09 on a tag quarantines the page (R51). -/
def State.tagFails (s : State) (w : Who) (u : TlbUnit) (code : Nat) (va : Word) : State :=
  if code ≠ 0x09 then s
  else match s.translate w u .read va with
    | .ok (_, phys, _) => if isFar phys then s.quarantined phys else s
    | .error _ => s

/-- The outcome of a meaning. Every early end leaves the state before the instruction and changes only what parking, sleeping or the fault
itself changes: nothing of the instruction has taken effect (R5, R135; log entry 6). A tag that fails quarantines its page (R51). -/
def run (s : State) (body : Except Stop State) : Host.Outcome State Fault Refusal :=
  match body with
  | .ok t => .next t
  | .error (.trap c e) => .next ((s.tagFails s.who .data c e).raise c e)
  | .error (.park w) => .next (s.parkMe w)
  | .error (.hold w l) => .next (s.holdMe w l)
  | .error (.read w l) => .next (s.readMe w l)
  | .error (.miss m) => .next (s.sleepMe m)
  | .error (.stuck f) => .fault f

/-- A meaning that only changes the executing slot. -/
def runSlot (s : State) (body : Except Stop Slot) : Host.Outcome State Fault Refusal :=
  run s (body.map s.setMe)

/-! ### Device windows (R386, R368) -/

/-- A word of a link window. -/
def linkWord (k : Link) (o : Nat) : Word :=
  if o = 0 then
    word (k.state % 4 + k.peer.major % 256 * 2 ^ 8 + k.peer.minor % 256 * 2 ^ 16 + k.peer.package % 256 * 2 ^ 24 +
      k.peer.die % 4 * 2 ^ 32 + k.peer.link % 4 * 2 ^ 34)
  else if o = 8 then k.coden.setWidth 64
  else if o = 0x10 then word k.replays
  else if 0x20 ≤ o ∧ o < 0xA0 then word (tabGet 0 k.counts ((o - 0x20) / 8))
  else 0

/-- Reads a device window. The layout of the interface-versions word is not stated, so it reads a free value, the same at every read (log
entry 3). -/
def State.ioRead (s : State) (phys : Nat) : Word :=
  let win := (phys - ioBase) / 65536
  let off := (phys - ioBase) % 65536
  if win < 4 then (if off < 1024 then linkWord (tabGet .down s.links (win * 4 + off / 256)) (off % 256) else 0)
  else if off = 0 then word s.packageIndex
  else if off = 8 then Config.versionsWord
  else if off = 0x10 then word s.boot
  else 0

/-- A store to a device window: CODEN for the hypervisor (R368); any other is discarded (R386). -/
def State.ioWrite (s : State) (w : Who) (phys : Nat) (v : Word) : State :=
  let win := (phys - ioBase) / 65536
  let off := (phys - ioBase) % 65536
  if win < 4 ∧ off < 1024 ∧ off % 256 = 8 ∧ w.mode = 3 then
    let k := tabGet .down s.links (win * 4 + off / 256)
    { s with links := tabPut .down s.links (win * 4 + off / 256) (k.setCoden (v.setWidth 3)) }
  else s

/-! ### Accesses of a thread -/

/-- The request of a plain access of the executing thread. -/
def State.req (s : State) (acc : Access) (width : Nat) : Req := .plain acc width (decide (s.me.mode = 0))

/-- An access of the executing thread as it is issued: the checks of R25; one that the parked instruction has issued before keeps
the translation of its issue (R33). -/
def State.reach (s : State) (r : Req) (va : Word) : Except Stop (Acc × State) :=
  match s.me.kept.find? (fun a => decide (a.va = va)) with
  | some a => pure (a, s)
  | none => do
    let (p, phys, s) ← s.checked s.who .data r va
    pure ({ va := va, page := p, phys := phys, reply := .none }, s.touched s.who p r.acc phys)

/-- A FAR access waits for its reply; a failed tag gives 0x09 (R49, R51). `l` are all accesses that its instruction has issued. -/
def Acc.farGate (a : Acc) (l : List Acc) : Except Stop Unit :=
  if a.page.tgt = 1 then
    match a.reply with
    | .far true => pure ()
    | .far false => throw (.trap 0x09 a.va)
    | _ => throw (.hold (.far a.va a.phys) l)
  else pure ()

/-- A HOST read of `n` bytes waits for its completion (R187). -/
def State.hostGate (s : State) (n : Nat) (a : Acc) (l : List Acc) : Except Stop Unit :=
  if a.page.tgt = 5 then
    match a.reply with
    | .host .success => pure ()
    | .host _ => throw (.trap 0x21 a.va)
    | .timeout => throw (.trap 0x22 a.va)
    | _ => throw (.hold (.host a.va (a.phys - hostBase) (.read n) s.time.toNat) l)
  else pure ()

/-- What an issued access of the executing thread waits for: a tile cache that is being dropped, a refresh window, a FAR reply, and,
of a HOST read, its completion. -/
def State.landed (s : State) (r : Req) (a : Acc) (l : List Acc) : Except Stop Unit := do
  match s.heldBy a.page r a.phys s.curCore with
  | some k => throw (.hold k l)
  | none => pure ()
  a.farGate l
  if r.acc = .read then s.hostGate r.width a l

/-- One access of the executing thread, up to the point at which it is performed; earlier ones of its instruction stay issued. -/
def State.reached (s : State) (r : Req) (va : Word) : Except Stop (Page × Nat × State) := do
  let (a, s) ← s.reach r va
  s.landed r a (a :: s.me.kept.filter (fun b => decide (b.va ≠ va)))
  pure (a.page, a.phys, s)

/-- Whether an access may miss a dirty line that the tile cache still holds under an older set index (R40). -/
def State.staleLine (s : State) (p : Page) (phys : Nat) : Bool :=
  decide (s.recoloured ≠ []) && decide (p.tgt ≤ 1) && !p.shared && s.recoloured.any (fun e => decide (e.1 = s.homeCluster p phys 0))

/-- The bytes an access finds: of HOST memory, of an unstated window word, and where memory may be older than a line still held (R40), a
free value (log entries 3, 49). -/
def State.fetchBytes (s : State) (p : Page) (phys n : Nat) : Nat × State :=
  if p.tgt = 5 ∨ s.staleLine p phys then let r := s.draw; (r.1.toNat % 2 ^ (8 * n), r.2)
  else if p.tgt = 6 then ((s.ioRead phys).toNat % 2 ^ (8 * n), s)
  else (s.peek phys n, s)

/-- mem_read of a thread (R5, R180). -/
def State.threadRead (s : State) (va : Word) (n : Nat) : Except Stop (Nat × State) := do
  let (p, phys, s) ← s.reached (s.req .read n) va
  pure (s.fetchBytes p phys n)

/-- Performs a store at its target, with presence unchanged: a HOST store is a posted write (R187), and a far sector is written once
(R50). -/
def State.putBytes (s : State) (w : Who) (p : Page) (phys : Nat) (n v : Nat) : State :=
  if p.tgt = 5 then s.pcieRequest w.tenant.toNat w.acct none (.hostStore w.tenant.toNat (phys - hostBase) n (word v))
  else if p.tgt = 6 then s.ioWrite w phys (word v)
  else (s.poke phys n v).versioned w.tenant phys

/-- mem_write of a thread (R5, R181). -/
def State.threadWrite (s : State) (va : Word) (n v : Nat) : Except Stop State := do
  let (p, phys, s) ← s.reached (s.req .write n) va
  let s := s.putBytes s.who p phys n v
  pure (if p.tgt = 5 then s.setMe { s.me with hostStores := true } else s)

/-! ### Presence waits (R65, R183) -/

/-- Whether a word's presence suits a waiter. -/
def untilOk (u : Until) (p : Presence) : Bool :=
  match u with
  | .notEmpty => decide (p ≠ .empty)
  | .notFull => decide (p ≠ .full)

/-- Whether a waiter on the word at `phys` could be served now. -/
def State.servable (s : State) (phys : Nat) : Wait → Bool
  | .word a u => decide (a / 8 = phys / 8) && untilOk u (s.presAt a)
  | .words l => l.any (fun a => decide (a / 8 = phys / 8)) && l.all (fun a => decide (s.presAt a ≠ .empty))
  | .input a => decide (a / 8 = phys / 8) && decide (s.presAt a ≠ .empty)
  | .ready a _ _ _ => decide (a / 8 = phys / 8) && decide (s.presAt a ≠ .empty)
  | _ => false

/-- Whether a thread or an engine command whose request reached this word before the `seq`-th waiter waits on it and can be served
now: then this one waits its turn (R65). A thread that is pre-empted waits no longer (R179). -/
def State.queuedBefore (s : State) (seq phys : Nat) : Bool :=
  s.slots.any (fun e => decide (e.2.state = .parked) && !e.2.preempted && decide (e.2.seq < seq) && s.servable phys e.2.wait) ||
  s.cmds.any (fun e => e.2.any (fun c => match c.place with
    | some (a, n) => decide (a / 8 = phys / 8) && decide (n < seq) && decide (s.presAt a ≠ .empty)
    | none => false)) ||
  s.mx.any (fun e => match e.2.running with
    | some t => t.places.any (fun x => decide (x.1 % 2 ^ 60 / 8 = phys / 8) && decide (x.2 < seq) && decide (s.presAt (x.1 % 2 ^ 60) ≠ .empty))
    | none => false)

/-- The executing thread's place among the waiters on a word. -/
def State.myPlace (s : State) : Nat := s.placeFor .none

/-- Waits for a presence state of a word, in the order of arrival. -/
def State.waitWord (s : State) (phys : Nat) (u : Until) : Except Stop Unit :=
  if untilOk u (s.presAt phys) = false ∨ s.queuedBefore s.myPlace phys then throw (.park (.word phys u)) else pure ()

/-! ### Engine contexts of a thread (R16, R18) -/

/-- The home die of an issuer's context (R16): the die of the near page to which FTB translates. The spec names none where FTB
translates to no near page; there it is the thread's own die (DESIGN CHOICE, log entry 14). -/
def State.homeDie (s : State) (w : Who) : Nat :=
  match s.translate w .die .read w.ftb with
  | .ok (p, phys, _) => if p.tgt = 0 then phys / 2 ^ 37 else dieOf w.core
  | .error _ => dieOf w.core

/-- The context of the executing slot; CPSEL is read as the instruction issues (R18), and a frame command goes to the home die (R16). -/
def State.myCtx (s : State) (k : EngKind) : Nat × Nat :=
  let c := engCtx k s.curCore s.curSlot (fld (s.me.csrv 0x013) 0 4)
  if k = .fr then (s.homeDie s.who, c.2) else c

/-! ### Accesses of an engine command (R398) -/

/-- A request of an engine at an address that a program supplies. -/
def Who.req (w : Who) (acc : Access) (width : Nat) : Req := .plain acc width (decide (w.mode = 0))

/-- Key of an issuer of engine commands. -/
def Who.key (w : Who) : Nat := w.core * 16 + w.slot

/-- What holds an engine's access is a refresh window: its cycles are stall cycles of the read (R46, R258). -/
def State.stalls (s : State) (w : Who) (e : Stop) : State :=
  match e with
  | .park (.refresh _ _) => if w.key ∈ s.stalled then s else { s with stalled := w.key :: s.stalled }
  | _ => s

/-- What an engine's read emits and is counted as to the issuer's tenant (R54, R258): a PCIe request, and a number of stall cycles at the far
tier, or at the weight store where a refresh window has stalled it, that no rule gives (R397). -/
def State.engCount (s : State) (w : Who) (p : Page) (phys n : Nat) : State :=
  match p.tgt with
  | 1 => s.countTimed w.acct.toNat 5
  | 4 =>
    if w.key ∈ s.stalled then ({ s with stalled := s.stalled.filter (· ≠ w.key) } : State).countTimed w.acct.toNat 13 else s
  | 5 => s.pcieRequest w.tenant.toNat w.acct none (.hostRequest w.tenant.toNat (phys - hostBase) (.read n))
  | _ => s

/-- The bytes that an engine's read finds. -/
def State.engFetch (s : State) (w : Who) (p : Page) (phys n : Nat) : Nat × State := (s.engCount w p phys n).fetchBytes p phys n

/-- Reads `n` bytes for an engine. -/
def State.engRead (s : State) (w : Who) (u : TlbUnit) (va : Word) (n : Nat) : Except Stop (Nat × State) := do
  let (p, phys, s) ← s.access w u (w.req .read n) va
  pure (s.engFetch w p phys n)

/-- Reads `n` bytes at `va` as 8-byte words, each checked: little-endian, `n` a multiple of 8. -/
def State.engReadWords (s : State) (w : Who) (u : TlbUnit) (va : Word) : Nat → Except Stop (List Word × State)
  | 0 => pure ([], s)
  | n + 1 => do
    let (x, s) ← s.engRead w u va 8
    let (l, s) ← s.engReadWords w u (va + 8) n
    pure (word x :: l, s)

/-- The `n` words at a physical address. -/
def State.fetchWords (s : State) (w : Who) (p : Page) (phys : Nat) : Nat → List Word × State
  | 0 => ([], s)
  | n + 1 =>
    let r := s.engFetch w p phys 8
    let t := r.2.fetchWords w p (phys + 8) n
    (word r.1 :: t.1, t.2)

/-- Reads `n` words at `va` in one access of their size, which is its alignment. -/
def State.engBlock (s : State) (w : Who) (u : TlbUnit) (va : Word) (n : Nat) : Except Stop (List Word × State) := do
  let (p, phys, s) ← s.access w u (w.req .read (8 * n)) va
  pure (s.fetchWords w p phys n)

/-- Reads `n` bytes with no U needed: a context structure (R398). -/
def State.ctxRead (s : State) (w : Who) (u : TlbUnit) (va : Word) (n : Nat) : Except Stop (Nat × State) := do
  let (p, phys, s) ← s.access w u { Req.plain .read n false with align := n } va
  pure (s.engFetch w p phys n)

/-- Writes `n` bytes with no U needed: a context structure (R398). -/
def State.ctxWrite (s : State) (w : Who) (u : TlbUnit) (va : Word) (n v : Nat) : Except Stop State := do
  let (p, phys, s) ← s.access w u (Req.plain .write n false) va
  pure (s.putBytes w p phys n v)

/-- Writes one word of an engine with its data and FULL, or VOID, as one release (R67). A target without presence is 0x18 where the
write `need`s presence (R44); where it does not, the data alone are written (R331, R339, R358). -/
def State.engWord (s : State) (w : Who) (u : TlbUnit) (need : Bool) (va v : Word) (p : Presence) : Except Stop State := do
  let (pg, phys, s) ← s.access w u { w.req .write 8 with pres := need } va
  pure (if hasPres phys then s.pokeWord phys v p else s.putBytes w pg phys 8 v.toNat)

/-- An engine sets a word VOID and leaves its data (R339, R396); where there is no presence nothing changes, or it is 0x18. -/
def State.engVoid (s : State) (w : Who) (u : TlbUnit) (need : Bool) (va : Word) : Except Stop State := do
  let (_, phys, s) ← s.access w u { w.req .write 8 with pres := need } va
  pure (s.setPres phys .void)

/-- VOID into words that an ending command has not written (R396): a declined page, and one that fails its checks, is left. -/
def State.voidWords (s : State) (w : Who) (u : TlbUnit) (declined : List Nat) (va : Word) : Nat → Except Stop State
  | 0 => pure s
  | n + 1 =>
    if va.toNat / 65536 ∈ declined then s.voidWords w u declined (va + 8) n
    else match s.engVoid w u false va with
      | .ok s => s.voidWords w u declined (va + 8) n
      | .error (.trap _ _) => s.voidWords w u declined (va + 8) n
      | .error e => throw e

/-- What an engine finds in a word that it reads as `lds.pkg` reads it (R182): the word's place in memory while it must wait, as it is
EMPTY or others reached it before (R65). `place` is the place that the command has among the waiters. -/
def State.engSync (s : State) (w : Who) (u : TlbUnit) (place : Option (Nat × Nat)) (va : Word) :
    Except Stop (Except Nat (Word × Presence) × State) := do
  let (pg, phys, t) ← s.access w u (w.req .read 8) va
  if hasPres phys then
    let n := match place with
      | some (a, n) => if a / 8 = phys / 8 then n else s.seq
      | none => s.seq
    if s.presAt phys = .empty ∨ s.queuedBefore n phys then pure (.error phys, s)
    else if s.presAt phys = .void then pure (.ok (0, .void), t)
    else let r := t.engFetch w pg phys 8; pure (.ok (word r.1, .full), r.2)
  else let r := t.engFetch w pg phys 8; pure (.ok (word r.1, .full), r.2)

/-! ### Completion words (R22, R23) -/

/-- A completion word from its fields. -/
def cwMake (phase : Bool) (bytes arrivals expected : Nat) : Word :=
  word ((if phase then 2 ^ 56 else 0) + bytes % 2 ^ 24 * 2 ^ 32 + arrivals % 65536 * 65536 + expected % 65536)

/-- The check after each update (R23). -/
def cwCheck (w : Word) : Word :=
  if fld w 16 16 = 0 ∧ fld w 32 24 = 0 then cwMake (!bit w 56) 0 (fld w 0 16) (fld w 0 16) else w

/-- One arrive and the check; none where pending arrivals are 0 already. -/
def cwArrive (w : Word) : Option Word :=
  if fld w 16 16 = 0 then none else some (cwCheck (cwMake (bit w 56) (fld w 32 24) (fld w 16 16 - 1) (fld w 0 16)))

/-- Adds expected bytes and checks; none past 2^24 − 1. -/
def cwExpect (w : Word) (n : Nat) : Option Word :=
  if 2 ^ 24 ≤ fld w 32 24 + n then none else some (cwCheck (cwMake (bit w 56) (fld w 32 24 + n) (fld w 16 16) (fld w 0 16)))

/-- An engine's byte decrement, clamped at 0 with overrun, and the check. -/
def cwBytes (w : Word) (n : Nat) : Word × Bool :=
  (cwCheck (cwMake (bit w 56) (fld w 32 24 - n) (fld w 16 16) (fld w 0 16)), decide (fld w 32 24 < n))

/-- Marks the waits that `f` names as over, whatever the phase is by now (R23, R190); `all` includes pre-empted threads. -/
def State.flipped (s : State) (all : Bool) (f : Wait → Bool) : State := s.endsWaits .flipped all f

/-- A completion word is updated; a flip of its phase ends every wait for it (R23). -/
def State.cwPut (s : State) (phys : Nat) (old new : Word) : State :=
  let t := s.pokeWord phys new .full
  if bit old 56 = bit new 56 then t
  else t.flipped false (fun w => match w with
    | .phase a b => decide (a = phys) && decide (b ≠ bit new 56)
    | _ => false)

/-- Finds a completion word for an engine (R399): its physical address and value. A miss holds the command; any other
failure is 0x62. -/
def State.cwFind (s : State) (w : Who) (u : TlbUnit) (va : Word) : Except Stop (Nat × Word × State) := do
  let (p, phys, s) ← match s.access w u (w.req .readWrite 8) va with
    | .error (.trap _ _) => throw (.trap 0x62 va)
    | r => r
  if p.tgt ≠ 0 ∧ p.tgt ≠ 2 then throw (.trap 0x62 va)
  let v := word (s.peek phys 8)
  if s.presAt phys ≠ .full ∨ fld v 57 7 ≠ 0 then throw (.trap 0x62 va)
  pure (phys, v, s)

/-- An engine's byte decrement of a completion word; address 0 names none. The Bool tells of an overrun. -/
def State.cwTake (s : State) (w : Who) (u : TlbUnit) (va : Word) (n : Nat) : Except Stop (Bool × State) :=
  if va = 0 then pure (false, s) else do
    let (phys, v, s) ← s.cwFind w u va
    let r := cwBytes v n
    pure (r.2, s.cwPut phys v r.1)

/-- An engine's arrive on a completion word; the Bool tells of pending arrivals already 0, which leaves the word. -/
def State.cwEngineArrive (s : State) (w : Who) (u : TlbUnit) (va : Word) : Except Stop (Bool × State) :=
  if va = 0 then pure (false, s) else do
    let (phys, v, s) ← s.cwFind w u va
    match cwArrive v with
    | none => pure (true, s)
    | some x => pure (false, s.cwPut phys v x)

/-! ### Place tables (R253) -/

/-- Key of a core's cached place table. -/
def placeKey (core : Nat) (place : Word) : Nat := core * 2 ^ 64 + place.toNat

/-- The place table that PLACE names, as memory holds it. -/
def State.placeTable (s : State) (place : Word) : List (BitVec 16) :=
  (List.range (fld place 53 11)).map (fun i =>
    let a := fld place 4 48 * 16 + 2 * i
    if isNear a then BitVec.ofNat 16 (s.peek a 2) else 0)

/-- A core takes up the place table that PLACE names: from then on a change in memory has no effect (R253). -/
def State.loadPlace (s : State) (core : Nat) (place : Word) : State :=
  { s with placeCache := tabPut none s.placeCache (placeKey core place) (some (s.placeTable place)) }

/-- The package index of logical core id `id` in the core's place table, which it takes up at the latest now; none is 0x1A. -/
def State.placeOf (s : State) (core : Nat) (place rbase rlen : Word) (id : Word) : Option Nat × State :=
  let s := if (tabGet none s.placeCache (placeKey core place)).isSome then s else s.loadPlace core place
  match ((tabGet none s.placeCache (placeKey core place)).getD [])[id.toNat]? with
  | none => (none, s)
  | some e =>
    let i := e.toNat % 1024
    if e.getLsbD 15 = false ∨ e.toNat / 1024 % 32 ≠ 0 ∨ i < rbase.toNat ∨ rbase.toNat + rlen.toNat ≤ i then (none, s)
    else (some i, s)

end Sys2Proof.Machine
end

