-- ==== Sys2Proof/Machine/Engines.lean ====
section
/-! DEFINITION. What every engine shares: its registers (R19), acceptance and completion of commands (R20, R21), and how a
command meets the pager (R35, R399). -/

namespace Sys2Proof.Machine

/-- R19, write form: `XX.erw gA, n`. A register read-only to the mode raises 0x03, and STAT raises 0x02 in modes S and H. -/
def engErw (k : EngKind) (a : BitVec 5) (n : BitVec 6) (s : State) : Host.Outcome State Fault Refusal :=
  run s do
    if n.toNat = engStat k then throw (.trap (if s.me.mode = 0 then 0x03 else 0x02) (word n.toNat))
    if k = .ln ∧ n = 0 ∧ s.me.mode = 0 then throw (.trap 0x03 0)
    let sl ← s.me.gate [.g a]
    let c := s.myCtx k
    pure ((s.setEr k c.1 c.2 n.toNat (sl.gv a) .full).setMe sl.advance)

/-- R19, read form: `XX.err gB, n` waits while the register is EMPTY; a VOID register reads 0 and sets V. -/
def engErr (k : EngKind) (b : BitVec 5) (n : BitVec 6) (s : State) : Host.Outcome State Fault Refusal :=
  run s (
    let c := s.myCtx k
    match s.erp k c.1 c.2 n.toNat with
    | (_, .empty) => .error (.park (.engReg (erKey k c.1 c.2 n.toNat)))
    | (_, .void) => .ok (s.setMe (s.me.setV.wrG b 0).advance)
    | (v, .full) => .ok (s.setMe (s.me.wrG b v).advance))

/-- A command as it is accepted. -/
def Cmd.start (op : Nat) (who : Who) (a b : Word) (regs : List Word) (id time : Nat) : Cmd :=
  { op := op, who := who, a := a, b := b, vec := 0, regs := regs, id := id, awaits := 0, pos := 0, ending := none,
    ovr := false, cwe := false, finished := false, miss := none, heads := [], fab := none, time := time, place := none, declined := [], got := [], owed := 0 }

/-- Accepts a command at the end of its context's stream; STAT becomes EMPTY (R20, R21). -/
def State.accept (s : State) (k : EngKind) (c : Nat × Nat) (cmd : Cmd) : State :=
  (s.setCmds k c.1 c.2 (s.cmdsOf k c.1 c.2 ++ [cmd])).statEmpty k c.1 c.2

/-- Replaces the first command of a list that has not finished. -/
def updFirst (f : Cmd → Cmd) : List Cmd → List Cmd
  | [] => []
  | c :: t => if c.finished then c :: updFirst f t else f c :: t

/-- The command of a context that is being performed: the first that has not finished. -/
def State.active (s : State) (k : EngKind) (inst ctx : Nat) : Option Cmd :=
  (s.cmdsOf k inst ctx).find? (fun c => !c.finished)

/-- How many commands of a context have not completed: those that take up its queue (R20). -/
def State.pending (s : State) (k : EngKind) (inst ctx : Nat) : Nat := ((s.cmdsOf k inst ctx).filter (fun c => !c.finished)).length

/-- Replaces the command being performed. -/
def State.setActive (s : State) (k : EngKind) (inst ctx : Nat) (c : Cmd) : State :=
  s.setCmds k inst ctx (updFirst (fun _ => c) (s.cmdsOf k inst ctx))

/-- An engine access that misses holds its command and goes to the pager (R35). -/
def State.engMiss (s : State) (k : EngKind) (inst ctx : Nat) (c : Cmd) (m : Miss) : State :=
  (s.setActive k inst ctx { c with miss := some m }).sendMiss c.who.core none c.who.acct.toNat m

/-- Ends a command early with an outcome or status, a code and a culprit, unless it is ending already: what ended it first stays, also where
its completion word fails afterwards, and R399 with R341 leaves open which of the two STAT shows (DESIGN CHOICE, log entry 63). -/
def Cmd.end (c : Cmd) (outcome code culprit : Nat) : Cmd :=
  if c.ending.isSome then c else { c with ending := some (outcome, code, culprit), miss := none, place := none }

/-- A declined page that an ending command meets is left unchanged (R396). -/
def Cmd.decline (c : Cmd) (m : Miss) : Cmd := { c with miss := none, declined := m.va.toNat / 65536 :: c.declined }

/-- The first outstanding command of a context that a miss holds. -/
def State.missed (s : State) (k : EngKind) (inst ctx : Nat) : Option Cmd := (s.cmdsOf k inst ctx).find? (fun c => !c.finished && c.miss.isSome)

/-- A command waits on the word at `phys`: it keeps the place that it has among the waiters (R65). -/
def State.waits (s : State) (c : Cmd) (phys : Nat) : Cmd × State :=
  if (c.place.map (fun x => x.1 / 8)) = some (phys / 8) then (c, s)
  else ({ c with place := some (phys, s.seq) }, { s with seq := s.seq + 1 })

/-- A range cut at 64 KiB boundaries. -/
def pieces (va n : Nat) : List (Nat × Nat) :=
  (List.range ((va % 65536 + n + 65535) / 65536)).map (fun i =>
    let lo := max va (va / 65536 * 65536 + 65536 * i)
    (lo, min (va + n) (va / 65536 * 65536 + 65536 * (i + 1)) - lo))

/-- The physical ranges of some virtual ranges. What does not translate now stands at a place of its own, by its tenant and address. -/
def State.spans (s : State) (w : Who) (u : TlbUnit) (l : List (Word × Nat)) : List (Nat × Nat) :=
  ((l.map (fun x => pieces x.1.toNat x.2)).flatten).map (fun x =>
    match s.translate w u .read (word x.1) with
    | .ok (_, phys, _) => (phys, x.2)
    | .error _ => ((w.tenant.toNat + 1) * 2 ^ 64 + x.1, x.2))

/-- Whether two lists of ranges have no byte in common. -/
def apart (a b : List (Nat × Nat)) : Bool := a.all (fun x => b.all (fun y => decide (x.1 + x.2 ≤ y.1) || decide (y.1 + y.2 ≤ x.1)))

/-- Whether some ranges of one issuer have no byte in common with some of another. -/
def State.apartIn (s : State) (u : TlbUnit) (w v : Who) (a b : List (Word × Nat)) : Bool := apart (s.spans w u a) (s.spans v u b)

/-- Whether two commands belong to one stream: those of one fibre at one instance (R20). -/
def Cmd.oneStream (c d : Cmd) : Bool := decide (c.who.core = d.who.core) && decide (c.who.slot = d.who.slot)

/-- Whether any accepted command of the thread in slot (core, slot) has not completed, in any engine (R174). -/
def State.busy (s : State) (core slot : Nat) : Bool :=
  s.cmds.any (fun e => e.2.any (fun c => decide (c.who.core = core) && decide (c.who.slot = slot)))

/-- The thread comes back from its wait for commands that it ended (R341, R361). -/
def Slot.ended (sl : Slot) (k : Option EngKind) : Bool :=
  sl.resuming && (match sl.wait with | .commands j _ _ => decide (j = k) | _ => false)

/-- Ends every command of a thread but its fabric commands, as a discard does (R244): copies with outcome 3, attention
commands. -/
def State.endCommands (s : State) (core slot : Nat) : State :=
  { s with cmds := s.cmds.map (fun e => (e.1, e.2.map (fun c =>
      if c.who.core = core ∧ c.who.slot = slot ∧ c.finished = false ∧ e.1 / 2048 / 1024 ≠ 5 then c.end 3 0 0 else c))) }

end Sys2Proof.Machine
end

