-- ==== Sys2Proof/Machine/Frame.lean ====
section
/-! DEFINITION. The frame engine: contexts, frame records, and the `fr` commands (R261–R281). -/

namespace Sys2Proof.Machine

/-! ### Records in memory -/

/-- Reads `n` words of a context structure. -/
def State.ctxWords (s : State) (w : Who) (u : TlbUnit) (va : Word) : Nat → Except Stop (List Word × State)
  | 0 => pure ([], s)
  | n + 1 => do
    let (x, s) ← s.ctxRead w u va 8
    let (l, s) ← s.ctxWords w u (va + 8) n
    pure (word x :: l, s)

/-- Writes words of a context structure. -/
def State.ctxPut (s : State) (w : Who) (u : TlbUnit) (va : Word) : List Word → Except Stop State
  | [] => pure s
  | x :: t => do
    let s ← s.ctxWrite w u va 8 x.toNat
    s.ctxPut w u (va + 8) t

/-- Words as one number, the first lowest. -/
def wordsNat : List Word → Nat
  | [] => 0
  | x :: t => x.toNat + 2 ^ 64 * wordsNat t

/-- A number as `n` words, the lowest first. -/
def natWords : Nat → Nat → List Word
  | 0, _ => []
  | n + 1, v => word v :: natWords n (v / 2 ^ 64)

/-- Bits [lo+n−1 : lo] of a number. -/
def nf (v lo n : Nat) : Nat := (v >>> lo) % 2 ^ n

/-- The context header (R262), by its fields. -/
structure CtxHead where
  major : Nat
  minor : Nat
  ctx : Nat
  nextpos : Nat
  fmax : Nat
  hiwater : Nat
  ffree : Nat
  pool : Nat
  plen : Nat
  bsize : Nat
  bfree : Nat
  bhi : Nat
  kvfmt : Nat
  soff : Nat
  /-- The reserved bytes, as one number. -/
  res : Nat
  deriving DecidableEq, Repr

/-- Reads the fields of a header (R262). -/
def CtxHead.ofNat (v : Nat) : CtxHead :=
  { major := nf v 0 16, minor := nf v 16 16, ctx := nf v 32 32, nextpos := nf v 64 32, fmax := nf v 112 16,
    hiwater := nf v 128 16, ffree := nf v 144 16, pool := nf v 192 64, plen := nf v 256 32, bsize := nf v 288 32,
    bfree := nf v 320 32, bhi := nf v 352 32, kvfmt := nf v 384 8, soff := nf v 416 32,
    res := nf v 96 16 + nf v 160 32 + nf v 392 24 + nf v 448 576 }

/-- The header with its reserved bytes 0. -/
def CtxHead.toNat (h : CtxHead) : Nat :=
  h.major + h.minor * 2 ^ 16 + h.ctx * 2 ^ 32 + h.nextpos * 2 ^ 64 + h.fmax * 2 ^ 112 + h.hiwater * 2 ^ 128 +
    h.ffree * 2 ^ 144 + h.pool * 2 ^ 192 + h.plen * 2 ^ 256 + h.bsize * 2 ^ 288 + h.bfree * 2 ^ 320 + h.bhi * 2 ^ 352 +
    h.kvfmt * 2 ^ 384 + h.soff * 2 ^ 416

/-- A frame record (R263). -/
structure Frame where
  parent : Nat
  depth : Nat
  sealed : Bool
  spec : Bool
  inherit : Bool
  pinned : Bool
  ref : Nat
  nscope : Nat
  nargs : Nat
  base : Nat
  length : Nat
  capacity : Nat
  cut : Nat
  btab : Nat
  e : Nat
  bcount : Nat
  /-- Sixteen entries: start and length. -/
  scope : List (Nat × Nat)
  deriving DecidableEq, Repr

/-- Reads a frame record (R263). -/
def Frame.ofNat (v : Nat) : Frame :=
  { parent := nf v 0 16, depth := nf v 16 4, sealed := nf v 20 1 = 1, spec := nf v 21 1 = 1, inherit := nf v 22 1 = 1,
    pinned := nf v 23 1 = 1, ref := nf v 24 8, nscope := nf v 32 5, nargs := nf v 37 3, base := nf v 40 32,
    length := nf v 72 20, capacity := nf v 92 20, cut := nf v 112 20, btab := nf v 132 42 * 1024, e := nf v 174 4,
    bcount := nf v 178 14, scope := (List.range 16).map (fun i => (nf v (212 + 52 * i) 32, nf v (192 + 52 * i) 20)) }

/-- A scope list as the record holds it. -/
def scopeNat : List (Nat × Nat) → Nat
  | [] => 0
  | x :: t => x.2 % 2 ^ 20 + x.1 % 2 ^ 32 * 2 ^ 20 + 2 ^ 52 * scopeNat t

/-- A flag as a number. -/
def b2n (b : Bool) : Nat := if b then 1 else 0

/-- The record of a frame. -/
def Frame.toNat (f : Frame) : Nat :=
  f.parent % 2 ^ 16 + f.depth % 16 * 2 ^ 16 + b2n f.sealed * 2 ^ 20 + b2n f.spec * 2 ^ 21 + b2n f.inherit * 2 ^ 22 +
    b2n f.pinned * 2 ^ 23 + f.ref % 256 * 2 ^ 24 + f.nscope % 32 * 2 ^ 32 + f.nargs % 8 * 2 ^ 37 + f.base % 2 ^ 32 * 2 ^ 40 +
    f.length % 2 ^ 20 * 2 ^ 72 + f.capacity % 2 ^ 20 * 2 ^ 92 + f.cut % 2 ^ 20 * 2 ^ 112 + f.btab / 1024 % 2 ^ 42 * 2 ^ 132 +
    f.e % 16 * 2 ^ 174 + f.bcount % 2 ^ 14 * 2 ^ 178 + scopeNat (f.scope.take 16) * 2 ^ 192

/-- No cut (R263). -/
def noCut : Nat := 0xFFFFF

/-- Address of record `i`. -/
def recAddr (w : Who) (i : Nat) : Word := w.ftb + word (128 * i)

/-- Reads frame record `i`. -/
def State.frame (s : State) (w : Who) (u : TlbUnit) (i : Nat) : Except Stop (Frame × State) := do
  let (l, s) ← s.ctxWords w u (recAddr w i) 16
  pure (.ofNat (wordsNat l), s)

/-- Writes frame record `i`. -/
def State.putFrame (s : State) (w : Who) (u : TlbUnit) (i : Nat) (f : Frame) : Except Stop State :=
  s.ctxPut w u (recAddr w i) (natWords 16 f.toNat)

/-- Writes the header. -/
def State.putHead (s : State) (w : Who) (u : TlbUnit) (h : CtxHead) : Except Stop State := s.ctxPut w u w.ftb (natWords 16 h.toNat)

/-- The context check (R262, R270): FTB ≠ 0 and a good header, else 0x35 with EVAL 0. R261 says that FTB must be a multiple of 128 and states
no result where it is not: here the words of the table are accessed where they lie, so a multiple of 8 works, and anything else is 0x05
(DESIGN CHOICE, log entry 63). -/
def State.head (s : State) (w : Who) (u : TlbUnit) : Except Stop (CtxHead × State) := do
  if w.ftb = 0 then throw (.trap 0x35 0)
  let (l, s) ← s.ctxWords w u w.ftb 16
  let h := CtxHead.ofNat (wordsNat l)
  if h.major ≠ 1 ∨ h.ctx ≠ fld w.ctxid 0 20 ∨ h.res ≠ 0 then throw (.trap 0x35 0)
  pure (h, s)

/-- A live frame, or 0x35 with EVAL its id. -/
def State.live (s : State) (w : Who) (u : TlbUnit) (h : CtxHead) (i : Word) : Except Stop (Frame × State) := do
  if i = 0 ∨ h.fmax < i.toNat then throw (.trap 0x35 i)
  let (f, s) ← s.frame w u i.toNat
  if f.depth = 0 then throw (.trap 0x35 i)
  pure (f, s)

/-- Address of block `x` of the pool. -/
def blockAddr (h : CtxHead) (x : Nat) : Word := word (h.pool + x * h.bsize)

/-- EVAL of 0x37 (R281). -/
def ev37 (reason quantity : Nat) : Word := word (reason * 2 ^ 32 + quantity)

/-! ### Free lists (R262, R267) -/

/-- Takes a record for a new frame: 0x37 with reason 4 when the table is full. -/
def State.takeRecord (s : State) (w : Who) (u : TlbUnit) (h : CtxHead) : Except Stop (Nat × CtxHead × State) :=
  if h.ffree ≠ 0 then do
    let (f, s) ← s.frame w u h.ffree
    pure (h.ffree, { h with ffree := f.parent }, s)
  else if h.hiwater + 1 ≤ h.fmax then pure (h.hiwater + 1, { h with hiwater := h.hiwater + 1 }, s)
  else throw (.trap 0x37 (ev37 4 0))

/-- Takes a block: from the free list, else the lowest never allocated; `need` is what 0x37 with reason 3 reports. -/
def State.takeBlock (s : State) (w : Who) (u : TlbUnit) (h : CtxHead) (need : Nat) : Except Stop (Nat × CtxHead × State) :=
  if h.bfree ≠ 0xFFFFFFFF then do
    let (x, s) ← s.ctxRead w u (blockAddr h h.bfree + 8) 8
    pure (h.bfree, { h with bfree := nf x 0 32 }, s)
  else if h.bhi < h.plen then pure (h.bhi, { h with bhi := h.bhi + 1 }, s)
  else throw (.trap 0x37 (ev37 3 need))

/-- Block index at place `i` of a frame's table. -/
def State.tableAt (s : State) (w : Who) (u : TlbUnit) (f : Frame) (i : Nat) : Except Stop (Nat × State) :=
  s.ctxRead w u (word (f.btab + 4 * i)) 4

/-- Frees a block: its frame id becomes 0 and it heads the free list. -/
def State.freeBlock (s : State) (w : Who) (u : TlbUnit) (h : CtxHead) (x : Nat) : Except Stop (CtxHead × State) := do
  let (a, s) ← s.ctxRead w u (blockAddr h x) 8
  let (b, s) ← s.ctxRead w u (blockAddr h x + 8) 8
  let s ← s.ctxWrite w u (blockAddr h x) 8 (a - nf a 32 16 * 2 ^ 32)
  let s ← s.ctxWrite w u (blockAddr h x + 8) 8 (b - nf b 0 32 + h.bfree)
  pure ({ h with bfree := x }, s)

/-- Frees blocks in order. -/
def State.freeBlocks (s : State) (w : Who) (u : TlbUnit) (h : CtxHead) : List Nat → Except Stop (CtxHead × State)
  | [] => pure (h, s)
  | x :: t => do
    let (h, s) ← s.freeBlock w u h x
    s.freeBlocks w u h t

/-- The blocks of a frame, in table order, from place `i` on. -/
def State.blocks (s : State) (w : Who) (u : TlbUnit) (f : Frame) (i : Nat) : Nat → Except Stop (List Nat × State)
  | 0 => pure ([], s)
  | n + 1 => do
    let (x, s) ← s.tableAt w u f i
    let (l, s) ← s.blocks w u f (i + 1) n
    pure (x :: l, s)

/-- Frees a record: depth 0, and its parent field links the free list. -/
def State.freeRecord (s : State) (w : Who) (u : TlbUnit) (h : CtxHead) (i : Nat) (f : Frame) : Except Stop (CtxHead × State) := do
  let s ← s.putFrame w u i { f with depth := 0, parent := h.ffree }
  pure ({ h with ffree := i }, s)

/-- Drops one reference of frame `i`, freeing it and then its parents when a count reaches 0 (R267). Each frame it touches must be live
(R268); each turn frees a frame, so FMAX of them are enough. -/
def State.dropRef (s : State) (w : Who) (u : TlbUnit) (h : CtxHead) (i : Nat) : Nat → Except Stop (CtxHead × State)
  | 0 => pure (h, s)
  | n + 1 =>
    if i = 0 then pure (h, s) else do
    let (f, s) ← s.live w u h (word i)
    if 1 < f.ref then
      let s ← s.putFrame w u i { f with ref := f.ref - 1 }
      pure (h, s)
    else
      let (l, s) ← s.blocks w u f 0 f.bcount
      let (h, s) ← s.freeBlocks w u h l
      let (h, s) ← s.freeRecord w u h i f
      s.dropRef w u h f.parent n

/-- A leave that returns a stack to `i`: sealed := pinned if its ref is 1 (R267). -/
def State.unseal (s : State) (w : Who) (u : TlbUnit) (i : Nat) : Except Stop State := do
  let (f, s) ← s.frame w u i
  if f.ref = 1 ∧ f.depth ≠ 0 then s.putFrame w u i { f with sealed := f.pinned } else pure s

/-! ### The end of a command -/

/-- FP and FD of the executing slot. -/
def Slot.fp (sl : Slot) : Word := sl.csrv 0x020
/-- Frame depth. -/
def Slot.fd (sl : Slot) : Word := sl.csrv 0x021
/-- Stack limit. -/
def Slot.fsl (sl : Slot) : Word := sl.csrv 0x022

/-- Sets FP and FD. -/
def Slot.setFrame (sl : Slot) (fp fd : Word) : Slot := (sl.setCsr 0x020 fp).setCsr 0x021 fd

/-! ### The order of a context's commands (R16, R21) -/

/-- Whether a frame engine holds a command of the slot's thread. -/
def Slot.frHeld (sl : Slot) : Bool :=
  (decide (sl.state = .parked) || (decide (sl.state = .ready) && sl.resuming)) && (match sl.wait with
    | .frame _ _ => true
    | _ => false)

/-- The frame context of a slot's thread: that of its home die's engine (R16, R18). -/
def State.frCtx (s : State) (core slot : Nat) : Nat × Nat :=
  (s.homeDie ((s.slotAt core slot).who core slot), (engCtx .fr core slot 0).2)

/-- Whether a frame engine holds a command of some thread in a context. -/
def State.frBusy (s : State) (c : Nat × Nat) : Bool := s.slots.any (fun e => e.2.frHeld && decide (s.frCtx (e.1 / 16) (e.1 % 16) = c))

/-- The presence of STAT in a frame context: FULL, unless a command of the context is still held (R21, R271). -/
def State.frIdle (s : State) (c : Nat × Nat) : State :=
  s.setEr .fr c.1 c.2 0 (s.erp .fr c.1 c.2 0).1 (if s.frBusy c then .empty else .full)

/-- The frame table by which a context is known: its near physical address. One that does not translate now stands at a place of its own. -/
def State.frTable (s : State) (w : Who) : Nat :=
  match s.translate w .die .read w.ftb with
  | .ok (_, phys, _) => phys
  | .error _ => (w.tenant.toNat + 1) * 2 ^ 64 + w.ftb.toNat

/-- Whether a slot holds or waits for a place in the order of a frame engine. -/
def Slot.frQueued (sl : Slot) : Bool := sl.frHeld || (decide (sl.state = .parked) && decide (sl.wait = .frTurn))

/-- Whether the frame engine has received a command on a context before the `seq`-th, and has not performed it: commands on one context are
performed one at a time, in the order received (R16, R280). -/
def State.frBefore (s : State) (w : Who) (seq : Nat) : Bool :=
  s.slots.any (fun e => e.2.frQueued && decide (e.2.seq < seq) &&
    decide (s.frTable (e.2.who (e.1 / 16) (e.1 % 16)) = s.frTable w)) ||
  s.unwinds.any (fun x => decide (x.seq < seq) && decide (s.frTable x.who = s.frTable w))

/-- The frame engine holds the executing thread's command with its operands: the thread stays PARKED and STAT is EMPTY (R21, R270). -/
def State.frPark (s : State) (ops : List Word) (why : FrHold) : State :=
  let c := s.myCtx .fr
  (s.parkMe (.frame ops why)).statEmpty .fr c.1 c.2

/-- Ends a frame command: STAT of its context in the home die's engine holds FP and FD (R271), and the thread goes on with `sl`. -/
def State.frDone (s : State) (sl : Slot) : State :=
  let c := s.myCtx .fr
  ((s.statFull .fr c.1 c.2 (word (fld sl.fp 0 16 + fld sl.fd 0 4 * 65536))).setMe sl.advance).frIdle c

/-- A frame operand of 0 means FP (R272). -/
def frameArg (sl : Slot) (a : Word) : Word := if a = 0 then sl.fp else a

/-- The TLB of the frame engine that performs the thread's command (R16, R33). -/
def State.frUnit (s : State) : TlbUnit := .home (s.homeDie s.who)

/-- The operands of a frame command: those that the engine holds with it (R270), the first of them telling of a VOID source; else the
registers. -/
def Slot.frOperands (sl : Slot) (l : List (BitVec 5)) : Except Stop (List Word × Slot) :=
  match sl.resuming, sl.wait with
  | true, .frame ops _ => .ok (ops, if reg ops 0 = 0 then sl else sl.setV)
  | _, _ => do
    let t ← sl.gate (l.map .g)
    pure ((if l.any (fun r => decide ((sl.gp r).2 = .void)) then 1 else 0) :: l.map t.gv, t)

/-- The stage by which `State.btabNear` marks its miss. -/
def btabStage : Nat := 16

/-- A held command that faults has ended as well: STAT of its context keeps its value (R21, R270). -/
def State.frEnds (s : State) (o : Host.Outcome State Fault Refusal) : Host.Outcome State Fault Refusal :=
  match s.me.frHeld, o with
  | true, .next t => .next (t.frIdle (s.myCtx .fr))
  | _, o => o

/-- A frame command with its sources (R270): while an earlier command on the context is not performed (R16), at a miss, and at what holds
an access, the engine holds it with its operands, and the thread stays PARKED. -/
def frRun (s : State) (l : List (BitVec 5)) (body : Slot → List Word → Except Stop State) : Host.Outcome State Fault Refusal :=
  match s.me.frOperands l with
  | .error e => run s (.error e)
  | .ok (ops, sl) =>
    if s.frBefore s.who (s.placeFor (.frame ops .turn)) then .next (s.frPark ops .turn)
    else match body sl (ops.drop 1) with
      | .error (.miss m) =>
        let n : Miss := { m with stage := m.stage % btabStage }
        let t := s.frPark ops (if btabStage ≤ m.stage then .btab else .miss)
        .next ((t.setMe { t.me with miss := some n }).sendMiss s.curCore (some s.curSlot) s.me.acct.toNat n)
      | .error (.park (.drop c)) => .next (s.frPark ops (.drop c))
      | .error (.park (.refresh _ b)) => .next (s.frPark ops (.refresh b))
      | r => s.frEnds (run s r)

/-! ### Commands -/

/-- `fr.erw`: STAT is its only register. -/
def execFrErw (a : BitVec 5) (n : BitVec 6) (s : State) : Host.Outcome State Fault Refusal := engErw .fr a n s
/-- `fr.err`. -/
def execFrErr (b : BitVec 5) (n : BitVec 6) (s : State) : Host.Outcome State Fault Refusal := engErr .fr b n s

/-- The first offending field of a push block but btab's place in memory (R273, check 2); fields below btab and from
btab on are tested apart, so that the translation of btab stands in its place. -/
def pushLow (v : Nat) : Option Nat :=
  if nf v 0 32 = 0 ∨ 1048575 < nf v 0 32 then some 0
  else if 3 < nf v 32 8 then some 4
  else if 4 < nf v 40 8 then some 5
  else if nf v 48 16 ≠ 0 then some 6
  else if nf v 64 64 % 1024 ≠ 0 ∨ 2 ^ 52 ≤ nf v 64 64 then some 8
  else none

/-- Fields of a push block above btab. A bad span is named by its length half (log entry 15). -/
def pushHigh (v : Nat) : Option Nat :=
  if 14 < nf v 128 8 then some 16
  else if nf v 136 56 ≠ 0 then some 17
  else match (List.range (nf v 40 8)).find? (fun j => decide (nf v (224 + 64 * j) 32 = 0) || decide (1048575 < nf v (224 + 64 * j) 32)) with
    | some j => some (28 + 8 * j)
    | none => if nf v 448 64 ≠ 0 then some 56 else none

/-- Scope entries of step 2 of R265: [A.parent.base, A.base) while the frame just included has inherit; each parent must be live
(R268). -/
def State.inheritChain (s : State) (w : Who) (u : TlbUnit) (h : CtxHead) (a : Frame) : Nat → Except Stop (List (Nat × Nat) × State)
  | 0 => pure ([], s)
  | n + 1 =>
    if a.inherit = false ∨ a.parent = 0 then pure ([], s) else do
    let (p, s) ← s.live w u h (word a.parent)
    let (l, s) ← s.inheritChain w u h p n
    pure (if a.base - p.base = 0 then l else (p.base, a.base - p.base) :: l, s)

/-- Whether a span lies within [base, base + length) or within one scope entry (R273, check 8). -/
def spanSeen (p : Frame) (start len : Nat) : Bool :=
  (decide (p.base ≤ start) && decide (start + len ≤ p.base + p.length)) ||
    (p.scope.take p.nscope).any (fun e => decide (e.1 ≤ start) && decide (start + len ≤ e.1 + e.2))

/-- The argument spans of a push block. -/
def pushSpans (v : Nat) : List (Nat × Nat) :=
  (List.range (nf v 40 8)).map (fun j => (nf v (192 + 64 * j) 32, nf v (224 + 64 * j) 32))

/-- Pads a scope list to sixteen entries. -/
def padScope (l : List (Nat × Nat)) : List (Nat × Nat) := (l ++ List.replicate 16 (0, 0)).take 16

/-- Check 2's test that btab lies in NEAR memory (R273); a decline fails it with EVAL 8, so its miss is
marked. -/
def State.btabNear (s : State) (w : Who) (u : TlbUnit) (va : Word) : Except Stop State :=
  match s.translate w u .write va with
  | .ok (p, _, s) => if p.tgt = 0 then .ok s else .error (.trap 0x02 8)
  | .error (.miss m) => .error (.miss { m with stage := m.stage + btabStage })
  | .error (.trap _ _) => .error (.trap 0x02 8)
  | .error e => .error e

/-- `fr.push gB, gA` (R273). -/
def execFrPush (a b : BitVec 5) (s : State) : Host.Outcome State Fault Refusal :=
  frRun s [a] fun sl ops => do
    let w := s.who
    let u := s.frUnit
    let (l, s) ← s.engBlock w u (reg ops 0) 8
    let v := wordsNat l
    match pushLow v with
    | some o => throw (.trap 0x02 (word o))
    | none => pure ()
    let s ← s.btabNear w u (word (nf v 64 64))
    match pushHigh v with
    | some o => throw (.trap 0x02 (word o))
    | none => pure ()
    let cap := nf v 0 32
    let inh := decide (nf v 32 1 = 1)
    let (h, s) ← s.head w u
    let child : Frame :=
      { parent := 0, depth := 1, sealed := false, spec := decide (nf v 33 1 = 1), inherit := inh, pinned := false, ref := 1,
        nscope := 0, nargs := nf v 40 8, base := h.nextpos, length := 0, capacity := cap, cut := noCut,
        btab := nf v 64 64, e := nf v 128 8, bcount := 0, scope := padScope [] }
    if sl.fd = 0 then
      if 2 ^ 32 - 1 < h.nextpos + cap then throw (.trap 0x37 (ev37 5 cap))
      if nf v 40 8 ≠ 0 then throw (.trap 0x33 0)
      let (i, h, s) ← s.takeRecord w u h
      let s ← s.putFrame w u i child
      let s ← s.putHead w u { h with nextpos := h.nextpos + cap }
      pure (s.frDone ((sl.setFrame (word i) 1).wrG b (word i)))
    else
      let (p, s) ← s.live w u h sl.fp
      if sl.fsl.toNat ≤ sl.fd.toNat ∨ 15 ≤ p.depth then throw (.trap 0x30 sl.fd)
      if 255 ≤ p.ref then throw (.trap 0x34 sl.fp)
      if p.capacity < p.length + cap then throw (.trap 0x37 (ev37 1 cap))
      let spans := pushSpans v
      match (List.range spans.length).find? (fun j => !spanSeen p (spans.getD j (0, 0)).1 (spans.getD j (0, 0)).2) with
      | some j => throw (.trap 0x33 (word j))
      | none => pure ()
      let (more, s) ← if inh then (do
        let (l, s) ← s.inheritChain w u h p 16
        pure (if p.length = 0 then l else (p.base, p.length) :: l, s)) else pure ([], s)
      let scope := spans ++ more
      if 16 < scope.length then throw (.trap 0x38 (word scope.length))
      let (i, h, s) ← s.takeRecord w u h
      let s ← s.putFrame w u i { child with
        parent := fld sl.fp 0 16, depth := p.depth + 1, base := p.base + p.length, nscope := scope.length, scope := padScope scope }
      let s ← s.putFrame w u sl.fp.toNat { p with length := p.length + cap, ref := p.ref + 1, sealed := true }
      let s ← s.putHead w u h
      pure (s.frDone ((sl.setFrame (word i) (sl.fd + 1)).wrG b (word i)))

/-- Whether a block's range meets [lo, hi). -/
def State.meets (s : State) (w : Who) (u : TlbUnit) (h : CtxHead) (lo hi x : Nat) : Except Stop (Bool × State) := do
  let (a, s) ← s.ctxRead w u (blockAddr h x) 8
  let (b, s) ← s.ctxRead w u (blockAddr h x + 8) 8
  pure (decide (nf b 0 32 < hi) && decide (lo < nf b 0 32 + nf a 48 16) && decide (lo < hi), s)

/-- Splits blocks into those that meet [lo, hi) and the others. -/
def State.splitBlocks (s : State) (w : Who) (u : TlbUnit) (h : CtxHead) (lo hi : Nat) : List Nat → Except Stop (List Nat × List Nat × State)
  | [] => pure ([], [], s)
  | x :: t => do
    let (m, s) ← s.meets w u h lo hi x
    let (k, d, s) ← s.splitBlocks w u h lo hi t
    pure (if m then x :: k else k, if m then d else x :: d, s)

/-- Writes block indices into a table from place `i` on. -/
def State.putTable (s : State) (w : Who) (u : TlbUnit) (f : Frame) (i : Nat) : List Nat → Except Stop State
  | [] => pure s
  | x :: t => do
    let s ← s.ctxWrite w u (word (f.btab + 4 * i)) 4 x
    s.putTable w u f (i + 1) t

/-- `fr.pop gA` (R274). -/
def execFrPop (a : BitVec 5) (s : State) : Host.Outcome State Fault Refusal :=
  frRun s [a] fun sl ops => do
    let w := s.who
    let u := s.frUnit
    let x := reg ops 0
    let k := x
    let (h, s) ← s.head w u
    if sl.fd.toNat < 2 then throw (.trap 0x31 sl.fd)
    let (c, s) ← s.live w u h sl.fp
    if c.ref ≠ 1 then throw (.trap 0x35 sl.fp)
    let (p, s) ← s.live w u h (word c.parent)
    let avail := min c.length c.cut
    if avail < k.toNat then throw (.trap 0x36 k)
    if k ≠ 0 ∧ 16 ≤ p.nscope then throw (.trap 0x38 (word (p.nscope + 1)))
    let lo := c.base + avail - k.toNat
    let hi := c.base + avail
    let (l, s) ← s.blocks w u c 0 c.bcount
    let (keep, drop, s) ← s.splitBlocks w u h lo hi l
    if min (2 ^ p.e) 16383 < p.bcount + keep.length then throw (.trap 0x37 (ev37 2 (p.bcount + keep.length)))
    let s ← s.putTable w u p p.bcount keep
    let (h, s) ← s.freeBlocks w u h drop
    let (h, s) ← s.freeRecord w u h sl.fp.toNat c
    let ref := p.ref - 1
    let s ← s.putFrame w u c.parent { p with
      bcount := p.bcount + keep.length, ref := ref, sealed := if ref = 1 then p.pinned else p.sealed,
      length := if p.base + p.length = c.base + c.capacity then c.base + c.length - p.base else p.length,
      nscope := if k = 0 then p.nscope else p.nscope + 1,
      scope := if k = 0 then p.scope else p.scope.set p.nscope (lo, k.toNat) }
    let s ← s.putHead w u h
    pure (s.frDone (sl.setFrame (word c.parent) (sl.fd - 1)))

/-- `fr.enter gA` (R275). -/
def execFrEnter (a : BitVec 5) (s : State) : Host.Outcome State Fault Refusal :=
  frRun s [a] fun sl ops => do
    let w := s.who
    let u := s.frUnit
    let x := reg ops 0
    let i := x
    let (h, s) ← s.head w u
    if sl.fsl.toNat ≤ sl.fd.toNat then throw (.trap 0x30 sl.fd)
    let (f, s) ← s.live w u h i
    if sl.fd ≠ 0 ∧ word f.parent ≠ sl.fp then throw (.trap 0x35 i)
    if 255 ≤ f.ref then throw (.trap 0x34 i)
    let s ← s.putFrame w u i.toNat { f with ref := f.ref + 1, sealed := true }
    pure (s.frDone (sl.setFrame i (sl.fd + 1)))

/-- The effect of a leave at depth `fd` on the context (R275): drops one reference of `fp` and frees under R267; the frame that the
stack returns to must be live (R268) and is unsealed. The new FP is 0 for a leave at depth 1. -/
def State.leaveFrame (s : State) (w : Who) (u : TlbUnit) (h : CtxHead) (fp : Word) (fd : Nat) : Except Stop (Word × State) := do
  let (f, s) ← s.live w u h fp
  if fd ≤ 1 ∨ f.parent = 0 then
    let (h, s) ← s.dropRef w u h fp.toNat (h.fmax + 1)
    let s ← s.putHead w u h
    pure (if fd ≤ 1 then 0 else word f.parent, s)
  else
    let (_, s) ← s.live w u h (word f.parent)
    let (h, s) ← s.dropRef w u h fp.toNat (h.fmax + 1)
    let s ← s.putHead w u h
    let s ← s.unseal w u f.parent
    pure (word f.parent, s)

/-- `fr.leave` (R275). -/
def execFrLeave (s : State) : Host.Outcome State Fault Refusal :=
  frRun s [] fun sl _ => do
    let w := s.who
    let u := s.frUnit
    let (h, s) ← s.head w u
    if sl.fd = 0 then throw (.trap 0x31 0)
    let (p, s) ← s.leaveFrame w u h sl.fp sl.fd.toNat
    pure (s.frDone (sl.setFrame p (sl.fd - 1)))

/-- Blocks that an append of `n` positions needs, when the last block takes `room` more (R276). -/
def blocksNeeded (n room : Nat) : Nat := (n - min n room + 63) / 64

/-- The append loop of R276: new blocks of up to 64 positions each. -/
def State.appendBlocks (s : State) (w : Who) (u : TlbUnit) (f : Frame) (fid need pos : Nat) (h : CtxHead) (n i : Nat) :
    Nat → Except Stop (CtxHead × State)
  | 0 => pure (h, s)
  | m + 1 => do
    let (x, h, s) ← s.takeBlock w u h need
    let t := min n 64
    let s ← s.ctxWrite w u (blockAddr h x) 8 (h.ctx + fid * 2 ^ 32 + t * 2 ^ 48)
    let s ← s.ctxWrite w u (blockAddr h x + 8) 8 (pos + h.kvfmt * 2 ^ 32)
    let s ← s.ctxWrite w u (blockAddr h x + 16) 8 h.soff
    let s ← s.ctxPut w u (blockAddr h x + 24) (List.replicate 5 0)
    let s ← s.putTable w u f i [x]
    s.appendBlocks w u f fid need (pos + t) h (n - t) (i + 1) m

/-- `fr.app gB, gA` (R276). -/
def execFrApp (a b : BitVec 5) (s : State) : Host.Outcome State Fault Refusal :=
  frRun s [a] fun sl ops => do
    let w := s.who
    let u := s.frUnit
    let x := reg ops 0
    let n := x.toNat
    let (h, s) ← s.head w u
    if sl.fd = 0 then throw (.trap 0x35 sl.fp)
    let (f, s) ← s.live w u h sl.fp
    if f.sealed then throw (.trap 0x32 sl.fp)
    if f.capacity < f.length + n then throw (.trap 0x37 (ev37 1 n))
    let pos := f.base + f.length
    let (last, room, word0, s) ← if f.bcount = 0 ∨ n = 0 then pure (0, 0, 0, s) else (do
      let (x, s) ← s.tableAt w u f (f.bcount - 1)
      let (p, s) ← s.ctxRead w u (blockAddr h x) 8
      let (q, s) ← s.ctxRead w u (blockAddr h x + 8) 8
      pure (x, if nf p 32 16 = sl.fp.toNat ∧ nf p 48 16 < 64 ∧ nf q 0 32 + nf p 48 16 = pos then 64 - nf p 48 16 else 0, p, s))
    let need := blocksNeeded n room
    if min (2 ^ f.e) 16383 < f.bcount + need then throw (.trap 0x37 (ev37 2 (f.bcount + need)))
    let t := min n room
    let s ← if t = 0 then pure s else s.ctxWrite w u (blockAddr h last) 8 (word0 + t * 2 ^ 48)
    let (h, s) ← s.appendBlocks w u f sl.fp.toNat need (pos + t) h (n - t) f.bcount need
    let s ← s.putFrame w u sl.fp.toNat { f with length := f.length + n, bcount := f.bcount + need }
    let s ← s.putHead w u h
    pure (s.frDone (sl.wrG b (word pos)))

/-- `fr.seal gA` (R277). -/
def execFrSeal (a : BitVec 5) (s : State) : Host.Outcome State Fault Refusal :=
  frRun s [a] fun sl ops => do
    let w := s.who
    let u := s.frUnit
    let x := reg ops 0
    let (h, s) ← s.head w u
    let i := frameArg sl x
    let (f, s) ← s.live w u h i
    let s ← s.putFrame w u i.toNat { f with pinned := true, sealed := true }
    pure (s.frDone sl)

/-- `fr.cut gA, gB` (R278). -/
def execFrCut (a b : BitVec 5) (s : State) : Host.Outcome State Fault Refusal :=
  frRun s [a, b] fun sl ops => do
    let w := s.who
    let u := s.frUnit
    let x := reg ops 0
    let (h, s) ← s.head w u
    let i := frameArg sl x
    let k := reg ops 1
    let (f, s) ← s.live w u h i
    if f.spec = false then throw (.trap 0x35 i)
    if f.length < k.toNat then throw (.trap 0x36 k)
    if f.cut ≠ noCut ∧ k.toNat < f.cut then throw (.trap 0x36 k)
    let s ← if f.cut ≠ noCut then pure s else
      s.putFrame w u i.toNat { f with cut := k.toNat, pinned := true, sealed := true }
    pure (s.frDone sl)

/-- The value of field `f` of a frame (R279). -/
def frameField (x : Frame) (nextpos f : Nat) : Word :=
  match f with
  | 0 => word x.parent
  | 1 => word x.depth
  | 2 => word (b2n x.sealed + 2 * b2n x.spec + 4 * b2n x.inherit + 8 * b2n x.pinned)
  | 3 => word x.ref
  | 4 => word x.base
  | 5 => word x.length
  | 6 => word x.capacity
  | 7 => if x.cut = noCut then word (2 ^ 64 - 1) else word (x.base + x.cut)
  | 8 => word x.btab
  | 9 => word x.bcount
  | 10 => word x.nscope
  | 11 => word x.nargs
  | 12 => word nextpos
  | n => if n - 16 < x.nscope then word ((x.scope.getD (n - 16) (0, 0)).1 * 2 ^ 32 + (x.scope.getD (n - 16) (0, 0)).2) else 0

/-- `fr.rd gB, gA, f` (R279). -/
def execFrRd (a b f : BitVec 5) (s : State) : Host.Outcome State Fault Refusal :=
  frRun s [a] fun sl ops => do
    let w := s.who
    let u := s.frUnit
    let x := reg ops 0
    let (h, s) ← s.head w u
    let (r, s) ← s.live w u h (frameArg sl x)
    pure (s.frDone (sl.wrG b (frameField r h.nextpos f.toNat)))

/-- The scope list of a frame in vector lanes (R279). -/
def scopeVec (x : Frame) : VWord :=
  ((x.scope.take x.nscope).foldr (fun e (v : VWord) => (v <<< 64) ||| BitVec.ofNat 1024 (e.1 % 2 ^ 32 + e.2 % 2 ^ 32 * 2 ^ 32)) 0)

/-- `fr.scope vN, gA` (R279). -/
def execFrScope (a : BitVec 5) (v : BitVec 4) (s : State) : Host.Outcome State Fault Refusal :=
  frRun s [a] fun sl ops => do
    let w := s.who
    let u := s.frUnit
    let x := reg ops 0
    let (h, s) ← s.head w u
    let (f, s) ← s.live w u h (frameArg sl x)
    pure (s.frDone (sl.wrV v (scopeVec f)))

/-! ### Launches and departures -/

/-- Check 8 of R228 (R268): the frame state that a launch with FRAME takes, and its references; `n` is the fibre count. -/
def State.frameLaunch (s : State) (w : Who) (u : TlbUnit) (sl : Slot) (ctx n : Nat) : Except Stop State := do
  if word ctx ≠ w.ctxid then throw (.trap 0x35 0)
  let (h, s) ← s.head w u
  if sl.fd = 0 then throw (.trap 0x35 sl.fp)
  let (f, s) ← s.live w u h sl.fp
  if 255 < f.ref + n then throw (.trap 0x34 sl.fp)
  s.putFrame w u sl.fp.toNat { f with ref := f.ref + n, sealed := true }

/-- One leave of a chain that the frame engine unwinds (R269). -/
def State.unwindOne (s : State) (x : Unwind) : Except Stop (Word × State) := do
  let u : TlbUnit := .home (s.homeDie x.who)
  let (h, s) ← s.head x.who u
  s.leaveFrame x.who u h x.fp x.fd

/-- R269: unwinds the chain of a fibre that has left its slot, as `fr.leave` does while FD ≥ 1: what is left of the chain where a miss or
the drop of a tile cache holds the engine, and the state. A leave that faults changes nothing and ends the unwinding (DESIGN CHOICE,
log entry 57). -/
def State.unwind (s : State) (x : Unwind) : Nat → Option Unwind × State
  | 0 => (none, s)
  | n + 1 =>
    match s.unwindOne x with
    | .ok (p, t) => t.unwind { x with fp := p, fd := x.fd - 1 } n
    | .error (.miss m) => (some { x with miss := some m }, s.sendMiss x.who.core none x.who.acct.toNat m)
    | .error (.park _) => (some x, s)
    | .error _ => (none, s)

end Sys2Proof.Machine
end

