-- ==== Sys2Proof/Machine/Numbers.lean ====
section
/-! DEFINITION. Number formats and arithmetic (R138–R153): exact values, one rounding, and the flags that go with it. -/

namespace Sys2Proof.Machine

/-- A decoded value: a NaN with its sign and whether it is signalling, an infinity, or (−1)^s · m · 2^e. -/
inductive Num where
  | nan (s sig : Bool)
  | inf (s : Bool)
  | fin (s : Bool) (m : Nat) (e : Int)
  deriving DecidableEq, Repr

/-- A floating format (R138). `nan`: 0 no NaN codes and no infinities, 1 as IEEE 754, 2 the single NaN of E4M3. -/
structure Fmt where
  ebits : Nat
  fbits : Nat
  bias : Int
  nan : Nat
  deriving DecidableEq, Repr

def Fmt.f32 : Fmt := { ebits := 8, fbits := 23, bias := 127, nan := 1 }
def Fmt.bf16 : Fmt := { ebits := 8, fbits := 7, bias := 127, nan := 1 }
def Fmt.f16 : Fmt := { ebits := 5, fbits := 10, bias := 15, nan := 1 }
def Fmt.e5m2 : Fmt := { ebits := 5, fbits := 2, bias := 15, nan := 1 }
def Fmt.e4m3 : Fmt := { ebits := 4, fbits := 3, bias := 7, nan := 2 }
def Fmt.e3m2 : Fmt := { ebits := 3, fbits := 2, bias := 3, nan := 0 }
def Fmt.e2m3 : Fmt := { ebits := 2, fbits := 3, bias := 1, nan := 0 }
def Fmt.e2m1 : Fmt := { ebits := 2, fbits := 1, bias := 1, nan := 0 }

/-- Flags of a result: bits 0 NX, 1 UF, 2 OF, 3 DZ, 4 NV, as FPCSR[12:8] has them, and bit 5: a NaN met a destination
without a NaN code (R147, R150). -/
abbrev Fl := BitVec 6

def flNX : Fl := 1
def flUF : Fl := 2
def flOF : Fl := 4
def flDZ : Fl := 8
def flNV : Fl := 16
def flNoNan : Fl := 32

/-- NV when the condition holds. -/
def nvIf (b : Bool) : Fl := if b then flNV else 0

/-- The value of a code (R139). -/
def Fmt.decode (f : Fmt) (c : Nat) : Num :=
  let s := decide ((c >>> (f.ebits + f.fbits)) % 2 = 1)
  let e := (c >>> f.fbits) % 2 ^ f.ebits
  let m := c % 2 ^ f.fbits
  if e = 2 ^ f.ebits - 1 ∧ f.nan = 1 then
    (if m = 0 then .inf s else .nan s (decide (m < 2 ^ (f.fbits - 1))))
  else if e = 2 ^ f.ebits - 1 ∧ f.nan = 2 ∧ m = 2 ^ f.fbits - 1 then .nan s false
  else if e = 0 then .fin s m (1 - f.bias - f.fbits)
  else .fin s (2 ^ f.fbits + m) ((e : Int) - f.bias - f.fbits)

/-- The sign bit in place. -/
def Fmt.signed (f : Fmt) (s : Bool) (mag : Nat) : Nat := (if s then 2 ^ (f.ebits + f.fbits) else 0) + mag

/-- The greatest finite code without its sign. -/
def Fmt.maxCode (f : Fmt) : Nat :=
  match f.nan with
  | 1 => (2 ^ f.ebits - 1) * 2 ^ f.fbits - 1
  | 2 => 2 ^ (f.ebits + f.fbits) - 2
  | _ => 2 ^ (f.ebits + f.fbits) - 1

/-- The canonical quiet NaN with a sign (R139). -/
def Fmt.nanCode (f : Fmt) (s : Bool) : Nat :=
  f.signed s (if f.nan = 2 then 2 ^ (f.ebits + f.fbits) - 1 else (2 ^ f.ebits - 1) * 2 ^ f.fbits + 2 ^ (f.fbits - 1))

/-- The code of an infinity, in a format that has them. -/
def Fmt.infCode (f : Fmt) (s : Bool) : Nat := f.signed s ((2 ^ f.ebits - 1) * 2 ^ f.fbits)

/-- Whether a magnitude n + (r + part)/2^d is rounded up: mode 0 RNE, 1 RTZ, 2 RUP, 3 RDN (R133). -/
def roundUp (rm : Nat) (s : Bool) (n r d : Nat) (st : Bool) : Bool :=
  match rm with
  | 0 => d ≠ 0 && (decide (2 ^ (d - 1) < r) || (r = 2 ^ (d - 1) && (st || n % 2 = 1)))
  | 2 => (r ≠ 0 || st) && !s
  | 3 => (r ≠ 0 || st) && s
  | _ => false

/-- Rounds (−1)^s · (m + part) · 2^e once into a format, where part lies in (0, 1) if `st` and is 0 otherwise
(R145, R146, R150); OF is judged by the value that RNE would give. `m` has a few bits more than the format when `st` is set. -/
def Fmt.round (f : Fmt) (rm : Nat) (fzo : Bool) (s : Bool) (m : Nat) (e : Int) (st : Bool) : Nat × Fl :=
  if m = 0 then (f.signed s 0, 0)
  else
    let top : Int := (Nat.log2 m : Int) + e
    let minE : Int := 1 - f.bias
    let tiny := decide (top < minE)
    if tiny ∧ fzo then (f.signed s 0, flUF ||| flNX)
    else
      let q : Int := max top minE - f.fbits
      let d := (q - e).toNat
      let n := if q ≤ e then m <<< (e - q).toNat else m >>> d
      let r := if q ≤ e then 0 else m % 2 ^ d
      let inexact := r ≠ 0 || st
      let codeOf (md : Nat) : Nat := (q + f.fbits + f.bias - 1).toNat * 2 ^ f.fbits + (if roundUp md s n r d st then n + 1 else n)
      let code := codeOf rm
      if f.maxCode < code then
        let toMax := f.nan ≠ 1 || rm = 1 || (rm = 2 && s) || (rm = 3 && !s)
        (if toMax then f.signed s f.maxCode else f.infCode s, flOF ||| flNX)
      else (f.signed s code, (if inexact then flNX else 0) ||| (if tiny && inexact then flUF else 0) |||
        (if f.maxCode < codeOf 0 then flOF else 0))

/-- A conversion between floating formats (R146, R147). -/
def Fmt.conv (f : Fmt) (rm : Nat) (fzo : Bool) (x : Num) : Nat × Fl :=
  match x with
  | .nan s sig => if f.nan = 0 then (f.signed s f.maxCode, flNV ||| flNoNan) else (f.nanCode s, nvIf sig)
  | .inf s => if f.nan = 1 then (f.infCode s, 0) else (f.signed s f.maxCode, flOF)
  | .fin s m e => f.round rm fzo s m e false

/-- An exact result, not yet rounded: a value, a sticky part, and the flags NV and DZ of the operation. -/
structure Exact where
  v : Num
  st : Bool
  fl : Fl
  deriving DecidableEq, Repr

/-- Rounds the exact result of an operation; a NaN result is the positive canonical NaN (R152). -/
def Fmt.result (f : Fmt) (rm : Nat) (fzo : Bool) (x : Exact) : Nat × Fl :=
  match x.v with
  | .nan _ _ => (f.nanCode false, x.fl)
  | .inf s => (f.infCode s, x.fl)
  | .fin s m e => let r := f.round rm fzo s m e x.st; (r.1, r.2 ||| x.fl)

/-- Whether a value is a signalling NaN. -/
def Num.isSig : Num → Bool
  | .nan _ b => b
  | _ => false

def Num.isNan : Num → Bool
  | .nan _ _ => true
  | _ => false

def Num.neg : Num → Num
  | .nan s b => .nan (!s) b
  | .inf s => .inf (!s)
  | .fin s m e => .fin (!s) m e

/-- The signed mantissa of a finite value at exponent `e0`, at most its own exponent. -/
def scaled (s : Bool) (m : Nat) (e e0 : Int) : Int :=
  let v : Int := (m : Int) * 2 ^ (e - e0).toNat
  if s then -v else v

/-- A sum of two values, exact; an exact zero sum takes the sign of IEEE 754 under the mode. -/
def addExact (rm : Nat) (x y : Num) : Exact :=
  match x, y with
  | .nan _ a, .nan _ b => { v := .nan false false, st := false, fl := nvIf (a || b) }
  | .nan _ a, _ => { v := .nan false false, st := false, fl := nvIf a }
  | _, .nan _ b => { v := .nan false false, st := false, fl := nvIf b }
  | .inf a, .inf b => if a = b then { v := .inf a, st := false, fl := 0 } else { v := .nan false false, st := false, fl := flNV }
  | .inf a, _ => { v := .inf a, st := false, fl := 0 }
  | _, .inf b => { v := .inf b, st := false, fl := 0 }
  | .fin a m e, .fin b n g =>
    let e0 := min e g
    let t := scaled a m e e0 + scaled b n g e0
    if t = 0 then { v := .fin (if m = 0 ∧ n = 0 ∧ a = b then a else decide (rm = 3)) 0 0, st := false, fl := 0 }
    else { v := .fin (decide (t < 0)) t.natAbs e0, st := false, fl := 0 }

/-- A product of two values, exact. -/
def mulExact (x y : Num) : Exact :=
  match x, y with
  | .nan _ a, .nan _ b => { v := .nan false false, st := false, fl := nvIf (a || b) }
  | .nan _ a, _ => { v := .nan false false, st := false, fl := nvIf a }
  | _, .nan _ b => { v := .nan false false, st := false, fl := nvIf b }
  | .inf a, .inf b => { v := .inf (a != b), st := false, fl := 0 }
  | .inf a, .fin b n _ => if n = 0 then { v := .nan false false, st := false, fl := flNV } else { v := .inf (a != b), st := false, fl := 0 }
  | .fin a m _, .inf b => if m = 0 then { v := .nan false false, st := false, fl := flNV } else { v := .inf (a != b), st := false, fl := 0 }
  | .fin a m e, .fin b n g => { v := .fin (a != b) (m * n) (e + g), st := false, fl := 0 }

/-- x·y + z, exact. A signalling operand or an invalid product sets NV whatever z is (R167). -/
def fmaExact (rm : Nat) (x y z : Num) : Exact :=
  let p := mulExact x y
  let r := addExact rm p.v z
  { r with fl := r.fl ||| p.fl }

/-- x ÷ y, to 80 bits below the dividend's last with a sticky part. -/
def divExact (x y : Num) : Exact :=
  match x, y with
  | .nan _ a, .nan _ b => { v := .nan false false, st := false, fl := nvIf (a || b) }
  | .nan _ a, _ => { v := .nan false false, st := false, fl := nvIf a }
  | _, .nan _ b => { v := .nan false false, st := false, fl := nvIf b }
  | .inf _, .inf _ => { v := .nan false false, st := false, fl := flNV }
  | .inf a, .fin b _ _ => { v := .inf (a != b), st := false, fl := 0 }
  | .fin a _ _, .inf b => { v := .fin (a != b) 0 0, st := false, fl := 0 }
  | .fin a m e, .fin b n g =>
    if n = 0 then
      (if m = 0 then { v := .nan false false, st := false, fl := flNV } else { v := .inf (a != b), st := false, fl := flDZ })
    else { v := .fin (a != b) ((m <<< 80) / n) (e - g - 80), st := decide ((m <<< 80) % n ≠ 0), fl := 0 }

/-- The integer square root of `m` by its bits, from bit `n` down. -/
def isqrt (m : Nat) : Nat → Nat → Nat
  | 0, r => if (r + 1) * (r + 1) ≤ m then r + 1 else r
  | n + 1, r => isqrt m n (if (r + 2 ^ (n + 1)) * (r + 2 ^ (n + 1)) ≤ m then r + 2 ^ (n + 1) else r)

/-- √x, to many bits with a sticky part; √(−0) is −0 (R164). -/
def sqrtExact (x : Num) : Exact :=
  match x with
  | .nan _ a => { v := .nan false false, st := false, fl := nvIf a }
  | .inf s => if s then { v := .nan false false, st := false, fl := flNV } else { v := .inf false, st := false, fl := 0 }
  | .fin s m e =>
    if m = 0 then { v := .fin s 0 0, st := false, fl := 0 }
    else if s then { v := .nan false false, st := false, fl := flNV }
    else
      let k : Nat := if e % 2 = 0 then 64 else 65
      let t := m <<< k
      let r := isqrt t 48 0
      { v := .fin false r ((e - k) / 2), st := decide (r * r ≠ t), fl := 0 }

/-- floor(ln 2 · 2^320). -/
def ln2Fixed : Nat :=
  1480553391661173448385607439722553250922680800745876974795605978609098082859138712941075737848984

/-- Σ y^j / j! for j from i on, in fixed point with 320 fraction bits; `t` is the term before. -/
def expSeries (y : Nat) : Nat → Nat → Nat → Nat
  | 0, _, _ => 0
  | n + 1, i, t => let u := ((t * y) >>> 320) / i; u + expSeries y n (i + 1) u

/-- 2^x of a finite x that is not an integer: a 320-bit truncation with a sticky part (R151). -/
def exp2Exact (s : Bool) (m : Nat) (e : Int) : Exact :=
  let den : Nat := 2 ^ (-e).toNat
  let v : Int := if s then -(m : Int) else (m : Int)
  let k : Int := if 0 ≤ e then v * 2 ^ e.toNat else v / den
  let fr : Nat := if 0 ≤ e then 0 else (v - k * den).toNat
  if fr = 0 then { v := .fin false 1 (max k (-1000)), st := false, fl := 0 }
  else
    let y := (((fr <<< 320) / den) * ln2Fixed) >>> 320
    { v := .fin false (2 ^ 320 + expSeries y 80 1 (2 ^ 320)) (max k (-1000) - 320), st := true, fl := 0 }

/-- 2^x, not yet rounded (R151). -/
def exp2Num (x : Num) : Exact :=
  match x with
  | .nan _ a => { v := .nan false false, st := false, fl := nvIf a }
  | .inf s => if s then { v := .fin false 0 0, st := false, fl := 0 } else { v := .inf false, st := false, fl := 0 }
  | .fin s m e =>
    if m = 0 then { v := .fin false 1 0, st := false, fl := 0 }
    else if 8 ≤ (Nat.log2 m : Int) + e then
      { v := .fin false 1 (if s then -1000 else 1000), st := false, fl := 0 }
    else exp2Exact s m e

/-! ### FP32 under a mode, and engine arithmetic, which rounds RNE -/

/-- The value of an FP32 pattern. -/
def num (c : F32) : Num := Fmt.f32.decode c.toNat

/-- An FP32 pattern from a code. -/
def f32 (n : Nat) : F32 := BitVec.ofNat 32 n

/-- rne(x, FP32) of an exact value, with FZO; the flags are dropped (R150). -/
def rne32 (fzo : Bool) (x : Exact) : F32 := f32 (Fmt.f32.result 0 fzo x).1

/-- An exact value with no flag. -/
def exact (x : Num) : Exact := { v := x, st := false, fl := 0 }

/-- A product of exact values, as a value. -/
def mulNum (x y : Num) : Num := (mulExact x y).v
/-- A sum of exact values, as a value. -/
def addNum (x y : Num) : Num := (addExact 0 x y).v

/-- The sum of a list of exact values (one rounding comes after). -/
def sumNum (l : List Num) : Num := l.foldl addNum (.fin false 0 0)

/-- exp2c (R5, R151) of an exact value, RNE. -/
def exp2c (fzo : Bool) (x : Num) : F32 := rne32 fzo (exp2Num x)

/-- flush (R289): a result below 2^−126 is +0. -/
def flushExp (x : F32) : F32 := if x.toNat % 2 ^ 31 < 2 ^ 23 then 0 else x

/-- A term of the window rule as a multiple of 2^(top − 27), truncated toward zero. -/
def windowTerm (top : Int) (x : Num) : Int :=
  match x with
  | .fin s m e =>
    let d := e - (top - 27)
    let v : Nat := if 0 ≤ d then m <<< d.toNat else m >>> (-d).toNat
    if s then -(v : Int) else v
  | _ => 0

/-- floor(log2 |t|) of a nonzero finite term. -/
def topOf (x : Num) : Option Int :=
  match x with
  | .fin _ m e => if m = 0 then none else some ((Nat.log2 m : Int) + e)
  | _ => none

/-- The greatest of some exponents. -/
def maxTop (l : List Int) : Option Int := l.foldl (fun a t => some (match a with | none => t | some b => max b t)) none

/-- window28 (R153). -/
def window28 (fzo : Bool) (l : List Num) : F32 :=
  if l.any Num.isNan ∨ (l.any (· = .inf false) ∧ l.any (· = .inf true)) then f32 (Fmt.f32.nanCode false)
  else if l.any (· = .inf false) then f32 (Fmt.f32.infCode false)
  else if l.any (· = .inf true) then f32 (Fmt.f32.infCode true)
  else match maxTop (l.filterMap topOf) with
    | none => if l ≠ [] ∧ l.all (fun t => match t with | .fin s _ _ => s | _ => false) then f32 (2 ^ 31) else 0
    | some top =>
      let t : Int := l.foldl (fun a x => a + windowTerm top x) 0
      rne32 fzo (exact (.fin (decide (t < 0)) t.natAbs (top - 27)))

/-- Order key of an FP32 pattern that is no NaN, with −0 below +0 (R165). -/
def ordKey (c : F32) : Int := if c.getLsbD 31 then -((c.toNat % 2 ^ 31 : Nat) : Int) - 1 else (c.toNat : Int)

/-- Value key of an FP32 pattern that is no NaN; the zeros are equal. -/
def valKey (c : F32) : Int := if c.getLsbD 31 then -((c.toNat % 2 ^ 31 : Nat) : Int) else (c.toNat : Int)

/-- fmin and fmax (R165): the lesser or greater, a single NaN gives the other, two give the canonical NaN. -/
def fminmax (greater : Bool) (a b : F32) : F32 × Fl :=
  let fl := nvIf ((num a).isSig || (num b).isSig)
  if (num a).isNan ∧ (num b).isNan then (f32 (Fmt.f32.nanCode false), fl)
  else if (num a).isNan then (b, fl)
  else if (num b).isNan then (a, fl)
  else (if decide (ordKey a < ordKey b) != greater then a else b, fl)

/-- FZO on an FP32 result that no rounding made (R150): a tiny one becomes a zero of its sign, with UF and NX. -/
def flushTiny (fzo : Bool) (r : F32 × Fl) : F32 × Fl :=
  if fzo ∧ r.1.toNat % 2 ^ 31 ≠ 0 ∧ r.1.toNat % 2 ^ 31 < 2 ^ 23 then (r.1 &&& 0x80000000, r.2 ||| flUF ||| flNX) else r

/-- A conversion into an integer range [lo, hi], truncating (R148). -/
def toInt (lo hi : Int) (x : Num) : Int × Fl :=
  match x with
  | .nan s _ => (if s then lo else hi, flNV ||| flNoNan)
  | .inf s => (if s then lo else hi, flNV)
  | .fin s m e =>
    let big := decide (200 < (Nat.log2 m : Int) + e) && m ≠ 0
    let t : Nat := if big then 2 ^ 200 else if 0 ≤ e then m <<< e.toNat else m >>> (-e).toNat
    let v : Int := if s then -(t : Int) else t
    if v < lo then (lo, flNV) else if hi < v then (hi, flNV)
    else (v, if e < 0 ∧ m % 2 ^ (-e).toNat ≠ 0 then flNX else 0)

/-- An integer as a value. -/
def ofInt (v : Int) : Num := .fin (decide (v < 0)) v.natAbs 0

/-- A narrow code as FZI reads it: a subnormal code is a zero of its sign (R149). -/
def Fmt.decodeFlush (f : Fmt) (fzi : Bool) (c : Nat) : Num :=
  match f.decode c with
  | .fin s m e => if fzi ∧ (c >>> f.fbits) % 2 ^ f.ebits = 0 then .fin s 0 e else .fin s m e
  | x => x

end Sys2Proof.Machine
end

