-- ==== Sys2Proof/Machine/Triple.lean ====
section
/-! DEFINITION. Partial triples: the record in memory (R290, R291), the Saddle merge (R292), normalisation (R293). -/

namespace Sys2Proof.Machine

def negInf32 : F32 := 0xFF800000
def posInf32 : F32 := 0x7F800000
def nan32 : F32 := 0x7FC00000

/-- Whether an FP32 pattern is a NaN. -/
def isNan32 (x : F32) : Bool := decide (0x7F800000 < x.toNat % 2 ^ 31)

/-- The empty triple: (−∞, +0, +0 …), FULLY-MASKED (R289). -/
def Triple.masked (d : Nat) : Triple := { m := negInf32, l := 0, o := List.replicate d 0, status := 1, voided := false }

/-- An INVALID triple: m, l and o are canonical NaN (R290). -/
def Triple.invalid (d : Nat) : Triple := { m := nan32, l := nan32, o := List.replicate d nan32, status := 2, voided := false }

/-- The greater of two FP32 values that are no NaN, with −0 below +0 (R165): so the merge is commutative (R292). -/
def maxF (a b : F32) : F32 := if ordKey a < ordKey b then b else a

/-- exp2c of the exact difference a − b, flushed (R289). -/
def expDiff (fzo : Bool) (a b : F32) : F32 := flushExp (exp2c fzo (addNum (num a) (num b).neg))

/-- Σ x_i · y_i, exact, and one rounding. -/
def dot2 (fzo : Bool) (a b c d : F32) : F32 :=
  rne32 fzo (addExact 0 (mulNum (num a) (num b)) (mulNum (num c) (num d)))

/-- The Saddle merge (R292); the VOID marks are joined. -/
def saddle (fzo : Bool) (x y : Triple) : Triple :=
  let v := x.voided || y.voided
  if x.status = 2 ∨ y.status = 2 then { Triple.invalid x.o.length with voided := v }
  else
    let m := maxF x.m y.m
    if m = negInf32 then { Triple.masked x.o.length with voided := v }
    else
      let f1 := expDiff fzo x.m m
      let f2 := expDiff fzo y.m m
      let l := dot2 fzo x.l f1 y.l f2
      let o := List.zipWith (fun a b => dot2 fzo a f1 b f2) x.o y.o
      if isNan32 l ∨ o.any isNan32 then { Triple.invalid x.o.length with voided := v }
      else { m := m, l := l, o := o, status := 0, voided := v }

/-- FP32 elements of 64-bit words, the low half first. -/
def halves (l : List Word) : List F32 := l.foldr (fun w t => w.extractLsb' 0 32 :: w.extractLsb' 32 32 :: t) []

/-- 64-bit words of FP32 elements. -/
def joinHalves : List F32 → List Word
  | a :: b :: t => (b ++ a) :: joinHalves t
  | [a] => [a.setWidth 64]
  | [] => []

/-- A partial record of 2 + d/2 words as R291 reads it. -/
def Triple.ofRecord (l : List Word) : Triple :=
  let m : F32 := (l.getD 0 0).extractLsb' 0 32
  let st := ((l.getD 1 0).toNat) % 256
  let o := halves (l.drop 2)
  let bad := decide (st = 3) || decide (3 < st) || decide ((l.getD 1 0).toNat / 256 ≠ 0) || decide (m = posInf32) ||
    (decide (st = 1) && decide (m ≠ negInf32)) || (decide (st = 0) && (isNan32 m || decide (m = negInf32))) || decide (st = 2)
  if bad then Triple.invalid o.length
  else if st = 1 then Triple.masked o.length
  else { m := m, l := (l.getD 0 0).extractLsb' 32 32, o := o, status := st, voided := false }

/-- The partial record of a triple (R291). -/
def Triple.record (t : Triple) : List Word :=
  ((t.l ++ t.m : Word)) :: BitVec.ofNat 64 t.status :: joinHalves t.o

/-- Normalisation of one element (R293): the quotient, correctly rounded into FP32 or BF16; +0 where l = +0. -/
def normElem (fzo bf : Bool) (t : Triple) (x : F32) : Nat :=
  let f := if bf then Fmt.bf16 else Fmt.f32
  if t.status = 2 then f.nanCode false
  else if t.status = 1 ∨ t.l = 0 then 0
  else (f.result 0 (fzo && !bf) (divExact (num x) (num t.l))).1

/-- The status that a normalised row reports (R293). -/
def normStatus (t : Triple) : Nat := if t.status = 0 ∧ t.l = 0 then 1 else t.status

end Sys2Proof.Machine
end

