-- ==== Sys2Proof/Machine/Attention.lean ====
section
/-! DEFINITION. The attention engine: its datapath (R283–R297) and its commands (R298–R312). -/

namespace Sys2Proof.Machine

/-- `at.erw`. -/
def execAtErw (a : BitVec 5) (n : BitVec 6) (s : State) : Host.Outcome State Fault Refusal := engErw .at a n s
/-- `at.err`. -/
def execAtErr (b : BitVec 5) (n : BitVec 6) (s : State) : Host.Outcome State Fault Refusal := engErr .at b n s

/-! ### Geometry (R298) -/

def atR (r : List Word) : Nat := fld (reg r 0) 0 5
def atD (r : List Word) : Nat := 64 * 2 ^ fld (reg r 0) 8 2
def atFmt (r : List Word) : Nat := fld (reg r 0) 12 4
def atH (r : List Word) : Nat := fld (reg r 0) 16 8
def atHead (r : List Word) : Nat := fld (reg r 0) 24 8
def atBf (r : List Word) : Bool := bit (reg r 0) 32
/-- Element size of a KV format (R285). -/
def kvBytes (fmt : Nat) : Nat := if fmt = 1 then 2 else 1
/-- The format of a KV format code (R284). -/
def kvFmt (fmt : Nat) : Fmt := if fmt = 1 then .bf16 else if fmt = 3 then .e5m2 else .e4m3

/-- Whether register `i` keeps the limits of R298. -/
def atRegOk (r : List Word) (i : Nat) : Bool :=
  let v := (reg r i).toNat
  match i with
  | 0 => decide (v < 2 ^ 33) && decide (fld (reg r 0) 10 2 = 0) && decide (fld (reg r 0) 5 3 = 0) && decide (1 ≤ atR r) &&
      decide (atR r ≤ 16) && decide (fld (reg r 0) 8 2 < 3) && (atFmt r = 1 || atFmt r = 3 || atFmt r = 4) &&
      decide (1 ≤ atH r) && decide (atH r ≤ 64) && decide (atHead r < atH r)
  | 1 => v % 128 = 0
  | 3 => decide (v < 65536)
  | 5 => v % 64 = 0
  | 6 => decide (fld (reg r 6) 32 32 % 64 = 0) && decide (128 ≤ fld (reg r 6) 32 32) && decide (1 ≤ fld (reg r 6) 0 32)
  | 8 => v % 8 = 0
  | 9 => v % 128 = 0
  | 10 => v % 128 = 0
  | 2 | 4 | 7 | 11 => decide (v < 2 ^ 32)
  | _ => true

/-- Check 2 of R301 over the registers a command uses. -/
def atLimits (r : List Word) (used : List Nat) : Except Stop Unit :=
  match used.find? (fun i => !atRegOk r i) with
  | some i => throw (.trap 0x42 (word i))
  | none => pure ()

/-- The attention context of the executing slot. -/
def State.atCtx (s : State) (inst ctx : Nat) : AtCtx := tabGet .empty s.atc (inst * 4 + ctx)
/-- Replaces an attention context. -/
def State.setAt (s : State) (inst ctx : Nat) (x : AtCtx) : State := { s with atc := tabPut .empty s.atc (inst * 4 + ctx) x }

/-- R, d of the queries that a command accepted now finds latched: those of the last `at.q` accepted, if no `at.reset` came
after it (R299, R311). -/
def State.atLatched (s : State) (c : Nat × Nat) : Option (Nat × Nat) :=
  let x := s.atCtx c.1 c.2
  ((s.cmdsOf .at c.1 c.2).filter (fun m => !m.finished)).foldl (fun l m =>
    if m.op = 2 then some (atR m.regs, atD m.regs) else if m.op = 9 then none else l)
    (if x.latched then some (x.rows, x.d) else none)

/-- R299: queries must be latched, and the snapshot must agree with the latched R and d. -/
def State.atCheck (s : State) (c : Nat × Nat) (r : List Word) : Except Stop Unit :=
  if s.atLatched c ≠ some (atR r, atD r) then throw (.trap 0x42 0x100) else pure ()

/-- R20: a command is accepted when its context has space. -/
def State.atSpace (s : State) (c : Nat × Nat) : Except Stop Unit :=
  if Config.atDepth ≤ s.pending .at c.1 c.2 then throw (.park (.accept .at c.1 c.2)) else pure ()

/-! ### Commands at acceptance -/

/-- What an `at.q` latches, and the triples and marks that it resets (R299, R302). -/
def AtCtx.latch (x : AtCtx) (c : Cmd) : AtCtx :=
  let r := c.regs
  { x with
    latched := true, rows := atR r, d := atD r, scale := (reg r 2).setWidth 32, frame := c.b.toNat, qpos := (reg r 4).toNat,
    ctxid := fld c.who.ctxid 0 20, ftb := c.who.ftb, q := List.replicate (atR r) [],
    triples := List.replicate (atR r) (.masked (atD r)), fail := 0 }

/-- `at.q` (R302). The context's state changes in acceptance order (R311): the latch is the first thing that the accepted
command does, once the commands before it have completed. -/
def execAtQ (s : State) : Host.Outcome State Fault Refusal :=
  run s do
    let sl := s.me
    let c := s.myCtx .at
    let r := s.snap .at c.1 c.2 12
    atLimits r [0, 1, 2, 3, 4]
    if reg r 3 = 0 ∧ sl.fd = 0 then throw (.trap 0x42 3)
    if 2 ^ 32 - 1 < (reg r 4).toNat + atR r - 1 then throw (.trap 0x42 4)
    s.atSpace c
    let f := if reg r 3 = 0 then sl.fp else reg r 3
    pure ((s.accept .at c { Cmd.start 2 s.who 0 f r 0 s.time.toNat with awaits := 1 }).setMe sl.advance)

/-- Lane `j` of a block list, read unsigned (R303). -/
def vlane (v : VWord) (j : Nat) : Nat := (v.extractLsb' (32 * j) 32).toNat

/-- The limits of a header (R286) and of its body (R303). -/
def headOk (l : List Word) (ctxid fmt h d bsize : Nat) : Bool :=
  let v := wordsNat l
  let soff := nf v 128 32
  let k0 := (soff + 16 * h + 63) / 64 * 64
  decide (nf v 0 32 = ctxid) && decide (nf v 104 24 = 0) && decide (nf v 160 352 = 0) && decide (nf v 96 8 = fmt) &&
    decide (nf v 48 16 ≤ 64) && decide (soff % 2 = 0) && decide (64 ≤ soff) && decide (k0 + 128 * h * d * kvBytes fmt ≤ bsize)

/-- Reads and checks the headers of the named blocks in lane order (R303). Headers are context structures (R398), which the engine
reads through its own TLB (DEDUCED, R33: the table gives the attention engine one). -/
def State.readHeads (s : State) (w : Who) (r : List Word) (v : VWord) (j : Nat) : Nat → Except Stop (List KvHead × State)
  | 0 => pure ([], s)
  | n + 1 => do
    let i := vlane v j
    if fld (reg r 6) 0 32 ≤ i then throw (.trap 0x40 (word i))
    let (l, s) ← s.ctxWords w .attn (reg r 5 + word (i * fld (reg r 6) 32 32)) 8
    if headOk l (fld w.ctxid 0 20) (atFmt r) (atH r) (atD r) (fld (reg r 6) 32 32) = false then throw (.trap 0x41 (word i))
    let x := wordsNat l
    let (t, s) ← s.readHeads w r v (j + 1) n
    pure ({ block := i, frame := nf x 32 16, hbase := nf x 64 32, valid := nf x 48 16, soff := nf x 128 32 } :: t, s)

/-- Where the destination of row `i` of `at.out` lies, and how many words it has (R308). -/
def outAddr (c : Cmd) (i : Nat) : Word × Nat :=
  let d := atD c.regs
  if c.b = 0 then (reg c.regs 8 + word (i * (16 + 4 * d)), 2 + d / 2)
  else
    let w := if atBf c.regs then 2 else 4
    (reg c.regs 9 + word (i * d * w), d * w / 8)

/-- The virtual ranges that an attention command writes: the destinations of `at.out`, the fold state of `at.fold`. -/
def Cmd.atWrites (c : Cmd) : List (Word × Nat) :=
  match c.op with
  | 8 => [((outAddr c 0).1, 8 * (outAddr c 0).2 * atR c.regs)]
  | 5 => [(reg c.regs 10, 4 * (atD c.regs * atD c.regs + atD c.regs))]
  | _ => []

/-- Acceptance waits while an outstanding command of the thread's stream in the context writes bytes that it reads (R66). -/
def State.atWaits (s : State) (c : Nat × Nat) (w : Who) (reads : List (Word × Nat)) : Except Stop Unit :=
  let l := s.streamOf .at c.1 c.2 w.core w.slot
  if l.all (fun e => s.apartIn .attn e.who w e.atWrites reads) then pure () else throw (.park (.stream .at c.1 c.2 l.length))

/-- The shared part of `at.kv` and `at.fold`: checks, headers, acceptance. -/
def atBlocks (op : Nat) (used : List Nat) (latched : Bool) (a : BitVec 5) (v : BitVec 4) (s : State) :
    Host.Outcome State Fault Refusal :=
  run s do
    let sl ← s.me.gate [.g a, .v v]
    let c := s.myCtx .at
    let r := s.snap .at c.1 c.2 12
    atLimits r used
    if latched then s.atCheck c r
    let n := (sl.gv a).toNat
    if n = 0 ∨ 32 < n then throw (.trap 0x42 (sl.gv a))
    s.atSpace c
    let w := s.who
    s.atWaits c w ((List.range n).map (fun j => (reg r 5 + word (vlane (sl.vv v) j * fld (reg r 6) 32 32), 64)))
    let (h, s) ← s.readHeads w r (sl.vv v) 0 n
    let cmd := { Cmd.start op w (sl.gv a) 0 r 0 s.time.toNat with heads := h }
    pure ((s.accept .at c cmd).setMe sl.advance)

/-- `at.kv gA, vN` (R303). -/
def execAtKv (a : BitVec 5) (v : BitVec 4) (s : State) : Host.Outcome State Fault Refusal := atBlocks 3 [0, 5, 6] true a v s

/-- `at.fold gA, vN` (R305). -/
def execAtFold (a : BitVec 5) (v : BitVec 4) (s : State) : Host.Outcome State Fault Refusal :=
  atBlocks 5 [0, 5, 6, 10] false a v s

/-- Whether node `j`'s mask is valid among the masks of a tree (R304). -/
def maskOk (l : List Word) (j : Nat) : Bool :=
  let m := l.getD j 0
  bit m j && decide (m.toNat < 2 ^ (j + 1)) &&
    (List.range j).all (fun i => !bit m i || decide (l.getD i 0 &&& ~~~m = 0))

/-- `at.tree gA, gB` (R304). -/
def execAtTree (a b : BitVec 5) (s : State) : Host.Outcome State Fault Refusal :=
  run s do
    let sl ← s.me.gate [.g a, .g b]
    let c := s.myCtx .at
    let r := s.snap .at c.1 c.2 12
    atLimits r [7]
    let n := (sl.gv b).toNat
    if 64 < n then throw (.trap 0x43 (sl.gv b))
    if 2 ^ 32 < (reg r 7).toNat + n then throw (.trap 0x43 (sl.gv b))
    if (sl.gv a).toNat % 8 ≠ 0 then throw (.trap 0x05 (sl.gv a))
    s.atSpace c
    let w := s.who
    s.atWaits c w [(sl.gv a, 8 * n)]
    let (l, s) ← s.engReadWords w .attn (sl.gv a) n
    match (List.range n).find? (fun j => !maskOk l j) with
    | some j => throw (.trap 0x43 (word j))
    | none => pure ()
    pure ((s.accept .at c (.start 4 w 0 0 (r ++ l) 0 s.time.toNat)).setMe sl.advance)

/-- `at.lin` (R306). -/
def execAtLin (s : State) : Host.Outcome State Fault Refusal :=
  run s do
    let c := s.myCtx .at
    let r := s.snap .at c.1 c.2 12
    atLimits r [0, 10, 11]
    s.atCheck c r
    s.atSpace c
    pure ((s.accept .at c (.start 6 s.who 0 0 r 0 s.time.toNat)).setMe s.me.advance)

/-- `at.merge gA` (R307). -/
def execAtMerge (a : BitVec 5) (s : State) : Host.Outcome State Fault Refusal :=
  run s do
    let sl ← s.me.gate [.g a]
    let c := s.myCtx .at
    let r := s.snap .at c.1 c.2 12
    atLimits r [0]
    s.atCheck c r
    if (sl.gv a).toNat % 8 ≠ 0 then throw (.trap 0x05 (sl.gv a))
    s.atSpace c
    pure ((s.accept .at c (.start 7 s.who (sl.gv a) 0 r 0 s.time.toNat)).setMe sl.advance)

/-- `at.out k` (R308). -/
def execAtOut (k : BitVec 1) (s : State) : Host.Outcome State Fault Refusal :=
  run s do
    let c := s.myCtx .at
    let r := s.snap .at c.1 c.2 12
    atLimits r [0, if k = 0 then 8 else 9]
    s.atCheck c r
    s.atSpace c
    pure ((s.accept .at c (.start 8 s.who 0 (word k.toNat) r 0 s.time.toNat)).setMe s.me.advance)

/-- `at.reset` (R309): ends the earlier commands; its own effect comes when they have stopped. It is accepted whether or not the queue
has space, since it ends what fills it (DESIGN CHOICE, log entry 13). -/
def execAtReset (s : State) : Host.Outcome State Fault Refusal :=
  run s do
    let c := s.myCtx .at
    let s := s.setCmds .at c.1 c.2 ((s.cmdsOf .at c.1 c.2).map (fun x => if x.finished then x else x.end 2 0 0))
    pure ((s.accept .at c (.start 9 s.who 0 0 [] 0 s.time.toNat)).setMe s.me.advance)

/-! ### The datapath -/

/-- A BF16 value. -/
def bf (c : Nat) : Num := Fmt.bf16.decode c

/-- Elements of `eb` bytes from a row of bytes held as one number. -/
def elems (v eb n : Nat) : List Nat := (List.range n).map (fun i => nf v (8 * eb * i) (8 * eb))

/-- Offsets in a block (R285). -/
def kStart (soff h : Nat) : Nat := (soff + 16 * h + 63) / 64 * 64

/-- Reads the scaled keys or values of token `j` (R285): `val` chooses the value half. FZI acts on narrow elements only (R149). -/
def State.readToken (s : State) (w : Who) (r : List Word) (k : KvHead) (val : Bool) (j : Nat) :
    Except Stop (List Num × State) := do
  let base := reg r 5 + word (k.block * fld (reg r 6) 32 32)
  let h := atHead r
  let hn := atH r
  let d := atD r
  let eb := kvBytes (atFmt r)
  let (sc, s) ← s.engRead w .attn (base + word (k.soff + 2 * ((if val then 4 * hn else 0) + 4 * h + j / 16))) 2
  let off := kStart k.soff hn + (if val then 64 * hn * d * eb else 0) + (64 * h + j) * d * eb
  let (l, s) ← s.engReadWords w .attn (base + word off) (d * eb / 8)
  pure ((elems (wordsNat l) eb d).map (fun e => mulNum (bf sc) ((kvFmt (atFmt r)).decodeFlush (bit w.fpcsr 2 && decide (atFmt r ≠ 1)) e)), s)

/-- Reads tokens `j`, `j + 1`, …. -/
def State.readTokens (s : State) (w : Who) (r : List Word) (k : KvHead) (val : Bool) (j : Nat) :
    Nat → Except Stop (List (List Num) × State)
  | 0 => pure ([], s)
  | n + 1 => do
    let (x, s) ← s.readToken w r k val j
    let (l, s) ← s.readTokens w r k val (j + 1) n
    pure (x :: l, s)

/-- Cuts a list into pieces of 32. -/
def chunks32 {α : Type} : Nat → List α → List (List α)
  | 0, _ => []
  | n + 1, l => l.take 32 :: chunks32 n (l.drop 32)

/-- The score of a row and a key (R288). -/
def score (fzo : Bool) (q k : List Num) (sigma : F32) : F32 :=
  let ts := (chunks32 (k.length / 32) (List.zipWith mulNum q k)).map (window28 fzo)
  let acc := match ts with
    | [] => 0
    | t :: r => r.foldl (fun a t => rne32 fzo (addExact 0 (num a) (num t))) t
  rne32 fzo (mulExact (num acc) (num sigma))

/-- rne(x, BF16) of an FP32 pattern, as a value. -/
def toBf (x : F32) : Num := bf (Fmt.bf16.conv 0 false (num x)).1

/-- The online update of a row by one block (R289): `ss` holds 64 scores, `vs` the values of the tokens present. A key whose score is
−∞ is masked and contributes no term (R287, R288). -/
def blockUpdate (fzo : Bool) (t : Triple) (ss : List F32) (vs : List (List Num)) : Triple :=
  if t.status = 2 then t
  else if ss.any (fun x => isNan32 x || decide (x = posInf32)) then { Triple.invalid t.o.length with voided := t.voided }
  else
    let m := ss.foldl maxF t.m
    if m = negInf32 then t
    else
      let p := ss.map (fun x => if x = negInf32 then bf 0 else toBf (expDiff fzo x m))
      let f := expDiff fzo t.m m
      let l := rne32 fzo (exact (addNum (mulNum (num t.l) (num f)) (sumNum p)))
      let term (i j : Nat) : Num := mulNum (p.getD j (.fin false 0 0)) ((vs.getD j []).getD i (.fin false 0 0))
      let o := (List.range t.o.length).map (fun i =>
        let half (b : Nat) : List Nat := ((List.range 32).map (b + ·)).filter (fun j => decide (ss.getD j negInf32 ≠ negInf32))
        let h0 := window28 fzo ((half 0).map (term i))
        let h1 := window28 fzo ((half 32).map (term i))
        let h := rne32 fzo (addExact 0 (num h0) (num h1))
        rne32 fzo (fmaExact 0 (num (t.o.getD i 0)) (num f) (num h)))
      if isNan32 l ∨ o.any isNan32 then { Triple.invalid t.o.length with voided := t.voided }
      else { m := m, l := l, o := o, status := 0, voided := t.voided }

/-! ### Visibility (R266, R287, R304) -/

/-- The tree-mask test of R304 in place of k ≤ p. -/
def treeTest (x : AtCtx) (p k : Nat) : Bool :=
  let n := x.tree.length
  if x.treeBase ≤ k ∧ k < x.treeBase + n ∧ x.treeBase ≤ p ∧ p < x.treeBase + n then
    bit (x.tree.getD (p - x.treeBase) 0) (k - x.treeBase)
  else decide (k ≤ p)

/-- Whether key position `k` of a block of frame `g` is visible to a query at `p` in frame `f` (R266). -/
def visible (x : AtCtx) (fid gid : Nat) (f g : Frame) (p k : Nat) : Bool :=
  (g.cut = noCut || decide (k < g.base + g.cut)) &&
    ((fid = gid && (if f.spec ∧ x.tree ≠ [] then treeTest x p k else decide (k ≤ p))) ||
      (f.scope.take f.nscope).any (fun e => decide (e.1 ≤ k) && decide (k < e.1 + e.2)))

/-- The records of a query frame and a block's frame, read in the context at FTB; none masks every key (R286). A block keeps the name of a
frame that has been popped: R266 and R274 let the frame that took it over see its tokens through a scope entry, where R286 masks every key
of a frame whose record is free. Here the keys of a free record are visible through a scope entry, with no cut, and never as a frame's own
(DEDUCED, log entry 65). R286 speaks of the block's frame only: a query frame 0, above FMAX or free, and a header that is no good, mask
every key here (DESIGN CHOICE, log entry 63). A read that fails stops the command (R310). -/
def State.frames (s : State) (w : Who) (fid gid : Nat) : Except Stop (Option (Frame × Frame) × State) :=
  match s.head w .attn with
  | .error (.trap 0x35 _) => pure (none, s)
  | .error e => throw e
  | .ok (h, s) => do
    if fid = 0 ∨ h.fmax < fid ∨ gid = 0 ∨ h.fmax < gid then return (none, s)
    let (f, s) ← s.frame w .attn fid
    let (g, s) ← s.frame w .attn gid
    pure (if f.depth = 0 then none else some (f, if g.depth = 0 then { g with cut := noCut } else g), s)

/-- Who reads frame records for a context: the issuer, with the latched context. -/
def AtCtx.who (x : AtCtx) (w : Who) : Who := { w with ftb := x.ftb, ctxid := word x.ctxid }

/-- One block applied to every row (R289). -/
def State.atApply (s : State) (inst ctx : Nat) (c : Cmd) (k : KvHead) : Except Stop State := do
  let x := s.atCtx inst ctx
  let fzo := bit c.who.fpcsr 3
  let (fr, s) ← s.frames (x.who c.who) x.frame k.frame
  let (ks, s) ← s.readTokens c.who c.regs k false 0 k.valid
  let (vs, s) ← s.readTokens c.who c.regs k true 0 k.valid
  let row (i : Nat) (t : Triple) : Triple :=
    let q := (x.q.getD i []).map (fun e => bf e.toNat)
    let ss := (List.range 64).map (fun j =>
      match fr with
      | none => negInf32
      | some (f, g) =>
        if j < k.valid ∧ visible x x.frame k.frame f g (x.qpos + i) (k.hbase + j) then score fzo q (ks.getD j []) x.scale
        else negInf32)
    blockUpdate fzo t ss vs
  let ts := x.triples.zipIdx.map (fun e => row e.2 e.1)
  pure ((s.setAt inst ctx { x with triples := ts }).setActive .at inst ctx
    { c with pos := c.pos + 1, finished := decide (c.heads.length ≤ c.pos + 1) })

/-! ### Linear fold (R294, R295) -/

/-- The FP32 value of log2 e. -/
def l2e : F32 := 0x3FB8AA3B

/-- The feature map φ of an FP32 value. -/
def phi (fzo : Bool) (x : F32) : F32 :=
  if 0 < valKey x ∧ !isNan32 x then rne32 fzo (addExact 0 (num x) (ofInt 1))
  else flushExp (exp2c fzo (num (rne32 fzo (mulExact (num x) (num l2e)))))

/-- Applies one key and value to the fold state (S row-major, then z). -/
def foldKey (fzo : Bool) (d : Nat) (st : List F32) (k v : List Num) : List F32 :=
  let ph := k.map (fun e => phi fzo (rne32 fzo (exact e)))
  let rv := v.map (fun e => rne32 fzo (exact e))
  let srow (i : Nat) : List F32 := (List.range d).map (fun c =>
    rne32 fzo (fmaExact 0 (num (ph.getD i 0)) (num (rv.getD c 0)) (num (st.getD (d * i + c) 0))))
  ((List.range d).map srow).flatten ++
    (List.range d).map (fun i => rne32 fzo (addExact 0 (num (st.getD (d * d + i) 0)) (num (ph.getD i 0))))

/-- Writes words of an engine from `va` on, each FULL by its own release; they need presence (R44). -/
def State.engPut (s : State) (w : Who) (u : TlbUnit) (p : Presence) (va : Word) : List Word → Except Stop State
  | [] => pure s
  | x :: t => do
    let s ← s.engWord w u true va x p
    s.engPut w u p (va + 8) t

/-- `n` words from `va` on, set VOID; they need presence (R44). -/
def State.engVoids (s : State) (w : Who) (u : TlbUnit) (va : Word) : Nat → Except Stop State
  | 0 => pure s
  | n + 1 => do
    let s ← s.engVoid w u true va
    s.engVoids w u (va + 8) n

/-- One block folded into the state at FOLDS. A block without a key to fold changes no word, and so reads and writes none (R305); `ovr`
tells that the fold state has been written. -/
def State.atFoldBlock (s : State) (inst ctx : Nat) (c : Cmd) (k : KvHead) : Except Stop State := do
  let d := atD c.regs
  let fzo := bit c.who.fpcsr 3
  let (fr, s) ← s.frames c.who k.frame k.frame
  let (ks, s) ← s.readTokens c.who c.regs k false 0 k.valid
  let (vs, s) ← s.readTokens c.who c.regs k true 0 k.valid
  let below (j : Nat) : Bool := match fr with
    | none => false
    | some (_, g) => g.cut = noCut || decide (k.hbase + j < g.base + g.cut)
  let keys := (List.range k.valid).filter below
  let s ← if keys = [] then pure s else (do
    let (l, s) ← s.engReadWords c.who .attn (reg c.regs 10) ((d * d + d) / 2)
    s.engPut c.who .attn .full (reg c.regs 10)
      (joinHalves (keys.foldl (fun st j => foldKey fzo d st (ks.getD j []) (vs.getD j [])) (halves l))))
  pure (s.setActive .at inst ctx
    { c with pos := c.pos + 1, ovr := c.ovr || decide (keys ≠ []), finished := decide (c.heads.length ≤ c.pos + 1) })

/-- The linear partial of a row (R295). -/
def linPartial (fzo : Bool) (d : Nat) (st : List F32) (q : List (BitVec 16)) (m : F32) : Triple :=
  let ph := q.map (fun e => num (phi fzo (rne32 fzo (exact (bf e.toNat)))))
  let l := window28 fzo ((List.range d).map (fun i => mulNum (ph.getD i (.fin false 0 0)) (num (st.getD (d * d + i) 0))))
  let o := (List.range d).map (fun c =>
    window28 fzo ((List.range d).map (fun i => mulNum (ph.getD i (.fin false 0 0)) (num (st.getD (d * i + c) 0)))))
  if isNan32 l ∨ o.any isNan32 ∨ isNan32 m ∨ m = posInf32 then .invalid d else { m := m, l := l, o := o, status := 0, voided := false }

/-- `at.lin` performed: the linear partial of each row merged into it (R306). -/
def State.atLinear (s : State) (inst ctx : Nat) (c : Cmd) : Except Stop State := do
  let x := s.atCtx inst ctx
  let fzo := bit c.who.fpcsr 3
  let (l, s) ← s.engReadWords c.who .attn (reg c.regs 10) ((x.d * x.d + x.d) / 2)
  let ts := x.triples.zipIdx.map (fun e =>
    saddle fzo e.1 (linPartial fzo x.d (halves l) (x.q.getD e.2 []) ((reg c.regs 11).setWidth 32)))
  pure ((s.setAt inst ctx { x with triples := ts }).setActive .at inst ctx { c with finished := true })

/-! ### Outputs -/

/-- Elements of `w` bytes packed into words. -/
def packElems (w : Nat) (l : List Nat) : List Word :=
  natWords (l.length * w / 8) (l.foldr (fun e a => e % 2 ^ (8 * w) + a * 2 ^ (8 * w)) 0)

/-- The words that a row's destination receives. -/
def outWords (c : Cmd) (t : Triple) : List Word :=
  if c.b = 0 then t.record
  else packElems (if atBf c.regs then 2 else 4) (t.o.map (normElem (bit c.who.fpcsr 3) (atBf c.regs) t))

/-- Whether row `i` lies at or beyond the cut of its frame (R278). -/
def rowCut (f : Option Frame) (x : AtCtx) (i : Nat) : Bool :=
  match f with
  | none => false
  | some f => f.spec && decide (f.cut ≠ noCut) && decide (f.base + f.cut ≤ x.qpos + i)

/-- Writes the destinations of rows `i`, `i + 1`, …; the number holds their statuses for STAT. -/
def State.atRows (s : State) (c : Cmd) (x : AtCtx) (f : Option Frame) (i : Nat) : List Triple → Except Stop (Nat × State)
  | [] => pure (0, s)
  | t :: r => do
    let (va, n) := outAddr c i
    let v := t.voided || rowCut f x i
    let s ← if v then s.engVoids c.who .attn va n else s.engPut c.who .attn .full va (outWords c t)
    let (st, s) ← s.atRows c x f (i + 1) r
    pure ((if v then 3 else if c.b = 0 then t.status else normStatus t) * 4 ^ i + st, s)

/-- The query frame's record, if it is live. -/
def State.queryFrame (s : State) (w : Who) (fid : Nat) : Except Stop (Option Frame × State) := do
  let (r, s) ← s.frames w fid fid
  pure (r.map (·.1), s)

/-- STAT.rows as the last `at.out` leaves it (R298); STAT stays EMPTY until the context is idle (R21). -/
def State.atRowsStat (s : State) (inst ctx st : Nat) : State := s.setEr .at inst ctx 12 (word st) (s.erp .at inst ctx 12).2

/-- `at.out` performed. -/
def State.atOutput (s : State) (inst ctx : Nat) (c : Cmd) : Except Stop State := do
  let x := s.atCtx inst ctx
  let (f, s) ← s.queryFrame (x.who c.who) x.frame
  let (st, s) ← s.atRows c x f 0 x.triples
  pure ((s.atRowsStat inst ctx st).setActive .at inst ctx { c with finished := true })

/-- VOID into the destinations of rows. -/
def State.voidRows (s : State) (c : Cmd) : List Nat → Except Stop State
  | [] => pure s
  | i :: t => do
    let s ← s.voidWords c.who .attn c.declined (outAddr c i).1 (outAddr c i).2
    s.voidRows c t

/-- A command that ends early: its unwritten destination words become VOID, and it has stopped (R309, R310, R396). -/
def State.atEnded (s : State) (inst ctx : Nat) (c : Cmd) : Except Stop State := do
  let s ← if c.op = 8 then s.voidRows c (List.range (atR c.regs))
    else if c.op = 5 ∧ c.ovr = false then
      s.voidWords c.who .attn c.declined (reg c.regs 10) ((atD c.regs * atD c.regs + atD c.regs) / 2)
    else pure s
  let s := if c.op = 8 ∧ (c.ending.map (·.1)) = some 1 then s.atRowsStat inst ctx (4 ^ atR c.regs - 1) else s
  pure (s.setActive .at inst ctx { c with finished := true })

/-- How an attention command goes on: a miss holds it; a failed read or write stops it, with STAT.fail and every row
VOID (R310); a wait leaves everything. A failed tag quarantines the page (R51). The cycles of a unit are counted (R258). -/
def State.atResult (s : State) (inst ctx : Nat) (c : Cmd) (r : Except Stop State) : Host.Outcome State Fault Refusal :=
  match r with
  | .ok t => .next (if t = s then s else t.countTimed c.who.acct.toNat 16)
  | .error (.miss m) => .next (s.engMiss .at inst ctx c m)
  | .error (.trap code va) =>
    let x := s.atCtx inst ctx
    let x := { x with fail := code, triples := x.triples.map (fun t => { t with voided := true }) }
    .next (((s.tagFails c.who .attn code va).setAt inst ctx x).setActive .at inst ctx (c.end 1 code 0))
  | .error (.park k) => .next (s.stalls c.who (.park k))
  | .error (.hold _ _) => .next s
  | .error (.read _ _) => .next s
  | .error (.stuck f) => .fault f

/-- ATTENTION_BLOCK_UPDATE: the next unit of the context's command at a block boundary (R283, R289): one block of `at.kv` or
`at.fold`, or the whole of `at.tree`, `at.lin`, `at.out`, `at.reset`. -/
def execAttentionBlockUpdate (quad ctx : Nat) (s : State) : Host.Outcome State Fault Refusal :=
  match s.active .at quad ctx with
  | none => .next s
  | some c =>
    if c.miss.isSome then .next s
    else s.atResult quad ctx c (
      if c.ending.isSome then s.atEnded quad ctx c
      else match c.op with
        | 3 => match c.heads[c.pos]? with
          | some k => s.atApply quad ctx c k
          | none => .ok (s.setActive .at quad ctx { c with finished := true })
        | 5 => match c.heads[c.pos]? with
          | some k => s.atFoldBlock quad ctx c k
          | none => .ok (s.setActive .at quad ctx { c with finished := true })
        | 4 => .ok ((s.setAt quad ctx { s.atCtx quad ctx with treeBase := (reg c.regs 7).toNat, tree := c.regs.drop 12 }).setActive
            .at quad ctx { c with finished := true })
        | 6 => s.atLinear quad ctx c
        | 8 => s.atOutput quad ctx c
        | 9 => .ok ((s.setAt quad ctx { AtCtx.empty with treeBase := 0 }).setActive .at quad ctx { c with finished := true })
        | _ => .ok s)

/-- QUERY_WORD_READ: the next query word of a pending `at.q`, once it is not EMPTY (R302). -/
def execQueryWordRead (quad ctx : Nat) (s : State) : Host.Outcome State Fault Refusal :=
  match s.active .at quad ctx with
  | none => .next s
  | some c =>
    if c.op ≠ 2 ∨ c.miss.isSome ∨ c.ending.isSome then .next s
    else if c.awaits ≠ 0 then .next ((s.setAt quad ctx ((s.atCtx quad ctx).latch c)).setActive .at quad ctx { c with awaits := 0 })
    else s.atResult quad ctx c (do
      let (v, s) ← s.engSync c.who .attn c.place (reg c.regs 1 + word (8 * c.pos))
      match v with
      | .error phys => let r := s.waits c phys; pure (r.2.setActive .at quad ctx r.1)
      | .ok (v, p) =>
        let x := s.atCtx quad ctx
        let i := c.pos / (x.d / 4)
        let es := (List.range 4).map (fun j => v.extractLsb' (16 * j) 16)
        let x := { x with q := x.q.modify i (· ++ es),
                          triples := if p = .void then x.triples.modify i (fun t => { t with voided := true }) else x.triples }
        pure ((s.setAt quad ctx x).setActive .at quad ctx
          { c with pos := c.pos + 1, place := none, finished := decide (x.rows * (x.d / 4) ≤ c.pos + 1) }))

/-- The words of the record being read, kept behind the twelve registers of the snapshot. -/
def recSoFar (c : Cmd) : List Word := c.regs.drop 12

/-- PARTIAL_RECORD_READ: the next word of a pending `at.merge`, once it is not EMPTY; a VOID word marks its row (R307). With its last
word, a record is merged into its row. -/
def execPartialRecordRead (quad ctx : Nat) (s : State) : Host.Outcome State Fault Refusal :=
  match s.active .at quad ctx with
  | none => .next s
  | some c =>
    if c.op ≠ 7 ∨ c.miss.isSome ∨ c.ending.isSome then .next s
    else s.atResult quad ctx c (do
      let x := s.atCtx quad ctx
      let n := 2 + x.d / 2
      let (v, s) ← s.engSync c.who .attn c.place (c.a + word (8 * (c.pos * n + (recSoFar c).length)))
      match v with
      | .error phys => let r := s.waits c phys; pure (r.2.setActive .at quad ctx r.1)
      | .ok (v, p) =>
        let l := recSoFar c ++ [v]
        let f (t : Triple) : Triple :=
          let t := { t with voided := t.voided || decide (p = .void) }
          if l.length < n then t else saddle (bit c.who.fpcsr 3) t (.ofRecord l)
        pure ((s.setAt quad ctx { x with triples := x.triples.modify c.pos f }).setActive .at quad ctx
          (if l.length < n then { c with place := none, regs := c.regs ++ [v] }
           else { c with place := none, regs := c.regs.take 12, pos := c.pos + 1, finished := decide (x.rows ≤ c.pos + 1) })))

/-- STAT of an attention context whose commands have completed (R298): the statuses of the last `at.out` stay. -/
def atStat (old : Word) (x : AtCtx) : Word := word (x.fail * 2 ^ 32 + old.toNat % 2 ^ 32)

end Sys2Proof.Machine
end

