-- ==== Sys2Proof/Machine/Copy.lean ====
section
/-! DEFINITION. The copy engine: R336–R345, and the shared parts of R21 for its STAT. Saves and restores are in Save. -/

namespace Sys2Proof.Machine

/-- `cp.erw`. -/
def execCpErw (a : BitVec 5) (n : BitVec 6) (s : State) : Host.Outcome State Fault Refusal := engErw .cp a n s
/-- `cp.err`. -/
def execCpErr (b : BitVec 5) (n : BitVec 6) (s : State) : Host.Outcome State Fault Refusal := engErr .cp b n s

/-- The kind in MODE: 0 plain, 1 strided, 2 register, 3 hash-verify. -/
def cpKind (r : List Word) : Nat := fld (reg r 6) 0 3
/-- STAMP in MODE. -/
def cpStamp (r : List Word) : Bool := bit (reg r 6) 5
/-- SWAIT in MODE. -/
def cpSwait (r : List Word) : Bool := bit (reg r 6) 4
/-- Rows of a copy: ROWS in the strided kind, else 1. -/
def cpRows (r : List Word) : Nat := if cpKind r = 1 then (reg r 5).toNat else 1

/-- Whether register `i` of a snapshot keeps its limits (R336, R338, R343); a register the kind does not use does. -/
def cpRegOk (r : List Word) (i : Nat) : Bool :=
  let v := (reg r i).toNat
  let k := cpKind r
  let len := (reg r 2).toNat
  match i with
  | 0 => v % (if k = 3 then 65536 else 8) = 0
  | 1 => if k = 2 then fld (reg r 1) 32 32 = 0 && fld (reg r 1) 9 7 = 0 && !(bit (reg r 1) 5 && bit (reg r 1) 4)
         else v % (if k = 3 then 65536 else 8) = 0
  | 2 => if k = 2 then v = (if bit (reg r 1) 5 then 128 else 8)
         else v % (if k = 3 then 65536 else 8) = 0 && decide (8 ≤ v) && decide (v ≤ 16777208)
  | 3 => k ≠ 1 || (v % 8 = 0 && decide (v < 2 ^ 32))
  | 4 => k ≠ 1 || (v % 8 = 0 && decide (v < 2 ^ 32) && decide (len ≤ v))
  | 5 => k ≠ 1 || (decide (1 ≤ v) && decide (v < 65536) && decide (len * v ≤ 16777208))
  | 6 => decide (v < 64) && !bit (reg r 6) 3 && decide (k < 4) && !(cpStamp r && decide (2 ≤ k)) && !(cpSwait r && k = 3)
  | 7 => v % 8 = 0
  | 8 => !cpStamp r || decide (v < 65536)
  | 9 => k ≠ 3 || v % 32 = 0
  | _ => true

/-- The next command id of a context (R338). -/
def cpNext (v : Nat) : Nat := if 0xFFFFFFFE ≤ v then 1 else v + 1

/-- `cp.go gB, gA` (R338). -/
def execCpGo (a b : BitVec 5) (s : State) : Host.Outcome State Fault Refusal :=
  run s do
    let sl ← s.me.gate [.g a]
    let c := s.myCtx .cp
    let r := s.snap .cp c.1 c.2 10
    match (List.range 10).find? (fun i => !cpRegOk r i) with
    | some i => throw (.trap 0x60 (word i))
    | none => pure ()
    let l := s.cmdsOf .cp c.1 c.2
    if Config.cpDepth ≤ s.pending .cp c.1 c.2 then throw (.park (.accept .cp c.1 c.2))
    let id := cpNext (tabGet 0 s.cpSerial (ctxKey .cp c.1 c.2))
    let w := (sl.gv a).toNat
    let cmd := { Cmd.start 2 s.who (sl.gv a) 0 r id s.time.toNat with awaits := if l.any (·.id = w) then w else 0 }
    let s := { s with cpSerial := tabPut 0 s.cpSerial (ctxKey .cp c.1 c.2) id }
    pure ((s.accept .cp c cmd).setMe (sl.wrG b (word id)).advance)

/-- `cp.cancel gA` (R341): ends the command of that id, or every one, saves and restores included; the thread waits for their
arrives. -/
def execCpCancel (a : BitVec 5) (s : State) : Host.Outcome State Fault Refusal :=
  run s do
    let sl ← s.me.gate [.g a]
    if s.me.ended (some .cp) then return s.setMe sl.advance
    let c := s.myCtx .cp
    let id := (sl.gv a).toNat
    let hit (x : Cmd) : Bool := !x.finished && (id = 0xFFFFFFFF || x.id = id)
    let l := s.cmdsOf .cp c.1 c.2
    if l.any hit then
      let s := s.setCmds .cp c.1 c.2 (l.map (fun x => if hit x then x.end 2 0 0 else x))
      pure (s.parkMe (.commands (some .cp) (ctxKey .cp c.1 c.2) (if id = 0xFFFFFFFF then none else some id)))
    else pure (s.setMe sl.advance)

/-! ### Which command may proceed (R20, R66, R338) -/

/-- Replaces an outstanding command of a copy context by its id. -/
def State.setCp (s : State) (cl ctx : Nat) (c : Cmd) : State :=
  s.setCmds .cp cl ctx ((s.cmdsOf .cp cl ctx).map (fun x => if x.id = c.id ∧ x.finished = false then c else x))

/-- A copy that has finished stands behind those that finished before it, and before those still outstanding: STAT describes the last to
complete (R336). -/
def State.finishCp (s : State) (cl ctx : Nat) (c : Cmd) : State :=
  let l := (s.cmdsOf .cp cl ctx).filter (fun x => x.finished || decide (x.id ≠ c.id))
  s.setCmds .cp cl ctx (l.filter (·.finished) ++ [{ c with finished := true }] ++ l.filter (fun x => !x.finished))

/-- The rows of stream bytes lo … lo + n − 1 of a copy, at a base address and a stride (R339). -/
def cpSegs (r : List Word) (base stride : Word) (lo n : Nat) : List (Word × Nat) :=
  let len := max 1 (reg r 2).toNat
  let step := if cpKind r = 1 then stride.toNat else 0
  if n = 0 then []
  else (List.range ((lo + n - 1) / len + 1 - lo / len)).map (fun i =>
    let row := lo / len + i
    let a := max lo (row * len)
    (base + word (row * step + (a - row * len)), min (lo + n) ((row + 1) * len) - a))

/-- The virtual ranges that a copy reads for stream bytes lo … lo + n − 1: its source, and its hash leaves. -/
def cpReads (r : List Word) (lo n : Nat) : List (Word × Nat) :=
  cpSegs r (reg r 0) (reg r 3) lo n ++
    (if cpKind r = 3 then [(reg r 9 + word (lo / 65536 * 32), (n + 65535) / 65536 * 32)] else [])

/-- The virtual ranges that a copy writes for them. -/
def cpWrites (r : List Word) (lo n : Nat) : List (Word × Nat) := if cpKind r = 2 then [] else cpSegs r (reg r 1) (reg r 4) lo n

/-- The completion word of a copy, if it has one. -/
def cpWord (r : List Word) : List (Word × Nat) := if reg r 7 = 0 then [] else [(reg r 7, 8)]

/-! ### Performing a copy -/

/-- Source and destination address of the word at stream offset `pos` (R339). -/
def cpAddr (r : List Word) (pos : Nat) : Word × Word :=
  let len := (reg r 2).toNat
  let row := pos / len
  let off := pos % len
  (reg r 0 + word (off + row * (reg r 3).toNat * (if cpKind r = 1 then 1 else 0)),
    reg r 1 + word (off + row * (reg r 4).toNat * (if cpKind r = 1 then 1 else 0)))

/-- Bytes of the whole stream. -/
def cpTotal (r : List Word) : Nat := (reg r 2).toNat * cpRows r

/-- The stream offsets of the words, from `pos` on, that lie in the 2^bits-byte page of the destination of `pos`. -/
def cpChunk (r : List Word) (bits pos : Nat) : List Nat :=
  let page := (cpAddr r pos).2.toNat / 2 ^ bits
  ((List.range ((cpTotal r - pos) / 8)).map (fun i => pos + 8 * i)).takeWhile
    (fun p => decide ((cpAddr r p).2.toNat / 2 ^ bits = page))

/-- A copy's write access: R45 for the weight store beside R25. A copy of another kind into a generation in use meets both faults of
R45; the in-use bit is tested first (DESIGN CHOICE, log entry 18). -/
def State.cpDest (s : State) (w : Who) (u : TlbUnit) (kind : Nat) (whole : Nat) (va : Word) :
    Except Stop (Page × Nat × State) := do
  let (p, phys, s) ← s.access w u { w.req .write 8 with copies := true, whole := whole } va
  if p.tgt = 4 ∧ s.generations.any (fun g => g.2.2 && decide (g.1 ≤ (phys - wsBase) / 65536) && decide ((phys - wsBase) / 65536 ≤ g.2.1)) then
    throw (.trap 0x06 va)
  if p.tgt = 4 ∧ kind ≠ 3 then throw (.trap 0x60 va)
  pure (p, phys, s)

/-- Checks the source of some stream offsets (R339, step 1). -/
def State.cpSource (s : State) (w : Who) (u : TlbUnit) (r : List Word) : List Nat → Except Stop State
  | [] => pure s
  | p :: t => do
    let (_, _, s) ← s.access w u (w.req .read 8) (cpAddr r p).1
    s.cpSource w u r t

/-- Reads the source words of some stream offsets (R339, step 2). With SWAIT it ends at the first word that must be waited for, and
answers that word's place in memory. -/
def State.cpRead (s : State) (w : Who) (u : TlbUnit) (r : List Word) (place : Option (Nat × Nat)) :
    List Nat → Except Stop (List (Word × Presence) × Option Nat × State)
  | [] => pure ([], none, s)
  | p :: t => do
    let va := (cpAddr r p).1
    let (x, s) ← if cpSwait r then s.engSync w u place va else (do
      let (v, s) ← s.engRead w u va 8
      pure (.ok (word v, Presence.full), s))
    match x with
    | .error phys => pure ([], some phys, s)
    | .ok x => do
      let (l, k, s) ← s.cpRead w u r place t
      pure (x :: l, k, s)

/-- Checks the destination of some stream offsets before anything is written, and answers their places in memory. -/
def State.cpCheck (s : State) (w : Who) (u : TlbUnit) (r : List Word) (whole : Nat) : List Nat → Except Stop (List Nat × State)
  | [] => pure ([], s)
  | p :: t => do
    let (_, phys, s) ← s.cpDest w u (cpKind r) whole (cpAddr r p).2
    let (l, s) ← s.cpCheck w u r whole t
    pure (phys :: l, s)

/-- Writes words at the destination of some stream offsets (R339, step 3); a whole line or page that is rewritten is
no longer poisoned (R52, R53). -/
def State.cpWrite (s : State) (w : Who) (u : TlbUnit) (r : List Word) (whole : Nat) :
    List (Nat × Word × Presence) → Except Stop State
  | [] => pure s
  | (p, v, pr) :: t => do
    let (pg, phys, s) ← s.cpDest w u (cpKind r) whole (cpAddr r p).2
    let s := if pr = .void then s.setPres phys .void
      else if hasPres phys then s.pokeWord phys v pr
      else if isFar phys then s.poke phys 8 v.toNat else s.putBytes w pg phys 8 v.toNat
    let s := s.rewritten w whole phys
    s.cpWrite w u r whole t

/-- The words of a far sector among some places. -/
def sectorWords (l : List Nat) (sector : Nat) : Nat := (l.filter (fun a => decide (a / 4096 = sector))).length

/-- Each far sector that a copy has written is written once, under a new version (R50, R344); one that is written whole has a new tag. -/
def State.sectors (s : State) (w : Who) (l : List Nat) : State :=
  ((l.filter isFar).map (· / 4096)).eraseDups.foldl (fun (s : State) k =>
    let s := s.versioned w.tenant (4096 * k)
    if sectorWords l k = 512 then { s with badTags := s.badTags.filter (· ≠ 4096 * k) } else s) s

/-- A far sector that a copy covers only in part is read and merged, so its tag is checked (R344). -/
def State.mergeTags (s : State) (l : List (Nat × Nat)) (r : List Word) : Except Stop Unit :=
  match l.find? (fun e => isFar e.2 && decide ((e.2 / 4096 * 4096) ∈ s.badTags) && decide (sectorWords (l.map (·.2)) (e.2 / 4096) < 512)) with
  | some e => throw (.trap 0x09 (cpAddr r e.1).2)
  | none => pure ()

/-- Bits [15:0] of the stamped word carry TAG (R342). -/
def stamped (r : List Word) (v : Word) : Word := (v &&& ~~~(0xFFFF : Word)) ||| (reg r 8 &&& 0xFFFF)

/-- The stamped word, after every other: its data with TAG, or VOID where the command ends early (R342); a page that cannot be written
is left (R396). -/
def State.cpLast (s : State) (u : TlbUnit) (c : Cmd) : Except Stop State :=
  let r := c.regs
  if cpStamp r = false then pure s
  else if c.ending = none then do
    let (l, s) ← s.cpCheck c.who u r 0 [0]
    s.mergeTags ([0].zip l) r
    let s ← s.cpWrite c.who u r 0 [(0, stamped r c.a, if c.b = 1 then .void else .full)]
    pure ((s.sectors c.who l).countEv c.who.acct.toNat 7 8)
  else if (cpAddr r 0).2.toNat / 65536 ∈ c.declined then pure s
  else match s.cpWrite c.who u r 0 [(0, 0, Presence.void)] with
    | .ok s => pure s
    | .error (.trap _ _) => pure s
    | .error e => throw e

/-- The end of a copy: the stamped word if there is one, its bytes, the arrive (R339, R342). -/
def State.cpFinish (s : State) (cl ctx : Nat) (c : Cmd) : Except Stop State := do
  let u := TlbUnit.copy cl
  let r := c.regs
  let s ← s.cpLast u c
  let (o, s) ← if cpStamp r then s.cwTake c.who u (reg r 7) 8 else pure (false, s)
  let (e, s) ← s.cwEngineArrive c.who u (reg r 7)
  pure (s.finishCp cl ctx { c with ovr := c.ovr || o, cwe := c.cwe || e })

/-- The bytes of words as SHA-256 reads them. -/
def wordBytes (l : List (Word × Presence)) : List Byte :=
  l.foldr (fun x t => (List.range 8).map (fun i => x.1.extractLsb' (8 * i) 8) ++ t) []

/-- A 256-bit value read from a leaf record: 32 bytes, first byte most significant. -/
def leafValue (l : List Word) : BitVec 256 :=
  (wordBytes (l.map (·, Presence.full))).foldl (fun (a : BitVec 256) b => (a <<< 8) ||| b.setWidth 256) 0

/-- The leaf that a hash-verify copy checks its page against (R343); a source page without the hashed bit is 0x0A. -/
def State.cpLeaf (s : State) (u : TlbUnit) (c : Cmd) : Except Stop (BitVec 256 × State) := do
  let (sp, _, s) ← s.translate c.who u .read (cpAddr c.regs c.pos).1
  if sp.hashed = false then throw (.trap 0x0A (cpAddr c.regs c.pos).1)
  let (h, s) ← s.engReadWords c.who u (reg c.regs 9 + word (32 * (c.pos / 65536))) 4
  pure (leafValue h, s)

/-- What of lines and pages a chunk of a copy rewrites whole: 2 pages of 64 KiB, 1 lines, else 0. -/
def cpWhole (r : List Word) (pos n : Nat) : Nat :=
  if cpKind r = 1 ∨ (cpAddr r pos).2.toNat % 128 ≠ 0 ∨ n % 16 ≠ 0 then 0
  else if (cpAddr r pos).2.toNat % 65536 = 0 ∧ n % 8192 = 0 then 2 else 1

/-- The bytes of a page are taken from the completion word, or, while an earlier command of the stream has still to touch that word, owed
(R66, R339). -/
def State.cpTake (s : State) (u : TlbUnit) (free : Bool) (c : Cmd) (n : Nat) : Except Stop (Cmd × State) :=
  if free ∧ c.owed = 0 then do
    let (o, s) ← s.cwTake c.who u (reg c.regs 7) n
    pure ({ c with ovr := c.ovr || o }, s)
  else pure ({ c with owed := c.owed + n }, s)

/-- One destination page of a plain, strided or hash-verify copy (R339, R343): every page is checked, then the source is read, then the
destination is written and its bytes are taken from the completion word. A stamped word is left to the end. `free` tells whether the
completion word may be updated now. -/
def State.cpPage (s : State) (cl ctx : Nat) (free : Bool) (c : Cmd) : Except Stop State := do
  let u := TlbUnit.copy cl
  let r := c.regs
  let (p0, phys, s) ← s.translate c.who u .write (cpAddr r c.pos).2
  let l := cpChunk r (if cpKind r = 3 then 16 else p0.bits) c.pos
  let whole := cpWhole r c.pos l.length
  let (at_, s) ← s.cpCheck c.who u r whole l
  s.mergeTags (l.zip at_) r
  let s ← s.cpSource c.who u r l
  let (hash, s) ← if cpKind r = 3 then s.cpLeaf u c else pure (0, s)
  let (d, wait, s) ← s.cpRead c.who u r c.place (l.drop c.got.length)
  let d := c.got ++ d
  match wait with
  | some phys => let x := s.waits { c with got := d } phys; pure (x.2.setCp cl ctx x.1)
  | none => do
    let out := (l.zip d).filter (fun e => !(cpStamp r && e.1 = 0))
    let s ← s.cpWrite c.who u r whole out
    let s := s.sectors c.who at_
    let s := s.countEv c.who.acct.toNat 7 (8 * out.length)
    let c := { c with got := [], place := none }
    let c := if cpStamp r ∧ c.pos = 0 then { c with a := (d.headD (0, .full)).1, b := if (d.headD (0, .full)).2 = .void then 1 else 0 } else c
    let page := phys / 65536 * 65536
    let others := s.badHash.filter (fun e => decide (e.1 ≠ page))
    if cpKind r = 3 ∧ sha256 (wordBytes d) ≠ hash then
      pure (({ s with badHash := (page, []) :: others }).setCp cl ctx (c.end 1 0x0A 0))
    else
      let s := if cpKind r = 3 then { s with badHash := others } else s
      let (c, s) ← s.cpTake u free c (8 * out.length)
      pure (s.setCp cl ctx { c with pos := c.pos + 8 * l.length })

/-- One destination page of a copy that ends early (R340): VOID in every word, which count as delivered; a page that cannot be written is
left (R396). -/
def State.cpVoidPage (s : State) (cl ctx : Nat) (free : Bool) (c : Cmd) : Except Stop State := do
  let u := TlbUnit.copy cl
  let r := c.regs
  let bits := match s.translate c.who u .write (cpAddr r c.pos).2 with
    | .ok (p, _, _) => p.bits
    | .error _ => 16
  let l := cpChunk r bits c.pos
  let out := l.filter (fun p => !(cpStamp r && p = 0))
  let s ← if (cpAddr r c.pos).2.toNat / 65536 ∈ c.declined then pure s
    else match s.cpCheck c.who u r 0 out with
      | .ok (_, s) => s.cpWrite c.who u r 0 (out.map (fun p => (p, 0, Presence.void)))
      | .error (.trap _ _) => pure s
      | .error e => throw e
  let (c, s) ← s.cpTake u free c (8 * out.length)
  pure (s.setCp cl ctx { c with pos := c.pos + 8 * l.length, got := [] })

/-- The read of a register-kind copy (R345): its value waits for the target core. -/
def State.cpRegRead (s : State) (cl ctx : Nat) (c : Cmd) : Except Stop State := do
  let r := c.regs
  let l := (List.range ((reg r 2).toNat / 8)).map (8 * ·)
  let s ← s.cpSource c.who (.copy cl) r l
  let (d, wait, s) ← s.cpRead c.who (.copy cl) r c.place (l.drop c.got.length)
  let d := c.got ++ d
  match wait with
  | some phys => let x := s.waits { c with got := d } phys; pure (x.2.setCp cl ctx x.1)
  | none =>
    let v : VWord := d.foldr (fun x (a : VWord) => (a <<< 64) ||| x.1.setWidth 1024) 0
    let void := d.any (fun x => decide (x.2 = .void))
    pure (s.setCp cl ctx
      { c with pos := cpTotal r, got := [], place := none, vec := if void then 0 else v, b := if void then 1 else 0 })

/-- How a failure inside a copy goes on: a miss holds the command, a wait leaves everything as it was, any other failure
ends the command under R340; a failed completion word is not updated again (R399), and a failed tag quarantines its page (R51). -/
def State.cpResult (s : State) (cl ctx : Nat) (c : Cmd) (x : Except Stop State) : Host.Outcome State Fault Refusal :=
  match x with
  | .ok t => .next t
  | .error (.miss m) => .next ((s.setCp cl ctx { c with miss := some m }).sendMiss c.who.core none c.who.acct.toNat m)
  | .error (.trap code va) =>
    let c := if code = 0x62 then { c with regs := c.regs.set 7 0 } else c
    .next ((s.tagFails c.who (.copy cl) code va).setCp cl ctx (c.end 1 code 0))
  | .error (.park k) => .next (s.stalls c.who (.park k))
  | .error (.hold _ _) => .next s
  | .error (.read _ _) => .next s
  | .error (.stuck f) => .fault f

/-- The bytes that a copy owes its completion word are taken from it. -/
def State.cpPay (s : State) (cl ctx : Nat) (c : Cmd) : Except Stop State := do
  let (o, s) ← s.cwTake c.who (.copy cl) (reg c.regs 7) c.owed
  pure (s.setCp cl ctx { c with owed := 0, ovr := c.ovr || o })

/-- One unit of a copy: bytes that it owes its completion word, a destination page, or its end once every byte is done (R339). `free` tells
whether the completion word may be updated now. -/
def State.copyOne (s : State) (cl ctx : Nat) (free : Bool) (c : Cmd) : Host.Outcome State Fault Refusal :=
  s.cpResult cl ctx c (
    if free ∧ c.owed ≠ 0 then s.cpPay cl ctx c
    else if cpKind c.regs = 2 then
      (if c.ending.isSome ∧ c.pos = 0 then .ok (s.setCp cl ctx { c with pos := cpTotal c.regs })
       else if c.pos = 0 then s.cpRegRead cl ctx c else .ok s)
    else if cpTotal c.regs ≤ c.pos then (if free then s.cpFinish cl ctx c else .ok s)
    else if c.ending.isSome then s.cpVoidPage cl ctx free c
    else s.cpPage cl ctx free c)

/-- STAT of a copy that has completed (R336). -/
def cpStat (c : Cmd) : Word :=
  let e := c.ending.getD (0, 0, 0)
  word (c.id + e.2.1 * 2 ^ 32 + e.1 * 2 ^ 40 + (if c.ovr then 2 ^ 43 else 0) + (if c.cwe then 2 ^ 44 else 0))

end Sys2Proof.Machine
end

