-- ==== Sys2Proof/Machine/Rhoiq.lean ====
section
/-! DEFINITION. Rhoiq links of the package: routes (R370), and sending over a link. -/

namespace Sys2Proof.Machine

/-- Link `l` of die `d`. -/
def State.linkAt (s : State) (d l : Nat) : Link := tabGet .down s.links (d * 4 + l)
/-- Replaces it. -/
def State.setLink (s : State) (d l : Nat) (k : Link) : State := { s with links := tabPut .down s.links (d * 4 + l) k }

/-- Whether every link of a route is in state 2; hops beyond this package's own first one are other packages' links. -/
def State.routeUp (s : State) (hops : List (Nat × Nat)) : Bool :=
  match hops with
  | [] => false
  | h :: _ => (s.linkAt h.1 h.2).state = 2

/-- The first link of the first route to another package that is up (R370). -/
def State.firstHop (s : State) (package : Nat) : Option (Nat × Nat) :=
  match s.config with
  | none => none
  | some c => (c.routes.filter (fun r => r.1 = package)).findSome? (fun r => (r.2.find? s.routeUp).bind List.head?)

/-- Whether a message can go to a package. -/
def State.reachable (s : State) (package : Nat) : Bool := package = s.packageIndex || (s.firstHop package).isSome

/-! ### Sending -/

/-- Sends flits towards another package, on account of a tenant (R258). -/
def State.linkSend (s : State) (package tenant : Nat) (l : List Flit) : State :=
  match s.firstHop package with
  | none => s
  | some (d, n) => (s.setLink d n ((l.map (fun f => { f with dst := package })).foldl Link.send (s.linkAt d n))).countEv tenant 8 l.length

end Sys2Proof.Machine
end

