-- ==== Sys2Proof/Machine/Fabric.lean ====
section
/-! DEFINITION. The fabric engine (R350–R366): group tables, collectives over the fixed tree, point-to-point messages,
barriers, endings and notices. Links are in Links. -/

namespace Sys2Proof.Machine

/-- `fx.erw`. -/
def execFxErw (a : BitVec 5) (n : BitVec 6) (s : State) : Host.Outcome State Fault Refusal := engErw .fx a n s
/-- `fx.err`. -/
def execFxErr (b : BitVec 5) (n : BitVec 6) (s : State) : Host.Outcome State Fault Refusal := engErr .fx b n s

/-! ### Registers and the group table (R350, R351) -/

/-- The op in OP: 0 sum, 1 max, 2 triple reduce. -/
def fxOp (r : List Word) : Nat := fld (reg r 6) 0 4
/-- dcode in OP. -/
def fxDcode (r : List Word) : Nat := fld (reg r 6) 10 2
/-- Words of a row of a triple reduce: a partial record of 16 + 4d bytes. -/
def fxRow (dcode : Nat) : Nat := 2 + 32 * 2 ^ dcode

/-- Whether register `i` keeps the limits of R351; `go` is a collective with data. -/
def fxRegOk (r : List Word) (go : Bool) (i : Nat) : Bool :=
  let v := (reg r i).toNat
  match i with
  | 0 => v % 64 = 0
  | 1 => decide (v < 65536) && decide (v < (reg r 2).toNat)
  | 2 => decide (1 ≤ v) && decide (v ≤ 1024)
  | 5 => decide (8 ≤ v) && decide (v ≤ 16777208) && v % 8 = 0 &&
      (!go || fxOp r ≠ 2 || fxDcode r = 3 || v % (8 * fxRow (fxDcode r)) = 0)
  | 6 => !go || (decide (v < 4096) && fld (reg r 6) 5 5 = 0 && decide (fxOp r ≤ 2) && decide (fxDcode r < 3) &&
      (fxOp r = 2 || fxDcode r = 0))
  | 8 => decide (v < 2 ^ 32)
  | _ => v % 8 = 0

/-- Registers that a command uses (R352), in ascending order: 2 `fx.go`, 3 `fx.send`, 4 `fx.recv`, 5 `fx.bar`. -/
def fxUses : Nat → List Nat
  | 2 => [0, 1, 2, 3, 4, 5, 6, 7, 8, 10]
  | 3 => [0, 1, 2, 3, 5, 7, 8]
  | 4 => [0, 1, 2, 4, 5, 7, 8]
  | _ => [0, 1, 2, 7, 8, 10]

/-- A group table entry as (package, die, context). -/
def fxEntry (e : Word) : Nat × Nat × Nat := (fld e 0 8, fld e 8 2, fld e 10 9)

/-- The first rank whose entry has a reserved bit set. -/
def fxBadEntry (es : List Word) : Option Nat := (List.range es.length).find? (fun r => decide (fld (reg es r) 19 45 ≠ 0))

/-- Check 4 of R353 on a header of 8 words and its entries. -/
def fxTableOk (h es : List Word) (n rank : Nat) (me : Nat × Nat × Nat) : Except Stop Unit := do
  if fld (reg h 0) 0 16 ≠ 1 ∨ fld (reg h 0) 32 32 = 0 ∨ fld (reg h 2) 0 16 ≠ n ∨ fld (reg h 2) 16 48 ≠ 0 ∨
      (h.drop 3).any (· ≠ 0) then throw (.trap 0x73 0)
  match fxBadEntry es with
  | some r => throw (.trap 0x73 (word r))
  | none => pure ()
  if fxEntry (reg es rank) ≠ me then throw (.trap 0x73 (word rank))

/-! ### Contributions and combination (R354, R356) -/

/-- Cuts a list into rows of `n`. -/
def rowsOf {α : Type} (n : Nat) : Nat → List α → List (List α)
  | 0, _ => []
  | k + 1, l => if l = [] then [] else l.take n :: rowsOf n k (l.drop n)

/-- Two FP32 elements of a word combined by `f`. -/
def twoLanes (f : F32 → F32 → F32) (x y : Word) : Word :=
  f (x.extractLsb' 32 32) (y.extractLsb' 32 32) ++ f (x.extractLsb' 0 32) (y.extractLsb' 0 32)

/-- combine(x, y) of R356, with the taints of R358. -/
def fxCombine (op dcode : Nat) (x y : FabData) : FabData :=
  match op with
  | 0 => List.zipWith (fun a b => (twoLanes (fun p q => rne32 false (addExact 0 (num p) (num q))) a.1 b.1, a.2 || b.2)) x y
  | 1 => List.zipWith (fun a b => (twoLanes (fun p q => (fminmax true p q).1) a.1 b.1, a.2 || b.2)) x y
  | _ =>
    let n := fxRow dcode
    (List.zipWith (fun (a b : FabData) =>
      let t := (a ++ b).any (·.2)
      (saddle false (Triple.ofRecord (a.map (·.1))) (Triple.ofRecord (b.map (·.1)))).record.map (·, t))
      (rowsOf n x.length x) (rowsOf n y.length y)).flatten

/-- A member's own words as its contribution: a triple row is read and written as R291 does, and a VOID word taints it. -/
def fxContrib (op dcode : Nat) (x : FabData) : FabData :=
  if op = 2 then
    ((rowsOf (fxRow dcode) x.length x).map (fun r =>
      let t := r.any (·.2)
      (Triple.ofRecord (r.map (·.1))).record.map (·, t))).flatten
  else x

/-! ### The tree (R354) -/

/-- Members of the tree at a level. -/
def treeCount (c level : Nat) : Nat := (c + 2 ^ level - 1) / 2 ^ level

/-- Position of a rank among the active ranks. -/
def FabCmd.pos (f : FabCmd) : Nat := (f.active.findIdx? (fun a => decide (a.1 = f.rank))).getD 0

/-- The active member at a position: rank, package, die, context. -/
def FabCmd.at (f : FabCmd) (p : Nat) : Nat × Nat × Nat × Nat := f.active.getD p (0xFFFF, 0, 0, 0)

/-- What a member does next at its level: nothing more, wait for a message, send up, pass up, or form the result. -/
inductive TreeAct where
  | sent
  | await (p : Nat)
  | send (p : Nat)
  | pass
  | root
  deriving DecidableEq, Repr

/-- The next act of a member in the fixed tree. Level 64 says that its contribution has been sent. -/
def FabCmd.act (f : FabCmd) : TreeAct :=
  let c := treeCount f.active.length f.level
  let j := f.pos / 2 ^ f.level
  if f.level = 64 then .sent
  else if c ≤ 1 then .root
  else if j % 2 = 1 then .send ((j - 1) * 2 ^ f.level)
  else if j + 1 < c then .await ((j + 1) * 2 ^ f.level)
  else .pass

/-- The member whose message this one awaits: its partner at the current level, or the root (R362); of a pair, the peer. -/
def Cmd.awaited (c : Cmd) (f : FabCmd) : Nat × Nat × Nat × Nat :=
  if c.op = 3 ∨ c.op = 4 then (f.active.find? (fun a => decide (a.1 = f.peer))).getD (f.peer, 0, 0, 0)
  else match f.act with
    | .await p => f.at p
    | .send p => f.at p
    | _ => f.at 0

/-! ### Messages and notices -/

/-- Key of the seq counter of a context on a tag (R355). -/
def fxSeqKey (die ctx : Nat) (tag : BitVec 32) : Nat := ctxKey .fx die ctx * 2 ^ 32 + tag.toNat

/-- Key of the count of sends (or receives) of a context with a peer on a tag (R359). -/
def p2pKey (die ctx : Nat) (tag : BitVec 32) (peer : Nat) (recv : Bool) : Nat :=
  (fxSeqKey die ctx tag * 1024 + peer) * 2 + (if recv then 1 else 0)

/-- Whether word `i` of a message's data holds two FP32 values: every word but the status words of partial records (R291, R369). -/
def keyCoded (k : FabKey) (i : Nat) : Bool := decide (k.op ≠ 2) || decide (i % fxRow k.dcode ≠ 1)

/-- Sends a message to a member on account of a tenant; between packages its matching goes on channel 3, its data up or down. -/
def State.sendMsg (s : State) (tenant : Nat) (dst : Nat × Nat × Nat × Nat) (m : FabMsg) : State :=
  if dst.2.1 = s.packageIndex then { s with fabNet := s.fabNet ++ [((dst.2.2.1, dst.2.2.2), m)] }
  else if s.reachable dst.2.1 then
    let (c, d) := match m.body with
      | .up d => (0, d)
      | .down d => (1, d)
    ((s.linkSend dst.2.1 tenant [controlFlit]).linkSend dst.2.1 tenant (dataFlits c (keyCoded m.key) d)).emit (.fabric m.die)
      (.fabric dst.2.1 dst.2.2.1 dst.2.2.2 m)
  else s

/-- Sends a notice of a member on die `at_` to a context on account of a tenant. -/
def State.sendNotice (s : State) (at_ tenant package die ctx : Nat) (n : FabNotice) : State :=
  if package = s.packageIndex then { s with fabNotices := s.fabNotices ++ [((die, ctx), n)] }
  else if s.reachable package then (s.linkSend package tenant [controlFlit]).emit (.fabric at_) (.notice package die ctx n) else s

/-- Sends the matching message of a send or receive, or word of its last word, to the peer in another package, on channel 3 (R359, R367). -/
def State.sendMatching (s : State) (die : Nat) (c : Cmd) (f : FabCmd) (p : Nat × Nat × Nat × Nat) (done : Bool) : State :=
  if p.2.1 = s.packageIndex ∨ s.reachable p.2.1 = false then s
  else (s.linkSend p.2.1 c.who.acct.toNat [controlFlit]).emit (.fabric die) (.matching p.2.1 p.2.2.1 p.2.2.2
    { tag := f.key.tag, seq := f.key.seq, issuer := f.rank, named := f.peer, send := decide (c.op = 3), len := (reg c.regs 5).toNat, data := [],
      done := done })

/-! ### Commands of a context, by id -/

/-- The accepted fabric command with id `id`, if it has not finished. -/
def State.fxCmd (s : State) (die ctx id : Nat) : Option Cmd := (s.cmdsOf .fx die ctx).find? (fun c => c.id = id && !c.finished)

/-- Replaces the command of that id. -/
def State.setFx (s : State) (die ctx : Nat) (c : Cmd) : State :=
  s.setCmds .fx die ctx ((s.cmdsOf .fx die ctx).map (fun x => if x.id = c.id then c else x))

/-- Commands complete in the order in which they finish: a finished one stands before those still outstanding. -/
def State.finishFx (s : State) (die ctx : Nat) (c : Cmd) : State :=
  let l := (s.cmdsOf .fx die ctx).filter (fun x => x.id ≠ c.id)
  s.setCmds .fx die ctx (l.filter (·.finished) ++ [{ c with finished := true }] ++ l.filter (fun x => !x.finished))

/-- A command has not ended and no result has reached it. -/
def Cmd.open (c : Cmd) : Bool :=
  !c.finished && c.ending.isNone && (match c.fab with | some f => f.result.isNone | none => false)

/-- The virtual ranges that a command touches. -/
def Cmd.fxRanges (c : Cmd) : List (Word × Nat) :=
  let n := (reg c.regs 5).toNat
  (if c.op = 2 ∨ c.op = 3 then [(reg c.regs 3, n)] else []) ++ (if c.op = 2 ∨ c.op = 4 then [(reg c.regs 4, n)] else []) ++
    (if reg c.regs 7 = 0 then [] else [(reg c.regs 7, 8)])

/-- The virtual ranges that a command writes. -/
def Cmd.fxWrites (c : Cmd) : List (Word × Nat) :=
  (if c.op = 2 ∨ c.op = 4 then [(reg c.regs 4, (reg c.regs 5).toNat)] else []) ++ (if reg c.regs 7 = 0 then [] else [(reg c.regs 7, 8)])

/-- Whether a command may touch some ranges now: no earlier command of its stream that is outstanding touches a byte of them (R66). -/
def State.fxClear (s : State) (die ctx : Nat) (c : Cmd) (l : List (Word × Nat)) : Bool :=
  (s.cmdsOf .fx die ctx).all (fun e => e.finished || decide (c.id ≤ e.id) || !e.oneStream c || s.apartIn .die e.who c.who e.fxRanges l)

/-- Writes result words from `va` on, each FULL, or VOID when tainted (R358); it stops at a word that cannot be written,
with the number written. -/
def State.fxWords (s : State) (w : Who) (va : Word) (n : Nat) : FabData → Nat × Option Stop × State
  | [] => (n, none, s)
  | x :: t =>
    match s.engWord w .die false va (if x.2 then 0 else x.1) (if x.2 then .void else .full) with
    | .ok s => s.fxWords w (va + 8) (n + 1) t
    | .error e => (n, some e, s)

/-- Sets words from `va` on VOID (R362); a page that cannot be written is left (R396), and a miss or a hold stops. -/
def State.fxVoids (s : State) (w : Who) (declined : List Nat) (va : Word) (n : Nat) : Nat → Nat × Option Stop × State
  | 0 => (n, none, s)
  | k + 1 =>
    if va.toNat / 65536 ∈ declined then s.fxVoids w declined (va + 8) (n + 1) k
    else match s.engVoid w .die false va with
      | .ok s => s.fxVoids w declined (va + 8) (n + 1) k
      | .error (.trap _ _) => s.fxVoids w declined (va + 8) (n + 1) k
      | .error e => (n, some e, s)

/-- Bytes of DBUF that a command writes. -/
def Cmd.fxBytes (c : Cmd) : Nat := if c.op = 2 ∨ c.op = 4 then (reg c.regs 5).toNat else 0

/-- The bytes and the arrive of a command on its completion word (R358). -/
def State.fxArrive (s : State) (c : Cmd) : Except Stop (Bool × State) := do
  let (o, s) ← if c.fxBytes = 0 then pure (false, s) else s.cwTake c.who .die (reg c.regs 7) c.fxBytes
  let (e, s) ← s.cwEngineArrive c.who .die (reg c.regs 7)
  pure (o || e, s)

/-- Holds a fabric command for the pager (R35). -/
def State.fxMiss (s : State) (die ctx : Nat) (c : Cmd) (m : Miss) : State :=
  (s.setFx die ctx { c with miss := some m }).sendMiss c.who.core none c.who.acct.toNat m

/-- A command of a level-5 form ends: its pod phase bit flips, with its status, and the waits for the flip are over (R360). -/
def State.podFlip (s : State) (k status : Nat) : State :=
  let b := (tabGet (false, 0) s.pod k).1
  ({ s with pod := tabPut (false, 0) s.pod k (!b, status) } : State).flipped true (fun w => decide (w = .podPhase (k / 16) (k % 16) b))

/-- The end of a command that has its result or an ending: its arrive and its completion (R358, R362, R399). What holds the access holds
the command. -/
def State.fxClose (s : State) (die ctx : Nat) (c : Cmd) (f : FabCmd) : State :=
  let done (s : State) (c : Cmd) : State :=
    let s := s.finishFx die ctx c
    let s := if c.op = 2 ∨ c.op = 5 then s.countEv c.who.acct.toNat 9 1 else s
    match f.key.barId with
    | none => s
    | some b => s.podFlip (ctxKey .fx die ctx * 16 + b) ((c.ending.map (·.1)).getD 0)
  if reg c.regs 7 ≠ 0 ∧ s.fxClear die ctx c [(reg c.regs 7, 8)] = false then s.setFx die ctx c
  else match s.fxArrive c with
    | .ok (e, s) => done s { c with cwe := e }
    | .error (.miss m) => s.fxMiss die ctx c m
    | .error (.trap _ _) => done s (c.end 6 0x62 f.rank)
    | .error _ => s.setFx die ctx c

/-- Writes what remains of DBUF, then closes the command: the result's words, or VOID after an early end. -/
def State.fxWriteOut (s : State) (die ctx id : Nat) : State :=
  match s.fxCmd die ctx id with
  | none => s
  | some c => match c.fab with
    | none => s
    | some f =>
      let data := if c.op = 2 ∨ c.op = 4 then (f.result.getD []).drop c.pos else []
      if c.fxBytes ≠ 0 ∧ s.fxClear die ctx c [(reg c.regs 4, c.fxBytes)] = false then s.setFx die ctx c
      else
        let w := if c.ending.isSome then (c.pos, none, s) else s.fxWords c.who (reg c.regs 4 + word (8 * c.pos)) c.pos data
        let held (e : Option Stop) (s : State) (c : Cmd) : State :=
          match e with
          | some (.miss m) => s.fxMiss die ctx c m
          | some _ => s.setFx die ctx c
          | none => s.fxClose die ctx c f
        match w with
        | (n, some (.trap code va), s) =>
          let c := { c with pos := n }.end 6 code f.rank
          let r := (s.tagFails c.who .die code va).fxVoids c.who c.declined (reg c.regs 4 + word (8 * c.pos)) c.pos (c.fxBytes / 8 - c.pos)
          held r.2.1 r.2.2 { c with pos := r.1 }
        | (n, some e, s) => held (some e) s { c with pos := n }
        | (n, none, s) =>
          let c := { c with pos := n }
          if c.ending.isSome then
            let r := s.fxVoids c.who c.declined (reg c.regs 4 + word (8 * c.pos)) c.pos (c.fxBytes / 8 - c.pos)
            held r.2.1 r.2.2 { c with pos := r.1 }
          else held none s c

/-- The partner's command of a local pair, if it is accepted and still open (R359). -/
def State.fxPartner (s : State) (die ctx : Nat) (c : Cmd) (f : FabCmd) (pd pc : Nat) : Option Cmd :=
  (s.cmdsOf .fx pd pc).find? (fun x => x.open && (match x.fab with
    | some g => g.key.tag = f.key.tag && g.key.seq = f.key.seq && x.op = 7 - c.op && g.peer = f.rank && g.rank = f.peer &&
        (g.active.find? (fun e => decide (e.1 = f.rank))).map (·.2) = some (s.packageIndex, die, ctx)
    | none => false))

/-- Writes out a command; a receive that has then finished lets its sender perform its arrive (R359). -/
def State.fxSettle (s : State) (die ctx id : Nat) : State :=
  let t := s.fxWriteOut die ctx id
  match s.fxCmd die ctx id with
  | none => t
  | some c => match c.fab with
    | none => t
    | some f =>
      let p := c.awaited f
      if c.op = 4 ∧ f.result.isSome ∧ (t.fxCmd die ctx id).isNone then
        if p.2.1 ≠ s.packageIndex then t.sendMatching die c f p true
        else match t.fxPartner die ctx c f p.2.2.1 p.2.2.2 with
        | none => t
        | some x => (t.setFx p.2.2.1 p.2.2.2 { x with fab := x.fab.map (fun g => { g with result := some [] }) }).fxWriteOut
            p.2.2.1 p.2.2.2 x.id
      else t

/-- Status as a notice carries it: REMOTE-RESET in place of ABORTED and FAILED, with this member as culprit (R362). -/
def noticeOf (f : FabCmd) (status culprit : Nat) : Nat × Nat := if 5 ≤ status then (3, f.rank) else (status, culprit)

/-- Ends a command that is still open, notifies the other members, and sets its DBUF VOID (R362). -/
def State.fxEnd (s : State) (die ctx : Nat) (c : Cmd) (status code culprit : Nat) : State :=
  match c.fab with
  | none => s
  | some f =>
    if c.open = false then s
    else
      let n := noticeOf f status culprit
      let s := s.setFx die ctx (c.end status code culprit)
      let others := f.active.filter (fun a => decide (a.1 ≠ f.rank) && (c.op = 2 || c.op = 5 || a.1 = f.peer))
      let p2p := if c.op = 3 ∨ c.op = 4 then some (f.rank, decide (c.op = 4)) else none
      let s := others.foldl (fun s a => s.sendNotice die c.who.acct.toNat a.2.1 a.2.2.1 a.2.2.2
        { tag := f.key.tag, seq := f.key.seq, p2p := p2p, status := n.1, culprit := n.2 }) s
      s.fxSettle die ctx c.id

/-- Advances a member in the fixed tree as far as it can go without a message; `n` bounds the levels. -/
def State.fxAdvance (s : State) (die ctx : Nat) (c : Cmd) : Nat → State
  | 0 => s
  | n + 1 => match c.fab with
    | none => s
    | some f => match f.acc with
      | none => s
      | some d =>
        let msg (dst : Nat × Nat × Nat × Nat) (b : FabBody) : FabMsg :=
          { sender := f.rank, receiver := dst.1, package := s.packageIndex, die := die, ctx := ctx, key := f.key, body := b }
        match f.act with
        | .sent =>
          let s := s.setFx die ctx c
          if s.reachable (f.at 0).2.1 then s else s.fxEnd die ctx c 1 0x70 (f.at 0).1
        | .pass => s.fxAdvance die ctx { c with fab := some { f with level := f.level + 1 } } n
        | .await p =>
          let s := s.setFx die ctx c
          if s.reachable (f.at p).2.1 then s else s.fxEnd die ctx c 1 0x70 (f.at p).1
        | .send p =>
          if s.reachable (f.at p).2.1 then
            (s.sendMsg c.who.acct.toNat (f.at p) (msg (f.at p) (.up d))).fxAdvance die ctx { c with fab := some { f with level := 64 } } n
          else (s.setFx die ctx c).fxEnd die ctx c 1 0x70 (f.at p).1
        | .root =>
          let s := s.setFx die ctx { c with fab := some { f with result := some d } }
          let s := (f.active.drop 1).foldl (fun s a => s.sendMsg c.who.acct.toNat a (msg a (.down d))) s
          s.fxSettle die ctx c.id

/-- Reads `n` source words (R358). With SWAIT it ends at the first word that must be waited for, and answers that word's place. -/
def State.fxRead (s : State) (w : Who) (swait : Bool) (place : Option (Nat × Nat)) (va : Word) :
    Nat → Except Stop (List (Word × Presence) × Option Nat × State)
  | 0 => pure ([], none, s)
  | n + 1 => do
    let (x, s) ← if swait then s.engSync w .die place va else (do
      let (v, s) ← s.engRead w .die va 8
      pure (.ok (word v, Presence.full), s))
    match x with
    | .error phys => pure ([], some phys, s)
    | .ok x => do
      let (l, k, s) ← s.fxRead w swait place (va + 8) n
      pure (x :: l, k, s)

/-- Reads a command's own SBUF, once no earlier command of its stream has it (R66): none while a word must be waited for; the words read
so far are kept. -/
def State.fxSource (s : State) (die ctx : Nat) (c : Cmd) : Except Stop (Option FabData × Cmd × State) := do
  if s.fxClear die ctx c [(reg c.regs 3, (reg c.regs 5).toNat)] = false then pure (none, c, s)
  else
    let k := c.got.length
    let (d, wait, s) ← s.fxRead c.who (bit (reg c.regs 6) 4) c.place (reg c.regs 3 + word (8 * k)) ((reg c.regs 5).toNat / 8 - k)
    match wait with
    | some phys => let x := s.waits { c with got := c.got ++ d } phys; pure (none, x.1, x.2.setFx die ctx x.1)
    | none => pure (some ((c.got ++ d).map (fun e => (e.1, decide (e.2 = .void)))), { c with got := [], place := none }, s)

/-- What becomes of a command whose source cannot be read: a miss or a hold keeps it; anything else is FAILED (R362). -/
def State.fxNoSource (s : State) (die ctx : Nat) (c : Cmd) (rank : Nat) : Stop → State
  | .miss m => s.fxMiss die ctx c m
  | .trap code va => (s.tagFails c.who .die code va).fxEnd die ctx c 6 code rank
  | e => s.stalls c.who e

/-- Data for a receive of another package leave; the send then awaits word that the last of them is written (R359). -/
def State.fxShip (s : State) (die ctx : Nat) (c : Cmd) (f : FabCmd) : State :=
  let p := c.awaited f
  match s.fxSource die ctx c with
  | .error e => s.fxNoSource die ctx c f.rank e
  | .ok (none, _, s) => s
  | .ok (some d, c, s) =>
    (((s.linkSend p.2.1 c.who.acct.toNat (controlFlit :: dataFlits 2 (fun _ => false) d)).emit (.fabric die) (.p2p p.2.1 p.2.2.1 p.2.2.2 d)).setFx die ctx
      { c with fab := some { f with shipped := true } })

/-- Carries a collective on: its own contribution once it can be read, then the tree; a command with a result or an
ending goes on with its writes. -/
def State.fxProgress (s : State) (die ctx id : Nat) : State :=
  match s.fxCmd die ctx id with
  | none => s
  | some c => match c.fab with
    | none => s
    | some f =>
      if c.miss.isSome then s
      else if c.open = false then s.fxSettle die ctx id
      else if c.op = 3 ∧ f.ready ∧ f.shipped = false then s.fxShip die ctx c f
      else if c.op = 3 ∨ c.op = 4 then s
      else match f.acc with
        | some _ => s.fxAdvance die ctx c 12
        | none =>
          if c.op = 5 then s.fxAdvance die ctx { c with fab := some { f with acc := some [] } } 12
          else match s.fxSource die ctx c with
            | .error e => s.fxNoSource die ctx c f.rank e
            | .ok (none, _, s) => s
            | .ok (some d, c, s) => s.fxAdvance die ctx { c with fab := some { f with acc := some (fxContrib f.key.op f.key.dcode d) } } 12

/-! ### Acceptance (R353) -/

/-- The bitmap at MASK as a number; every rank when MASK is 0. -/
def State.fxMask (s : State) (w : Who) (r : List Word) (n : Nat) : Except Stop (Nat × State) :=
  if reg r 10 = 0 then pure (2 ^ n - 1, s) else do
    let (l, s) ← s.engReadWords w .die (reg r 10) ((n + 63) / 64)
    pure (wordsNat l, s)

/-- Acceptance waits while an outstanding command of the thread's stream in the context writes bytes that it reads, or touches bytes that it
reads and writes (R66). -/
def State.fxWaits (s : State) (c : Nat × Nat) (w : Who) (reads writes : List (Word × Nat)) : Except Stop Unit :=
  let l := s.streamOf .fx c.1 c.2 w.core w.slot
  if l.all (fun e => s.apartIn .die e.who w e.fxWrites reads && s.apartIn .die e.who w e.fxRanges writes) then pure ()
  else throw (.park (.stream .fx c.1 c.2 l.length))

/-- The checks of R353 and acceptance; the answer is the seq that the command carries. `r` is the snapshot, `a` the peer
operand, `barId` the id of a level-5 barrier. -/
def State.fxAccept (s : State) (op : Nat) (r : List Word) (a : Word) (barId : Option Nat) : Except Stop (Word × State) := do
  let c := s.myCtx .fx
  let w := s.who
  let n := (reg r 2).toNat
  let rank := (reg r 1).toNat
  match (fxUses op).find? (fun i => !fxRegOk r (decide (op = 2)) i) with
  | some i => throw (.trap 0x02 (word i))
  | none => pure ()
  let coll := op = 2 ∨ op = 5
  s.fxWaits c w ((if coll then [] else [(reg r 0, 64 + 8 * n)]) ++ (if coll ∧ reg r 10 ≠ 0 then [(reg r 10, (n + 63) / 64 * 8)] else []))
    (if coll then [(reg r 0, 64 + 8 * n)] else [])
  let (h, s) ← s.engReadWords w .die (reg r 0) 8
  let (es, s) ← s.engReadWords w .die (reg r 0 + 64) n
  let (mask, s) ← if coll then s.fxMask w r n else pure (2 ^ n - 1, s)
  fxTableOk h es n rank (s.packageIndex, c.1, c.2)
  if coll then
    if mask.testBit rank = false then throw (.trap 0x73 (word rank))
    match ((List.range ((n + 63) / 64 * 64)).drop n).find? (fun i => mask.testBit i) with
    | some i => throw (.trap 0x73 (word i))
    | none => pure ()
  else if n ≤ a.toNat ∨ a.toNat = rank then throw (.trap 0x73 a)
  if op = 2 ∧ (reg r 3).toNat < (reg r 4).toNat + (reg r 5).toNat ∧ (reg r 4).toNat < (reg r 3).toNat + (reg r 5).toNat then
    throw (.trap 0x02 4)
  if Config.fxDepth ≤ s.pending .fx c.1 c.2 then throw (.park (.accept .fx c.1 c.2))
  let tag : BitVec 32 := BitVec.ofNat 32 (fld (reg h 0) 32 32)
  let pk := p2pKey c.1 c.2 tag a.toNat (decide (op = 4))
  let seq := if coll then (reg h 1).toNat else tabGet 0 s.p2p pk
  let s ← if coll then s.engWord w .die false (reg r 0 + 8) (reg h 1 + 1) .full else pure s
  let s := if coll then { s with fxSeq := tabPut 0 s.fxSeq (fxSeqKey c.1 c.2 tag) (seq + 1) }
    else { s with p2p := tabPut 0 s.p2p pk (seq + 1) }
  let active := ((List.range n).filter (fun i => !coll || mask.testBit i)).map (fun i => (i, fxEntry (reg es i)))
  let go := decide (op = 2)
  let key : FabKey :=
    { tag := tag, seq := seq, barrier := !go, barId := barId, count := n, mask := mask, op := if go then fxOp r else 0,
      dcode := if go then fxDcode r else 0, len := if go then (reg r 5).toNat else 0 }
  let f : FabCmd :=
    { key := key, rank := rank, active := active, peer := a.toNat, acc := none, level := 0, result := none, ready := false, shipped := false }
  let cmd := { Cmd.start op w a 0 r s.seq s.time.toNat with fab := some f }
  let s := { s with seq := s.seq + 1 }.accept .fx c cmd
  pure (word seq, s.fxProgress c.1 c.2 cmd.id)

/-- R363: a send or receive whose partner here has already ended is answered with a notice that names the partner; one with a peer in another
package is matched there by its message (R359). -/
def State.fxLate (s : State) (die ctx id : Nat) : State :=
  match s.fxCmd die ctx id with
  | none => s
  | some c => match c.fab with
    | none => s
    | some f =>
      let p := c.awaited f
      if s.reachable p.2.1 = false then s.fxEnd die ctx c 1 0x70 f.peer
      else if p.2.1 = s.packageIndex ∧ f.key.seq < tabGet 0 s.p2p (p2pKey p.2.2.1 p.2.2.2 f.key.tag f.rank (decide (c.op = 3))) ∧
          (s.fxPartner die ctx c f p.2.2.1 p.2.2.2).isNone then s.fxEnd die ctx c 2 0x71 f.peer
      else s.sendMatching die c f p false

/-- `fx.go gB` (R354). -/
def execFxGo (b : BitVec 5) (s : State) : Host.Outcome State Fault Refusal :=
  run s do
    let c := s.myCtx .fx
    let (q, s) ← s.fxAccept 2 (s.snap .fx c.1 c.2 11) 0 none
    pure (s.setMe (s.me.wrG b q).advance)

/-- `fx.send` and `fx.recv` (R359). -/
def fxPair (op : Nat) (a : BitVec 5) (s : State) : Host.Outcome State Fault Refusal :=
  run s do
    let sl ← s.me.gate [.g a]
    let c := s.myCtx .fx
    let id := s.seq
    let (_, s) ← s.fxAccept op (s.snap .fx c.1 c.2 11) (sl.gv a) none
    pure ((s.fxLate c.1 c.2 id).setMe sl.advance)

/-- `fx.send gA`. -/
def execFxSend (a : BitVec 5) (s : State) : Host.Outcome State Fault Refusal := fxPair 3 a s
/-- `fx.recv gA`. -/
def execFxRecv (a : BitVec 5) (s : State) : Host.Outcome State Fault Refusal := fxPair 4 a s

/-- `fx.bar` (R360). -/
def execFxBar (s : State) : Host.Outcome State Fault Refusal :=
  run s do
    let c := s.myCtx .fx
    let (_, s) ← s.fxAccept 5 (s.snap .fx c.1 c.2 11) 0 none
    pure (s.setMe s.me.advance)

/-- The pod phase bit of a barrier id in the issuer's context, and the status that flipped it last (R360). -/
def State.podBit (s : State) (n : Nat) : Bool × Nat :=
  let c := s.myCtx .fx
  tabGet (false, 0) s.pod (ctxKey .fx c.1 c.2 * 16 + n)

/-- Accepts the barrier of a level-5 form, with CWORD taken as 0 (R360). -/
def State.podArrive (s : State) (n : Nat) : Except Stop State := do
  let c := s.myCtx .fx
  let (_, s) ← s.fxAccept 5 ((s.snap .fx c.1 c.2 11).set 7 0) 0 (some n)
  pure s

/-- The end of a wait on a pod phase bit: V when its barrier did not end DONE (R360). -/
def State.podDone (s : State) (n : Nat) (sl : Slot) : State :=
  s.setMe (if (s.podBit n).2 = 0 then sl else sl.setV).advance

/-- `fx.abort` (R361): ends every open command of the context; the thread waits for their arrives. A command that has
its result completes as it would have (R362). -/
def execFxAbort (s : State) : Host.Outcome State Fault Refusal :=
  run s (
    let c := s.myCtx .fx
    if s.me.ended (some .fx) then pure (s.setMe s.me.advance)
    else
      let l := s.cmdsOf .fx c.1 c.2
      let s := l.foldl (fun s x => match s.fxCmd c.1 c.2 x.id with
        | some x => s.fxEnd c.1 c.2 x 5 0 0xFFFF
        | none => s) s
      if (s.cmdsOf .fx c.1 c.2).all (·.finished) then pure (s.setMe s.me.advance)
      else pure (s.parkMe (.commands (some .fx) (ctxKey .fx c.1 c.2) none)))

/-! ### Messages received -/

/-- The outstanding collective of a context that a message or notice concerns (R355). -/
def State.fxMatch (s : State) (die ctx : Nat) (tag : BitVec 32) (seq : Nat) : Option (Cmd × FabCmd) :=
  (s.cmdsOf .fx die ctx).findSome? (fun c => match c.fab with
    | some f => if (c.op = 2 ∨ c.op = 5) ∧ f.key.tag = tag ∧ f.key.seq = seq ∧ c.finished = false then some (c, f) else none
    | none => none)

/-- What a message finds at its receiver. -/
inductive MsgFate where
  | late
  | hold
  | drop
  | mismatch (c : Cmd)
  | combine (c : Cmd) (f : FabCmd) (x y : FabData)
  | result (c : Cmd) (f : FabCmd) (d : FabData)
  deriving DecidableEq, Repr

/-- How a message of a collective is taken (R355, R363). -/
def State.fxFate (s : State) (die ctx : Nat) (m : FabMsg) : MsgFate :=
  match s.fxMatch die ctx m.key.tag m.key.seq with
  | none => if m.key.seq < tabGet 0 s.fxSeq (fxSeqKey die ctx m.key.tag) then .late else .hold
  | some (c, f) =>
    if c.open = false then .drop
    else if f.key ≠ m.key then .mismatch c
    else match m.body with
      | .down d => .result c f d
      | .up d => match f.acc, f.act with
        | some x, .await p => if (f.at p).1 = m.sender then .combine c f x d else .hold
        | _, .sent => .drop
        | _, _ => .hold

/-- FABRIC_MESSAGE: a message of a collective is received; it is held, combined, written, or answered (R355, R363). -/
def execFabricMessage (die ctx : Nat) (m : FabMsg) (s : State) : Host.Outcome State Fault Refusal :=
  if 4 ≤ die ∨ 320 ≤ ctx then .fault .noSuchUnit
  else
    let s := { s with fabNet := s.fabNet.erase ((die, ctx), m) }
    .next (match s.fxFate die ctx m with
      | .hold => { s with fabNet := s.fabNet ++ [((die, ctx), m)] }
      | .drop => s
      | .late => s.sendNotice die 0xFF m.package m.die m.ctx
          { tag := m.key.tag, seq := m.key.seq, p2p := none, status := 2, culprit := m.receiver }
      | .mismatch c => s.fxEnd die ctx c 4 0x73 m.sender
      | .result c f d => (s.setFx die ctx { c with fab := some { f with result := some d } }).fxProgress die ctx c.id
      | .combine c f x y =>
        (s.setFx die ctx { c with fab := some { f with acc := some (fxCombine f.key.op f.key.dcode x y), level := f.level + 1 } }).fxProgress
          die ctx c.id)

/-- FABRIC_NOTICE: the first notice ends the command that it concerns; without one it has no effect (R362). -/
def execFabricNotice (die ctx : Nat) (n : FabNotice) (s : State) : Host.Outcome State Fault Refusal :=
  if 4 ≤ die ∨ 320 ≤ ctx then .fault .noSuchUnit
  else
    let s := { s with fabNotices := s.fabNotices.erase ((die, ctx), n) }
    let code := if 1 ≤ n.status ∧ n.status ≤ 4 then 0x6F + n.status else 0
    match n.p2p with
    | none => match s.fxMatch die ctx n.tag n.seq with
      | some (c, _) => .next (s.fxEnd die ctx c n.status code n.culprit)
      | none => .next s
    | some (peer, send) =>
      match (s.cmdsOf .fx die ctx).find? (fun c => decide (c.op = if send then 3 else 4) && c.open && (match c.fab with
          | some f => f.key.tag = n.tag && f.key.seq = n.seq && f.peer = peer
          | none => false)) with
      | some c => .next (s.fxEnd die ctx c n.status code n.culprit)
      | none => .next s

/-- Whether TIMEOUT has passed since a command's acceptance (R351, R362). -/
def State.fxExpired (s : State) (c : Cmd) : Bool :=
  c.open && decide (c.time + (if reg c.regs 8 = 0 then 10000 else (reg c.regs 8).toNat) * 1000 ≤ s.time.toNat)

/-- COLLECTIVE_TIMEOUT: the first command of the context whose limit has passed ends with status 2 (R362). -/
def execCollectiveTimeout (die ctx : Nat) (s : State) : Host.Outcome State Fault Refusal :=
  if 4 ≤ die ∨ 320 ≤ ctx then .fault .noSuchUnit
  else match (s.cmdsOf .fx die ctx).find? s.fxExpired with
    | none => .next s
    | some c => match c.fab with
      | none => .next s
      | some f => .next (s.fxEnd die ctx c 2 0x71 (c.awaited f).1)

/-! ### Point-to-point (R359) -/

/-- The open receive of a context that a local sender matches, with that send. -/
def State.fxLocalPair (s : State) (die ctx pd pc : Nat) : Option (Cmd × Cmd) :=
  (s.cmdsOf .fx die ctx).findSome? (fun c => match c.fab with
    | some f =>
      if c.op = 4 ∧ c.open ∧ (c.awaited f).2 = (s.packageIndex, pd, pc) then (s.fxPartner die ctx c f pd pc).map (c, ·) else none
    | none => none)

/-- Gives a pair's command its result. -/
def Cmd.withResult (c : Cmd) (d : FabData) : Cmd := { c with fab := c.fab.map (fun f => { f with result := some d }) }

/-- Rank of a command's member. -/
def Cmd.rank (c : Cmd) : Nat := (c.fab.map (·.rank)).getD 0xFFFF

/-- Moves a local pair: the sender's words are read, the receiver writes them, then the sender performs its arrive. -/
def State.fxMove (s : State) (die ctx pd pc : Nat) (rc sc : Cmd) : State :=
  if reg rc.regs 5 ≠ reg sc.regs 5 then
    let s := s.setFx die ctx (rc.end 4 0x73 sc.rank)
    let s := s.setFx pd pc (sc.end 4 0x73 rc.rank)
    (s.fxSettle die ctx rc.id).fxSettle pd pc sc.id
  else match s.fxSource pd pc sc with
    | .error e => s.fxNoSource pd pc sc sc.rank e
    | .ok (none, _, s) => s
    | .ok (some d, sc, s) => ((s.setFx pd pc sc).setFx die ctx (rc.withResult d)).fxSettle die ctx rc.id

/-- The outstanding receive or send of a context that a send or receive of another package matches (R359). -/
def State.fxRemote (s : State) (die ctx package pd pc : Nat) (m : PeerMsg) : Option Cmd :=
  (s.cmdsOf .fx die ctx).find? (fun c => decide (c.op = if m.send then 4 else 3) && !c.finished && (match c.fab with
    | some f => f.key.tag = m.tag && f.key.seq = m.seq && f.rank = m.named && f.peer = m.issuer && (c.awaited f).2 = (package, pd, pc)
    | none => false))

/-- A send or receive of another package that reaches one of this member that has ended, is finished or not, is late, and is answered with a
notice that names this member (R363). -/
def State.fxAnswer (s : State) (die package pd pc : Nat) (m : PeerMsg) : State :=
  s.sendNotice die 0xFF package pd pc { tag := m.tag, seq := m.seq, p2p := some (m.named, m.send), status := 2, culprit := m.named }

/-- The receiver of a send has written its last word: the send performs its arrive (R359). -/
def State.fxConfirmed (s : State) (die ctx : Nat) (c : Cmd) : State :=
  if c.open ∧ (c.fab.map (·.shipped)) = some true then (s.setFx die ctx (c.withResult [])).fxSettle die ctx c.id else s

/-- A matched send or receive of another package: its LEN must be this command's; a receive takes the data, a send ships its own. -/
def State.fxMet (s : State) (die ctx : Nat) (c : Cmd) (m : PeerMsg) : State :=
  if c.open = false then s
  else if (reg c.regs 5).toNat ≠ m.len then (s.setFx die ctx (c.end 4 0x73 m.issuer)).fxSettle die ctx c.id
  else if c.op = 4 then (s.setFx die ctx (c.withResult m.data)).fxSettle die ctx c.id
  else (s.setFx die ctx { c with fab := c.fab.map (fun f => { f with ready := true }) }).fxProgress die ctx c.id

/-- P2P_TRANSFER: a matched pair moves its data once both ends are accepted (R359). With a peer of another package the
event says that its command is accepted, and a send's data come with it, or that it has written the last word. One whose partner here has
already ended is late, and is answered with a notice (R363). -/
def execP2pTransfer (die ctx : Nat) (peer : PeerEnd) (s : State) : Host.Outcome State Fault Refusal :=
  if 4 ≤ die ∨ 320 ≤ ctx then .fault .noSuchUnit
  else match peer with
    | .here pd pc => match s.fxLocalPair die ctx pd pc with
      | none => .next s
      | some (rc, sc) => if rc.miss.isSome ∨ sc.miss.isSome then .next s else .next (s.fxMove die ctx pd pc rc sc)
    | .remote package pd pc m => match s.fxRemote die ctx package pd pc m with
      | some c =>
        if m.done then .next (s.fxConfirmed die ctx c)
        else if c.ending.isSome then .next (s.fxAnswer die package pd pc m)
        else .next (s.fxMet die ctx c m)
      | none =>
        if m.done = false ∧ m.seq < tabGet 0 s.p2p (p2pKey die ctx m.tag m.issuer m.send) then .next (s.fxAnswer die package pd pc m)
        else .next s

/-! ### The pager, discard, completion -/

/-- A pager's decline of the miss that holds a fabric command: FAILED while it reads; later its DBUF page or its
completion word is left (R362, R396, R399). -/
def State.fxDecline (s : State) (die ctx : Nat) (c : Cmd) (f : FabCmd) (m : Miss) (code : Nat) : State :=
  let c := c.decline m
  let s := s.setFx die ctx c
  if c.open then s.fxEnd die ctx c 6 code f.rank
  else if 8 * c.pos < c.fxBytes then (s.setFx die ctx (c.end 6 code f.rank)).fxSettle die ctx c.id
  else (s.setFx die ctx { c.end 6 0x62 f.rank with regs := c.regs.set 7 0 }).fxSettle die ctx c.id

/-- Ends the open fabric commands of a thread that is discarded, killed or ended (R244, R362). -/
def State.fxDiscard (s : State) (core slot : Nat) : State :=
  (s.cmds.filter (fun e => decide (e.1 / 2048 / 1024 = 5))).foldl (fun s e =>
    e.2.foldl (fun s c =>
      if c.who.core = core ∧ c.who.slot = slot then
        match s.fxCmd (e.1 / 2048 % 1024) (e.1 % 2048) c.id with
        | some c => s.fxEnd (e.1 / 2048 % 1024) (e.1 % 2048) c 3 0x72 c.rank
        | none => s
      else s) s) s

/-- STAT of a fabric command that has completed (R351). -/
def fxStat (c : Cmd) : Word :=
  let e := c.ending.getD (0, 0, 0xFFFF)
  let seq := (c.fab.map (·.key.seq)).getD 0
  word (seq % 65536 + e.2.2 % 65536 * 2 ^ 16 + e.2.1 % 256 * 2 ^ 32 + e.1 % 16 * 2 ^ 40 + (if c.cwe then 2 ^ 44 else 0))

end Sys2Proof.Machine
end

