-- ==== Sys2Proof/Machine/Mask.lean ====
section
/-! DEFINITION. The mask engine (R371–R381). -/

namespace Sys2Proof.Machine

/-- `mk.erw`. -/
def execMkErw (a : BitVec 5) (n : BitVec 6) (s : State) : Host.Outcome State Fault Refusal := engErw .mk a n s
/-- `mk.err`. -/
def execMkErr (b : BitVec 5) (n : BitVec 6) (s : State) : Host.Outcome State Fault Refusal := engErr .mk b n s

/-! ### Geometry (R371–R373) -/

def mkNs (r : List Word) : Nat := fld (reg r 1) 0 9
def mkNc (r : List Word) : Nat := fld (reg r 1) 16 9
def mkNsym (r : List Word) : Nat := (reg r 2).toNat
def mkV (r : List Word) : Nat := (reg r 4).toNat
def mkNch (r : List Word) : Nat := (mkV r + 511) / 512

/-- Whether register `i` keeps the limits of R373. -/
def mkRegOk (r : List Word) (i : Nat) : Bool :=
  let v := (reg r i).toNat
  match i with
  | 0 => v % 64 = 0
  | 1 => decide (v < 2 ^ 25) && fld (reg r 1) 9 7 = 0 && decide (1 ≤ mkNc r) && decide (mkNc r ≤ 256) && decide (1 ≤ mkNs r) &&
      decide (mkNs r ≤ 256)
  | 2 => decide (1 ≤ v) && decide (v ≤ 16)
  | 3 => decide (1 ≤ v) && decide (v ≤ 64)
  | 4 => decide (1 ≤ v) && decide (v ≤ 1048576)
  | 5 => v % 64 = 0
  | 6 => v % 64 = 0
  | 7 => decide (v < 256)
  | 8 => decide (v ≤ 64)
  | _ => v % 8 = 0

/-- Check 2 of R376. -/
def mkLimits (r : List Word) : Except Stop Unit :=
  match (List.range 10).find? (fun i => !mkRegOk r i) with
  | some i => throw (.trap 0x02 (word i))
  | none => pure ()

/-- Index of a pair (s, t). -/
def mkPair (r : List Word) (st t : Nat) : Nat := st * mkNsym r + t
/-- Address of the transition entry (s, t, c). -/
def mkEntryAddr (r : List Word) (st t c : Nat) : Word := reg r 0 + word (2 * (mkPair r st t * mkNc r + c))
/-- Address of word `w` of chunk `c` of a pair. -/
def mkChunkAddr (r : List Word) (st t c w : Nat) : Word := reg r 6 + word (64 * (mkPair r st t * mkNch r + c) + 8 * w)
/-- Address of the stack word that holds the nibble of depth `i + 1`. -/
def mkStackAddr (r : List Word) (i : Nat) : Word := reg r 9 + word (8 + 8 * (i / 16))

/-- The action of an entry: 0 reject, 1 keep, 2 push, 3 pop. -/
def mkAction (e : Nat) : Nat := e / 4096 % 4
/-- The symbol an entry pushes. -/
def mkSym (e : Nat) : Nat := e / 256 % 16
/-- The next state of an entry. -/
def mkNext (e : Nat) : Nat := e % 256

/-- Whether an entry is valid (R372). -/
def mkValid (r : List Word) (e : Nat) : Bool :=
  decide (mkAction e ≠ 0) && e / 16384 = 0 && decide (mkNext e < mkNs r) &&
    (mkAction e ≠ 2 || (decide (mkSym e ≠ 0) && decide (mkSym e < mkNsym r)))

/-- Whether mask bits of a pair with top `t` are set for a class with this entry (R372). -/
def mkAllowed (r : List Word) (t e : Nat) : Bool := mkValid r e && !(mkAction e = 3 && t = 0)

/-! ### Accesses -/

/-- An access of the sequence block or of a cache chunk, which needs presence (R373). -/
def State.mkWord (s : State) (w : Who) (acc : Access) (va : Word) : Except Stop (Nat × State) := do
  let (_, phys, s) ← s.access w .die { w.req acc 8 with pres := true } va
  pure (phys, s)

/-- A read of a class byte or of an entry. -/
def State.mkTable (s : State) (w : Who) (va : Word) (n : Nat) : Except Stop (Nat × State) := s.engRead w .die va n

/-- The stack nibble of depth `i + 1`. -/
def State.mkNibble (s : State) (w : Who) (r : List Word) (i : Nat) : Except Stop (Nat × State) := do
  let (phys, s) ← s.mkWord w .read (mkStackAddr r i)
  pure (s.peek phys 8 / 16 ^ (i % 16) % 16, s)

/-- Writes the stack nibble of depth `i + 1`, with presence as it stands. -/
def State.mkSetNibble (s : State) (w : Who) (r : List Word) (i v : Nat) : Except Stop State := do
  let (phys, s) ← s.mkWord w .readWrite (mkStackAddr r i)
  let old := s.peek phys 8
  pure (s.poke phys 8 (old - (old / 16 ^ (i % 16) % 16) * 16 ^ (i % 16) + v * 16 ^ (i % 16)))

/-! ### Productions -/

/-- The production of a context. -/
def State.prodOf (s : State) (inst ctx : Nat) : Option MkProd := tabGet none s.mkp (ctxKey .mk inst ctx)
/-- Replaces the production of a context. -/
def State.setProd (s : State) (inst ctx : Nat) (p : Option MkProd) : State :=
  { s with mkp := tabPut none s.mkp (ctxKey .mk inst ctx) p }

/-- Starts production for a pair; one that still runs is abandoned (R378). -/
def State.mkProduce (s : State) (c : Nat × Nat) (w : Who) (r : List Word) (st t : Nat) : State :=
  s.setProd c.1 c.2 (some { who := w, regs := r, state := st, top := t, chunk := 0, count := 0, last := 0, miss := none })

/-- The ready word of a pair (R374). -/
def readyWord (p : MkProd) : Word :=
  word ((if p.count = 1 then p.last else 0xFFFFF) * 2 ^ 44 + p.top * 2 ^ 40 + p.state * 2 ^ 32 + p.count)

/-- Writes STAT of a mask context: it stays EMPTY while an accepted command of the context waits (R21). -/
def State.mkStat (s : State) (c : Nat × Nat) (stat : Word) : State :=
  s.setEr .mk c.1 c.2 10 stat (if s.cmdsOf .mk c.1 c.2 = [] then .full else .empty)

/-- Writes STATE, SP and STAT of a context (R373). -/
def State.mkRegs (s : State) (c : Nat × Nat) (st sp : Nat) (stat : Word) : State :=
  ((s.setEr .mk c.1 c.2 7 (word st) .full).setEr .mk c.1 c.2 8 (word sp) .full).mkStat c stat

/-! ### Commands that move the automaton (R376, R377) -/

/-- `mk.load gA`: start state, empty stack, steps 0. -/
def execMkLoad (a : BitVec 5) (s : State) : Host.Outcome State Fault Refusal :=
  run s do
    let sl ← s.me.gate [.g a]
    let c := s.myCtx .mk
    let w := s.who
    let r := s.snap .mk c.1 c.2 11
    mkLimits r
    let st := (sl.gv a).toNat
    if mkNs r ≤ st then throw (.trap 0x82 (sl.gv a))
    let s ← (List.range 4).foldlM (fun s i => do
      let (p, s) ← s.mkWord w .write (mkStackAddr r (16 * i))
      pure (s.poke p 8 0)) s
    let (p, s) ← s.mkWord w .write (reg r 9)
    let s := s.setPres p .empty
    pure (((s.mkRegs c st 0 0).mkProduce c w r st 0).setMe sl.advance)

/-- The stack after an entry's action: its depth, its top, and the state (R377). -/
def State.mkAct (s : State) (w : Who) (r : List Word) (e d t : Nat) : Except Stop (Nat × Nat × State) :=
  match mkAction e with
  | 2 => do
    let s ← s.mkSetNibble w r d (mkSym e)
    pure (d + 1, mkSym e, s)
  | 3 => do
    let s ← s.mkSetNibble w r (d - 1) 0
    if d = 1 then pure (0, 0, s) else do
      let (n, s) ← s.mkNibble w r (d - 2)
      pure (d - 1, n, s)
  | _ => pure (d, t, s)

/-- `mk.step gB, gA` (R377). -/
def execMkStep (a b : BitVec 5) (s : State) : Host.Outcome State Fault Refusal :=
  run s do
    let sl ← s.me.gate [.g a]
    let c := s.myCtx .mk
    let w := s.who
    let r := s.snap .mk c.1 c.2 11
    mkLimits r
    let tok := sl.gv a
    if mkV r ≤ tok.toNat then throw (.trap 0x82 tok)
    let d := (reg r 8).toNat
    let (t, s) ← if d = 0 then pure (0, s) else s.mkNibble w r (d - 1)
    let (cl, s) ← s.mkTable w (reg r 5 + tok) 1
    if mkNc r ≤ cl then throw (.trap 0x82 tok)
    let (e, s) ← s.mkTable w (mkEntryAddr r (reg r 7).toNat t cl) 2
    if mkAction e = 3 ∧ t = 0 then throw (.trap 0x81 tok)
    if mkValid r e = false then throw (.trap 0x82 tok)
    if mkAction e = 2 ∧ (reg r 3).toNat ≤ d then throw (.trap 0x80 (word d))
    let (d, t, s) ← s.mkAct w r e d t
    let (p, s) ← s.mkWord w .write (reg r 9)
    let s := s.setPres p .empty
    let s := s.mkRegs c (mkNext e) d (word ((fld (reg r 10) 0 32 + 1) % 2 ^ 32))
    pure ((s.mkProduce c w r (mkNext e) t).setMe (sl.wrG b (word (mkNext e + 256 * t + 4096 * d))).advance)

/-- `mk.reset` (R377): stops production; the ready word is VOID with value 0. -/
def execMkReset (s : State) : Host.Outcome State Fault Refusal :=
  run s do
    let c := s.myCtx .mk
    let r := s.snap .mk c.1 c.2 11
    mkLimits r
    let (p, s) ← s.mkWord s.who .write (reg r 9)
    let s := s.pokeWord p 0 .void
    pure (((s.mkStat c (word (fld (reg r 10) 0 32))).setProd c.1 c.2 none).setMe s.me.advance)

/-! ### Production (R378) -/

/-- The mask word of 64 tokens from `v` on: each class byte and its entry are read in turn. -/
def State.mkBits (s : State) (p : MkProd) (v : Nat) : Nat → Except Stop (Nat × State)
  | 0 => pure (0, s)
  | n + 1 =>
    if mkV p.regs ≤ v then pure (0, s) else do
      let (cl, s) ← s.mkTable p.who (reg p.regs 5 + word v) 1
      let (b, s) ← if mkNc p.regs ≤ cl then pure (0, s) else (do
        let (e, s) ← s.mkTable p.who (mkEntryAddr p.regs p.state p.top cl) 2
        pure (b2n (mkAllowed p.regs p.top e), s))
      let (rest, s) ← s.mkBits p (v + 1) n
      pure (b + 2 * rest, s)

/-- The physical places of a chunk's words. -/
def State.chunkPlaces (s : State) (p : MkProd) (acc : Access) : List Nat → Except Stop (List Nat × State)
  | [] => pure ([], s)
  | i :: t => do
    let (a, s) ← s.mkWord p.who acc (mkChunkAddr p.regs p.state p.top p.chunk i)
    let (l, s) ← s.chunkPlaces p acc t
    pure (a :: l, s)

/-- Computes the words of a chunk. -/
def State.chunkWords (s : State) (p : MkProd) : List Nat → Except Stop (List Nat × State)
  | [] => pure ([], s)
  | i :: t => do
    let (x, s) ← s.mkBits p (512 * p.chunk + 64 * i) 64
    let (l, s) ← s.chunkWords p t
    pure (x :: l, s)

/-- Set bits of a chunk's words, by token. -/
def chunkTokens (c : Nat) (l : List Nat) : List Nat :=
  ((l.zip (List.range 8)).map (fun e => ((List.range 64).filter (fun b => e.1.testBit b)).map (fun b => 512 * c + 64 * e.2 + b))).flatten

/-- Counts a chunk into its production. -/
def MkProd.take (p : MkProd) (l : List Nat) : MkProd :=
  let t := chunkTokens p.chunk l
  { p with chunk := p.chunk + 1, count := p.count + t.length, last := t.getLastD p.last }

/-- One chunk: used as it stands when its eight words are FULL, else computed and written (R378). -/
def State.mkChunk (s : State) (p : MkProd) : Except Stop (MkProd × State) := do
  let (ps, s) ← s.chunkPlaces p .read (List.range 8)
  if ps.all (fun a => decide (s.presAt a = .full)) then
    pure (p.take (ps.map (fun a => s.peek a 8)), s)
  else do
    let (l, s) ← s.chunkWords p (List.range 8)
    let (ps, s) ← s.chunkPlaces p .write (List.range 8)
    pure (p.take l, (ps.zip l).foldl (fun s e => s.pokeWord e.1 (word e.2) .full) s)

/-- A production that fails: STAT.fail has the code, and the ready word becomes VOID where it can be written (R378, R396). While its page
misses or is held, the production stands beyond its last chunk, with the code. -/
def State.mkFail (s : State) (inst ctx : Nat) (p : MkProd) (code : Nat) : State :=
  let stat := word (fld (s.erp .mk inst ctx 10).1 0 32 + code * 2 ^ 32)
  match s.mkWord p.who .write (reg p.regs 9) with
  | .ok (a, s) => ((s.setPres a .void).mkStat (inst, ctx) stat).setProd inst ctx none
  | .error (.trap _ _) => (s.mkStat (inst, ctx) stat).setProd inst ctx none
  | .error (.miss m) => ((s.mkStat (inst, ctx) stat).setProd inst ctx
      (some { p with miss := some m, chunk := mkNch p.regs + 1 + code })).sendMiss p.who.core none p.who.acct.toNat m
  | .error _ => (s.mkStat (inst, ctx) stat).setProd inst ctx (some { p with miss := none, chunk := mkNch p.regs + 1 + code })

/-- How a production goes on: a miss holds it, a fault fails it (R378), a failed tag quarantines its page (R51). -/
def State.mkResult (s : State) (inst ctx : Nat) (p : MkProd) (x : Except Stop State) : Host.Outcome State Fault Refusal :=
  match x with
  | .ok t => .next t
  | .error (.miss m) => .next ((s.setProd inst ctx (some { p with miss := some m })).sendMiss p.who.core none p.who.acct.toNat m)
  | .error (.trap code va) => .next ((s.tagFails p.who .die code va).mkFail inst ctx p code)
  | .error (.park k) => .next (s.stalls p.who (.park k))
  | .error (.hold _ _) => .next s
  | .error (.read _ _) => .next s
  | .error (.stuck f) => .fault f

/-- MASK_PRODUCTION_CHUNK: the next chunk of a context's production. A failed one goes on with its VOID word. -/
def execMaskProductionChunk (die ctx : Nat) (s : State) : Host.Outcome State Fault Refusal :=
  match s.prodOf die ctx with
  | none => .next s
  | some p =>
    if p.miss.isSome ∨ p.chunk = mkNch p.regs then .next s
    else if mkNch p.regs < p.chunk then .next (s.mkFail die ctx p (p.chunk - mkNch p.regs - 1))
    else s.mkResult die ctx p (do
      let (q, s) ← s.mkChunk p
      pure (s.setProd die ctx (some q)))

/-- MASK_READY: every chunk is in the cache, and the ready word is written with FULL as one release (R378). -/
def execMaskReady (die ctx : Nat) (s : State) : Host.Outcome State Fault Refusal :=
  match s.prodOf die ctx with
  | none => .next s
  | some p =>
    if p.miss.isSome ∨ p.chunk ≠ mkNch p.regs then .next s
    else s.mkResult die ctx p (do
      let (a, s) ← s.mkWord p.who .write (reg p.regs 9)
      pure ((s.pokeWord a (readyWord p) .full).setProd die ctx none))

/-! ### Commands that read the mask (R380) -/

/-- Whether a command belongs to the executing slot. -/
def State.mine (s : State) (c : Cmd) : Bool := decide (c.who.core = s.curCore) && decide (c.who.slot = s.curSlot)

/-- Drops the waiting mask command of the executing slot; STAT is FULL again when no other is left (R21). -/
def State.mkDrop (s : State) (c : Nat × Nat) : State :=
  let l := s.cmdsOf .mk c.1 c.2
  if l.any s.mine then
    let m := l.filter (fun x => !s.mine x)
    let t := s.setCmds .mk c.1 c.2 m
    if m = [] then t.statFull .mk c.1 c.2 (s.erp .mk c.1 c.2 10).1 else t
  else s

/-- The mask command of the executing slot that was accepted before and goes on now. -/
def State.mkHeld (s : State) (c : Nat × Nat) : Option Cmd := if s.me.resuming then (s.cmdsOf .mk c.1 c.2).find? s.mine else none

/-- The registers of a mask command: those of its acceptance while it waits, else as they stand (R20). -/
def State.mkSnap (s : State) (c : Nat × Nat) : List Word :=
  match s.mkHeld c with
  | some x => x.regs
  | none => s.snap .mk c.1 c.2 11

/-- The operand of a mask command, with the V of a VOID source: that of its acceptance while it waits. -/
def State.mkOperand (s : State) (a : BitVec 5) : Except Stop (Word × Slot) :=
  match s.mkHeld (s.myCtx .mk) with
  | some x => .ok (x.a, if x.b = 0 then s.me else s.me.setV)
  | none => (s.me.gate [.g a]).map (fun sl => (sl.gv a, sl))

/-- The command waits, with the operand and the registers of its acceptance; `v` tells of a VOID operand. -/
def State.mkPark (s : State) (c : Nat × Nat) (r : List Word) (a : Word) (v : Bool) (w : Wait) : State :=
  (s.accept .mk c (Cmd.start 6 s.who a (if v then 1 else 0) r 0 s.time.toNat)).parkMe w

/-- A mask-reading command with operand `a`: `full` says what it does with a FULL ready word, `void` with a VOID one, `wait` how it
waits. -/
def mkReader (a : Word) (v : Bool) (chk : List Word → Except Stop Unit)
    (full : State → List Word → Word → Except Stop (Wait ⊕ State))
    (void : Slot → Slot) (wait : Nat → Except Stop (Wait ⊕ Slot)) (s : State) : Host.Outcome State Fault Refusal :=
  let c := s.myCtx .mk
  let r := s.mkSnap c
  let s := s.mkDrop c
  run s do
    mkLimits r
    chk r
    let (p, s) ← s.mkWord s.who .read (reg r 9)
    match if s.queuedBefore s.myPlace p then .empty else s.presAt p with
    | .full => match ← full s r (word (s.peek p 8)) with
      | .inl w => pure (s.mkPark c r a v w)
      | .inr t => pure t
    | .void => pure (s.setMe (void s.me.setV).advance)
    | .empty => match ← wait p with
      | .inl w => pure (s.mkPark c r a v w)
      | .inr sl => pure (s.setMe sl.advance)

/-- `mk.wait gB, gA` (R380). -/
def execMkWait (a b : BitVec 5) (s : State) : Host.Outcome State Fault Refusal :=
  match s.mkOperand a with
  | .error e => run s (.error e)
  | .ok (v, sl) =>
    let limit := fld v 0 63
    mkReader v (sl ≠ s.me) (fun _ => pure ())
      (fun s _ x => pure (.inr (s.setMe (sl.wrG b (if fld x 0 21 = 0 then 2 else if fld x 0 21 = 1 then 1 else 0)).advance)))
      (fun t => t.wrG b 4)
      (fun p =>
        if s.me.reply = .gaveUp ∨ limit = 0 then (if bit v 63 then throw (.trap 0x83 (word limit)) else pure (.inr (sl.wrG b 3)))
        else pure (.inl (match s.me.resuming, s.me.wait with
          | true, .ready _ d _ _ => .ready p d (bit v 63) (word limit)
          | _, _ => .ready p (s.time.toNat + limit) (bit v 63) (word limit)))) s

/-- `mk.forced gB` (R380). -/
def execMkForced (b : BitVec 5) (s : State) : Host.Outcome State Fault Refusal :=
  mkReader 0 false (fun _ => pure ())
    (fun s _ x => pure (.inr (s.setMe (s.me.wrG b (if fld x 0 21 = 1 then word (fld x 44 20) else 0xFFFFFFFFFFFFFFFF)).advance)))
    (fun t => t.wrG b 0xFFFFFFFFFFFFFFFF)
    (fun p => pure (.inl (.word p .notEmpty))) s

/-- The words of a chunk as `lds.pkg` reads them: a wait while one is EMPTY; the Bool tells of a VOID one. -/
def State.maskWords (s : State) (r : List Word) (st t c : Nat) : List Nat → Except Stop (Wait ⊕ (List Nat × Bool × State))
  | [] => pure (.inr ([], false, s))
  | i :: k => do
    let (p, s) ← s.mkWord s.who .read (mkChunkAddr r st t c i)
    match if s.queuedBefore s.myPlace p then .empty else s.presAt p with
    | .empty => pure (.inl (.word p .notEmpty))
    | q => match ← s.maskWords r st t c k with
      | .inl w => pure (.inl w)
      | .inr (l, v, s) => pure (.inr ((if q = .void then 0 else s.peek p 8) :: l, v || decide (q = .void), s))

/-- `mk.mask vN, gA` (R380). -/
def execMkMask (a : BitVec 5) (v : BitVec 4) (s : State) : Host.Outcome State Fault Refusal :=
  match s.mkOperand a with
  | .error e => run s (.error e)
  | .ok (c, sl) =>
    mkReader c (sl ≠ s.me) (fun r => if mkNch r ≤ c.toNat then throw (.trap 0x82 c) else pure ())
      (fun s r x => do
        match ← s.maskWords r (fld x 32 8) (fld x 40 4) c.toNat (List.range 8) with
        | .inl w => pure (.inl w)
        | .inr (l, vd, s) =>
          let m : VWord := BitVec.ofNat 1024 (l.foldr (fun w t => w + 2 ^ 64 * t) 0)
          pure (.inr (s.setMe ((if vd then sl.setV else sl).wrV v m).advance)))
      (fun t => t.setVr v 0 .void)
      (fun p => pure (.inl (.word p .notEmpty))) s

/-- MK_WAIT_TIMEOUT: the deadline of a waiting `mk.wait` has come; the instruction goes on and gives up (R380). -/
def execMkWaitTimeout (core slot : Nat) (s : State) : Host.Outcome State Fault Refusal :=
  if slotExists core slot = false then .fault .noSuchUnit
  else
    let t := s.slotAt core slot
    match t.state, t.wait with
    | .parked, .ready _ d _ _ =>
      if d ≤ s.time.toNat then .next (s.setSlot core slot { t with state := .ready, resuming := true, reply := .gaveUp }) else .next s
    | _, _ => .next s

end Sys2Proof.Machine
end

