-- ==== Sys2Proof/Machine/Flags.lean ====
section
/-! DEFINITION. The floating flags and faults of FPCSR (R133, R150). FLAGS.V is in Ops. -/

namespace Sys2Proof.Machine

/-- FPCSR of the slot. -/
def Slot.fpcsr (sl : Slot) : Word := sl.csrv 0x012
/-- The rounding mode (R133). -/
def Slot.rm (sl : Slot) : Nat := fld sl.fpcsr 0 2
/-- Flush narrow inputs. -/
def Slot.fzi (sl : Slot) : Bool := bit sl.fpcsr 2
/-- Flush FP32 results. -/
def Slot.fzo (sl : Slot) : Bool := bit sl.fpcsr 3

/-- The first element, in ascending order, whose flags meet a mask. -/
def firstWith (m : Fl) (l : List (Nat × Fl)) : Option Nat := (l.find? (fun p => decide (p.2 &&& m ≠ 0))).map (·.1)

/-- R150: the flags of the active elements, in ascending element order, are ORed into FPCSR, unless NSAT or TNV turns one
of them into a fault whose EVAL is the lowest element that causes it. -/
def Slot.fpDone (sl : Slot) (l : List (Nat × Fl)) : Except Stop Slot :=
  let all : Fl := l.foldl (fun a p => a ||| p.2) (0 : Fl)
  let ok := sl.setCsr 0x012 (sl.fpcsr ||| word (all.toNat % 32 * 256))
  match firstWith flNoNan l, firstWith flNV l with
  | some i, _ => if bit sl.fpcsr 4 then .error (.trap 0x11 (word i))
    else if bit sl.fpcsr 5 then .error (.trap 0x10 (word ((firstWith flNV l).getD i))) else .ok ok
  | none, some i => if bit sl.fpcsr 5 then .error (.trap 0x10 (word i)) else .ok ok
  | none, none => .ok ok

end Sys2Proof.Machine
end

