-- ==== Sys2Proof/Machine/Matrix.lean ====
section
/-! DEFINITION. The matrix engine (R313–R334). -/

namespace Sys2Proof.Machine

/-! ### Geometry and limits (R321) -/

def mxM (r : List Word) : Nat := fld (reg r 0) 0 8
def mxN (r : List Word) : Nat := fld (reg r 0) 8 8
def mxAfmt (r : List Word) : Nat := fld (reg r 0) 16 4
def mxL (r : List Word) : Nat := fld (reg r 0) 20 4
def mxDf (r : List Word) : Nat := fld (reg r 0) 24 4
def mxSc (r : List Word) : Nat := fld (reg r 0) 28 2
def mxSr (r : List Word) : Nat := fld (reg r 0) 30 2
def mxTr (r : List Word) : Nat := fld (reg r 0) 32 2
def mxTc (r : List Word) : Nat := fld (reg r 0) 34 2
def mxTile (r : List Word) : Nat := fld (reg r 0) 36 4
/-- A step of this snapshot works alone (R321). -/
def mxSolo (r : List Word) : Bool := mxSr r = 0 && mxSc r = 0
/-- Key of a tile row: the tile, its shape and the row (R334). -/
def mxRowKey (r : List Word) : Nat := ((mxTile r * 4 + mxSr r) * 4 + mxSc r) * 4 + mxTr r
/-- Bytes of an activation (R317). -/
def mxEa (r : List Word) : Nat := if mxAfmt r = 2 then 2 else 1
/-- Bytes of an element drained in format k (R331). -/
def drainBytes (k : Nat) : Nat := if k = 0 then 4 else if k ≤ 2 then 2 else 1

/-- Whether register `i` keeps the limits of R321; `w` is the drain's element width. -/
def mxRegOk (r : List Word) (w i : Nat) : Bool :=
  let v := (reg r i).toNat
  match i with
  | 0 => decide (v < 2 ^ 40) && decide (mxSr r < 3) && decide (mxSc r < 3) && decide (mxTr r < 2 ^ mxSr r) &&
      decide (mxTc r < 2 ^ mxSc r) && (!mxSolo r || mxTile r = 0) && (mxDf r = 4 || mxDf r = 8) &&
      (mxL r = 1 || mxL r = 2 || mxL r = 4) && decide (mxAfmt r < 3) && decide (1 ≤ mxN r) && decide (mxN r ≤ 64) &&
      decide (1 ≤ mxM r) && decide (mxM r ≤ 64)
  | 1 => v % 8 = 0
  | 2 => v % 8 = 0 && decide (v < 2 ^ 20)
  | 3 => v % 4 = 0 && decide (v < 16384)
  | 4 => v % 32 = 0 && decide (v < 16384)
  | 5 => v % 32 = 0 && decide (v < 16384)
  | 6 => v % 8 = 0
  | 7 => v % 8 = 0 && decide (8 * ((mxN r * w + 7) / 8) ≤ v)
  | _ => true

/-- Check 2 of R323. -/
def mxLimits (r : List Word) (w : Nat) (used : List Nat) : Except Stop Unit :=
  match used.find? (fun i => !mxRegOk r w i) with
  | some i => throw (.trap 0x50 (word i))
  | none => pure ()

/-- The matrix engine of a core. -/
def State.mxAt (s : State) (core : Nat) : MxCore := tabGet .empty s.mx core
/-- Replaces the state of a matrix engine. -/
def State.setMx (s : State) (core : Nat) (x : MxCore) : State := { s with mx := tabPut .empty s.mx core x }

/-- STAT (R321). -/
def MxCore.stat (x : MxCore) : Word :=
  word (b2n x.ovf + 2 * b2n x.invalid + 4 * b2n (x.voidm ≠ []) + 8 * b2n x.chain + 16 * b2n x.held.isSome +
    x.groups % 65536 * 65536 + (if x.chain then (x.ec % 1024).toNat * 2 ^ 32 else 0))

/-- R328, R323: while a step is held or performed, the commands of other slots park. -/
def State.mxTurn (s : State) : Except Stop Unit :=
  let x := s.mxAt s.curCore
  if x.running.isSome then throw (.park .mxHeld)
  else match x.held with
    | some h => if h.who.slot ≠ s.curSlot then throw (.park .mxHeld) else pure ()
    | none => pure ()

/-- EVAL 4 of R323: a command that the holding fibre may not issue. -/
def MxCore.notHeld (x : MxCore) : Except Stop Unit := if x.held.isSome then throw (.trap 0x51 4) else pure ()

/-- Replaces the state of a matrix engine, and its STAT with it (R321). -/
def State.putMx (s : State) (core : Nat) (x : MxCore) : State := (s.setMx core x).statFull .mx core 0 x.stat

/-- Ends a command: STAT is written and FULL, and the thread goes on (R321, R323); its cycles are counted (R258). -/
def State.mxDone (s : State) (x : MxCore) (sl : Slot) : State :=
  ((s.putMx s.curCore x).setMe sl.advance).countTimed s.me.acct.toNat 17

/-- `mx.erw`: parks while another slot's step is held (R328); the check of its index comes first (R83). -/
def execMxErw (a : BitVec 5) (n : BitVec 6) (s : State) : Host.Outcome State Fault Refusal :=
  match s.mxTurn with
  | .ok _ => engErw .mx a n s
  | .error e => if n.toNat = engStat .mx then engErw .mx a n s else run s (.error e)

/-- `mx.err`. -/
def execMxErr (b : BitVec 5) (n : BitVec 6) (s : State) : Host.Outcome State Fault Refusal :=
  match s.mxTurn with
  | .ok _ => engErr .mx b n s
  | .error e => run s (.error e)

/-- `mx.begin gA` (R326). -/
def execMxBegin (a : BitVec 5) (s : State) : Host.Outcome State Fault Refusal :=
  run s do
    s.mxTurn
    let sl ← s.me.gate [.g a]
    let x := s.mxAt s.curCore
    let e := (sl.gv a).toInt
    if e < -320 ∨ 320 < e then throw (.trap 0x50 (sl.gv a))
    x.notHeld
    if x.chain then throw (.trap 0x51 1)
    pure (s.mxDone { x with chain := true, ec := e, groups := 0, total := [], satf := [], inval := [] } sl)

/-! ### The B-slice (R314–R316) -/

/-- `n` bytes of a core's B-slice from byte `x`. -/
def State.bs (s : State) (core x n : Nat) : Nat := s.peek (bsBase + core * 1048576 + x) n

/-- Whether a read of a core's B-slice at byte `x` meets a page whose hash check failed (R47). -/
def State.bsBad (s : State) (core x : Nat) : Bool := s.badHash.any (fun e => decide (e.1 = (bsBase + core * 1048576 + x) / 65536 * 65536))

/-- Reads of a B-slice at some bytes: one in an invalid page takes 0x0A, with EVAL = its B-slice offset, as 0x52 has it (R47, R327; log
entry 64). -/
def State.bsReads (s : State) (core : Nat) (l : List Nat) : Except Stop Unit :=
  match l.find? (s.bsBad core) with
  | some x => throw (.trap 0x0A (word x))
  | none => pure ()

/-- Code `i` of group `g` in column `n` (R141, R314). -/
def State.code (s : State) (core : Nat) (r : List Word) (n g i : Nat) : Nat :=
  let l := mxL r
  s.bs core (16384 * n + (reg r 3).toNat + 4 * l * g + i * l / 8) 1 / 2 ^ (i * l % 8) % 2 ^ l

/-- A permutation entry as one number (R315). -/
def State.permEntry (s : State) (core : Nat) (r : List Word) (n g : Nat) : Nat :=
  s.bs core (16384 * n + (reg r 4).toNat + 32 * g) 32

/-- c_j of an entry; c_0 is 0. -/
def permC (e j : Nat) : Nat := if j = 0 then 0 else nf e (160 + 6 * (j - 1)) 6
/-- π(i) of an entry. -/
def permPi (e i : Nat) : Nat := nf e (5 * i) 5

/-- Lc of a level format. -/
def levelCode (l : Nat) : Nat := if l = 1 then 0 else if l = 2 then 1 else 2

/-- Whether an entry is valid (R315). -/
def permOk (l e : Nat) : Bool :=
  decide (nf e 250 2 = levelCode l) && decide (nf e 252 4 = 0) &&
    (List.range 32).all (fun v => (List.range 32).any (fun i => decide (permPi e i = v))) &&
    (List.range 15).all (fun j =>
      if j + 1 < 2 ^ l then decide (permC e (j + 1) ≤ 32) && decide (permC e j ≤ permC e (j + 1)) else decide (permC e (j + 1) = 0))

/-- The first item that does not fit in a column part (R323, check 5): codes, then entries, then codebook entries. -/
def mxRange (r : List Word) (a b : Nat) (books : Bool) : Option Nat :=
  let gs := (List.range a).map (b + ·)
  let cl := 4 * mxL r
  match gs.find? (fun g => decide (16384 < (reg r 3).toNat + cl * g + cl)) with
  | some g => some ((reg r 3).toNat + cl * g)
  | none => match gs.find? (fun g => decide (16384 < (reg r 4).toNat + 32 * g + 32)) with
    | some g => some ((reg r 4).toNat + 32 * g)
    | none => if books then (match gs.find? (fun g => decide (16384 < (reg r 5).toNat + 32 * (g / 8) + 32)) with
        | some g => some ((reg r 5).toNat + 32 * (g / 8))
        | none => none) else none

/-- The entry that a stable counting sort of 32 codes gives (R325). -/
def sortEntry (l : Nat) (codes : List Nat) : Nat :=
  let order := ((List.range (2 ^ l)).map (fun v => (List.range 32).filter (fun i => decide (codes.getD i 0 = v)))).flatten
  let pi := order.foldr (fun i a => i + 32 * a) 0
  let cs := (List.range 15).map (fun j => if j + 1 < 2 ^ l then (codes.filter (fun c => decide (c < j + 1))).length else 0)
  pi + cs.foldr (fun c a => c + 64 * a) 0 * 2 ^ 160 + levelCode l * 2 ^ 250

/-- `mx.perm gA, gB` (R325). It is open to a holding fibre (R323). -/
def execMxPerm (a b : BitVec 5) (s : State) : Host.Outcome State Fault Refusal :=
  run s do
    s.mxTurn
    let sl ← s.me.gate [.g a, .g b]
    let r := s.snap .mx s.curCore 0 8
    mxLimits r 1 [0, 3, 4]
    let n := (sl.gv a).toNat
    if n = 0 ∨ 256 < n then throw (.trap 0x50 (sl.gv a))
    match mxRange r n (sl.gv b).toNat false with
    | some o => throw (.trap 0x53 (word o))
    | none => pure ()
    let core := s.curCore
    s.bsReads core ((List.range (mxN r)).map (fun c => (List.range n).map (fun i =>
      16384 * c + (reg r 3).toNat + 4 * mxL r * ((sl.gv b).toNat + i)))).flatten
    let es := ((List.range (mxN r)).map (fun c => (List.range n).map (fun i =>
      let g := (sl.gv b).toNat + i
      (bsBase + core * 1048576 + 16384 * c + (reg r 4).toNat + 32 * g,
        sortEntry (mxL r) ((List.range 32).map (s.code core r c g)))))).flatten
    let s := es.foldl (fun s e => s.poke e.1 32 e.2) s
    pure (s.mxDone (s.mxAt core) sl)

/-! ### Steps (R317–R320, R327) -/

/-- A step between two of its micro-tiles, with nothing outstanding. -/
def MxStep.stopped (st : MxStep) (started : Bool) : MxStep := { st with started := started, miss := none, places := [], got := [] }

/-- `mx.step gA, gB` (R327): checks, then the step runs; a held step of this fibre resumes instead (R328). -/
def execMxStep (a b : BitVec 5) (s : State) : Host.Outcome State Fault Refusal :=
  run s do
    s.mxTurn
    let sl ← s.me.gate [.g a, .g b]
    let x := s.mxAt s.curCore
    match x.held with
    | some h =>
      pure (((s.setMx s.curCore { x with held := none, running := some (h.stopped (mxSolo h.regs)) }).setMe sl).parkMe .mxStep)
    | none =>
      let r := s.snap .mx s.curCore 0 8
      mxLimits r 1 [0, 1, 2, 3, 4, 5]
      let n := (sl.gv a).toNat
      if n = 0 ∨ 16 < n then throw (.trap 0x50 (sl.gv a))
      if x.chain = false then throw (.trap 0x51 2)
      if 65535 < x.groups + n then throw (.trap 0x51 3)
      match mxRange r n (sl.gv b).toNat true with
      | some o => throw (.trap 0x53 (word o))
      | none => pure ()
      let k := tabGet 0 x.steps (mxRowKey r)
      let st : MxStep :=
        { who := s.who, regs := r, a := n, b := (sl.gv b).toNat, started := mxSolo r, index := k, miss := none, places := [], got := [] }
      pure (((s.setMx s.curCore
        { x with mxdone := 0, running := some st, steps := tabPut 0 x.steps (mxRowKey r) (k + 1) }).setMe sl).parkMe .mxStep)

/-- A block of 32 activations as integers and a shift (R317); none is a non-finite block. -/
def actBlock (afmt : Nat) (fzi : Bool) (es : List Nat) : Option (List Int × Int) :=
  if afmt = 0 then some (es.map (fun (e : Nat) => if e < 128 then (e : Int) else (e : Int) - 256), 0)
  else
    let f := if afmt = 1 then Fmt.e4m3 else Fmt.bf16
    let w : Int := if afmt = 1 then 15 else 23
    let xs := es.map (f.decodeFlush (fzi && decide (afmt = 1)))
    if xs.any (fun x => match x with | .fin _ _ _ => false | _ => true) then none
    else match maxTop (xs.filterMap topOf) with
      | none => some (xs.map (fun _ => 0), 0)
      | some eb => some (xs.map (windowTerm (eb - w + 27)), eb - w)

/-- Difference d_j of a codebook entry held as one number (R316). -/
def diffOf (df e j : Nat) : Nat := if df = 8 then nf e (8 * (3 + j)) 8 else nf e (32 + 4 * (j - 1)) 4

/-- The group value G (R318); none is a non-finite term. -/
def groupValue (l df perm book : Nat) (x : Option (List Int × Int)) : Option Num :=
  match x, Fmt.bf16.decode (nf book 0 16), Fmt.bf16.decode (nf book 16 16) with
  | some (xs, e), .fin bs bm be, .fin qs qm qe =>
    let y := (List.range 32).map (fun i => xs.getD (permPi perm i) 0)
    let t (j : Nat) : Int := (y.drop (permC perm j)).foldl (· + ·) 0
    let p : Int := (List.range (2 ^ l - 1)).foldl (fun a j => a + (diffOf df book (j + 1) : Int) * t (j + 1)) 0
    let at2 (v : Int) : Num := .fin (decide (v < 0)) v.natAbs e
    some (addNum (mulNum (.fin bs bm be) (at2 (t 0))) (mulNum (.fin qs qm qe) (at2 p)))
  | _, _, _ => none

/-- t of R319 before saturation: G truncated toward zero at 2^E_c. -/
def chainTerm (ec : Int) (g : Num) : Int := windowTerm (ec + 27) g

/-- The effect of a micro-tile on one element (R319). -/
def mxElem (x : MxCore) (k : Nat) (rowVoid : Bool) (g : Option Num) : MxCore :=
  let x := { x with touched := tabPut false x.touched k true }
  if tabGet false x.voidm k then x
  else if rowVoid then { x with voidm := tabPut false x.voidm k true }
  else match g with
    | none => { x with inval := tabPut false x.inval k true }
    | some g =>
      let t := chainTerm x.ec g
      let c : Int := if 2 ^ 63 - 1 < t then 2 ^ 63 - 1 else if t < -(2 ^ 63) then -(2 ^ 63) else t
      { x with total := tabPut 0 x.total k (tabGet 0 x.total k + c),
               satf := if c = t then x.satf else tabPut false x.satf k true }

/-- Addresses of the A words of row `m`, group `g` of a step (R317). -/
def MxStep.wordsAt (st : MxStep) (m g : Nat) : List Word :=
  let ea := mxEa st.regs
  (List.range (4 * ea)).map (fun i => reg st.regs 1 + word (m * (reg st.regs 2).toNat + 32 * g * ea + 8 * i))

/-- The A word at `va` of a micro-tile: none while it must be waited for. A word is read as `lds.pkg` reads it, whatever other words the
tile waits on, and stays read; one that must wait keeps its place (R65, R320). -/
def State.aWord (s : State) (st : MxStep) (tile : Nat) (va : Word) : Except Stop (Option (Word × Presence) × MxStep × State) :=
  match st.got.find? (fun e => decide (e.1 = tile * 2 ^ 64 + va.toNat)) with
  | some e => pure (some e.2, st, s)
  | none => do
    let (pg, phys, t) ← s.access st.who .data (st.who.req .read 8) va
    let key := tile * 2 ^ 60 + phys
    let place := (st.places.find? (fun e => decide (e.1 = key))).map (·.2)
    if hasPres phys ∧ (s.presAt phys = .empty ∨ s.queuedBefore (place.getD s.seq) phys) then
      pure (none, if place.isSome then (st, s) else ({ st with places := (key, s.seq) :: st.places }, { s with seq := s.seq + 1 }))
    else
      let r := t.engFetch st.who pg phys 8
      let x : Word × Presence := if hasPres phys ∧ s.presAt phys = .void then (0, .void) else (word r.1, .full)
      pure (some x,
        { st with got := (tile * 2 ^ 64 + va.toNat, x) :: st.got, places := st.places.filter (fun e => decide (e.1 ≠ key)) },
        if x.2 = .void then t else r.2)

/-- The A words at some addresses, each read or waited for, and whether one is VOID; none while one is waited for. -/
def State.aWords (s : State) (st : MxStep) (tile : Nat) : List Word → Except Stop (Option (List Word × Bool) × MxStep × State)
  | [] => pure (some ([], false), st, s)
  | va :: t => do
    let (x, st, s) ← s.aWord st tile va
    let (y, st, s) ← s.aWords st tile t
    pure (x.bind (fun v => y.map (fun r => (v.1 :: r.1, r.2 || decide (v.2 = .void)))), st, s)

/-- The A blocks of some rows of group `g`; none while a word is waited for. -/
def State.aBlocks (s : State) (st : MxStep) (tile g : Nat) : List Nat → Except Stop (Option (List (List Word × Bool)) × MxStep × State)
  | [] => pure (some [], st, s)
  | m :: t => do
    let (x, st, s) ← s.aWords st tile (st.wordsAt m g)
    let (y, st, s) ← s.aBlocks st tile g t
    pure (x.bind (fun v => y.map (v :: ·)), st, s)

/-- Rows of a band (R319). -/
def bandRows (m band : Nat) : List Nat := ((List.range 16).map (16 * band + ·)).filter (fun r => decide (r < m))

/-- A micro-tile on one core: its entries are checked before any element changes (R327); EVAL is the entry's offset. -/
def State.tileCore (s : State) (core : Nat) (st : MxStep) (gamma band : Nat) (rows : List (List Word × Bool)) : Except Stop MxCore := do
  let r := st.regs
  let g := st.b + gamma
  s.bsReads core ((List.range (mxN r)).map (fun n => 16384 * n + (reg r 4).toNat + 32 * g))
  match (List.range (mxN r)).find? (fun n => !permOk (mxL r) (s.permEntry core r n g)) with
  | some n => throw (.trap 0x52 (word (16384 * n + (reg r 4).toNat + 32 * g)))
  | none => pure ()
  s.bsReads core ((List.range (mxN r)).map (fun n => 16384 * n + (reg r 5).toNat + 32 * (g / 8)))
  let blocks := rows.map (fun e => (e.2, actBlock (mxAfmt r) (bit st.who.fpcsr 2) (elems (wordsNat e.1) (mxEa r) 32)))
  let cols := (List.range (mxN r)).map (fun n => (n, s.permEntry core r n g,
    s.bs core (16384 * n + (reg r 5).toNat + 32 * (g / 8)) 32))
  let x := ((bandRows (mxM r) band).zip blocks).foldl (fun x e =>
    cols.foldl (fun x c => mxElem x (64 * e.1 + c.1) e.2.1 (groupValue (mxL r) (mxDf r) c.2.1 c.2.2 e.2.2)) x) (s.mxAt core)
  pure { x with mxdone := x.mxdone ||| word (2 ^ (4 * gamma + band)) }

/-- The micro-tiles of a step, as bits of MXDONE (R327). -/
def stepBits (st : MxStep) : Word :=
  word ((List.range st.a).foldl (fun a g => a + 16 ^ g * (2 ^ ((mxM st.regs + 15) / 16) - 1)) 0)

/-- The step of a core that its row could start or go on with: the running one, or a held one whose thread still waits in it, as the
others of a stopped row do (R334). A restored one that no fibre has claimed has no thread yet. -/
def State.rowStep (s : State) (core : Nat) : Option MxStep :=
  match (s.mxAt core).running with
  | some t => some t
  | none => match (s.mxAt core).held with
    | none => none
    | some t =>
      let sl := s.slotAt core t.who.slot
      if t.who.slot < 8 ∧ sl.state = .parked ∧ sl.wait = .mxStep ∧ sl.preempted = false then some t else none

/-- The steps of a cluster that pair with a step, by core: those of its tile row with its number (R334), started or not. -/
def State.paired (s : State) (core : Nat) (st : MxStep) (started : Bool) : List (Nat × MxStep) :=
  (List.range 16).filterMap (fun i =>
    let c := core / 16 * 16 + i
    match s.rowStep c with
    | some t => if mxSolo t.regs = false ∧ mxRowKey t.regs = mxRowKey st.regs ∧ t.index = st.index ∧ t.started = started then some (c, t) else none
    | none => none)

/-- The cores of a step's tile row, each with its running step, by core (R334). -/
def State.tileRow (s : State) (core : Nat) (st : MxStep) : List (Nat × MxStep) :=
  if mxSolo st.regs then [(core, st)] else s.paired core st true

/-- Ends a step on a core: its groups count, MXDONE is 0, and the thread goes on (R327). -/
def State.stepEnd (s : State) (core : Nat) (st : MxStep) : State :=
  let x := s.mxAt core
  let x := { x with running := none, mxdone := 0, groups := x.groups + st.a }
  (s.putMx core x).setSlot core st.who.slot (s.slotAt core st.who.slot).advance

/-- Stops a step on a core: it is held, and its thread takes the fault (R327). -/
def State.stepFault (s : State) (core : Nat) (st : MxStep) (code : Nat) (eval : Word) : State :=
  let x := s.mxAt core
  let x := { x with running := none, held := some (st.stopped false) }
  (s.putMx core x).setSlot core st.who.slot ((s.slotAt core st.who.slot).raise code eval)

/-- The cores of a row beside the stopped one: their steps are held, and their threads stay parked, until it resumes (R334). -/
def State.stepsWait (s : State) (cores : List Nat) : State :=
  cores.foldl (fun s c =>
    let x := s.mxAt c
    match x.running with
    | none => s
    | some t => s.putMx c { x with running := none, held := some (t.stopped false) }) s

/-- A micro-tile on some cores of a row, in order of core; the core that fails is named. -/
def State.tileCores (s : State) (gamma band : Nat) (rows : List (List Word × Bool)) :
    List (Nat × MxStep) → Except (Nat × MxStep × Stop) (List (Nat × MxCore))
  | [] => pure []
  | (c, t) :: r =>
    match s.tileCore c t gamma band rows with
    | .error e => throw (c, t, e)
    | .ok x => do
      let l ← s.tileCores gamma band rows r
      pure ((c, x) :: l)

/-- Whether a core has done every micro-tile of its step. -/
def State.stepDone (s : State) (e : Nat × MxStep) : Bool := decide ((s.mxAt e.1).mxdone &&& stepBits e.2 = stepBits e.2)

/-- Ends the step of every core of a row once all their micro-tiles are done (R327, R334). -/
def State.rowDone (s : State) (row : List (Nat × MxStep)) : State :=
  if row.all s.stepDone then row.foldl (fun s e => s.stepEnd e.1 e.2) s else s

/-- A step without what a micro-tile of it has read. -/
def MxStep.spent (st : MxStep) (tile : Nat) : MxStep := { st with got := st.got.filter (fun e => decide (e.1 / 2 ^ 64 ≠ tile)) }

/-- A micro-tile whose A words have been read takes its whole effect on the cores that lack it, or none (R319, R327). -/
def State.tileTake (s : State) (core : Nat) (st : MxStep) (group band : Nat) (rows : List (List Word × Bool)) : State :=
  let row := s.tileRow core st
  match s.tileCores group band rows (row.filter (fun e => !bit (s.mxAt e.1).mxdone (4 * group + band))) with
  | .error (c, t, .trap code va) => (s.stepFault c t code va).stepsWait (row.map (·.1))
  | .error _ => s
  | .ok l =>
    let s := (l.foldl (fun s e => s.setMx e.1 e.2) s).countTimed st.who.acct.toNat 17
    let s := s.setMx core { s.mxAt core with running := some (st.spent (4 * group + band)) }
    s.rowDone (s.tileRow core st)

/-- MICRO_TILE: one band of one group, on the core of a solo step or on the reader's whole row (R319, R334). A core that has done it
is left out (R328). -/
def execMicroTile (core group band : Nat) (s : State) : Host.Outcome State Fault Refusal :=
  match (s.mxAt core).running with
  | none => .next s
  | some st =>
    let row := s.tileRow core st
    if st.started = false ∨ st.miss.isSome ∨ st.a ≤ group ∨ (mxM st.regs + 15) / 16 ≤ band ∨ mxTc st.regs ≠ 0 then .next s
    else if row.all (fun e => bit (s.mxAt e.1).mxdone (4 * group + band)) then .next (s.rowDone row)
    else
      match s.aBlocks st (4 * group + band) (st.b + group) (bandRows (mxM st.regs) band) with
      | .error (.miss m) =>
        .next ((s.setMx core { s.mxAt core with running := some { st with miss := some m } }).sendMiss core none st.who.acct.toNat m)
      | .error (.trap code va) =>
        .next (((s.tagFails st.who .data code va).stepFault core st code va).stepsWait (row.map (·.1)))
      | .error (.stuck f) => .fault f
      | .error e => .next (s.stalls st.who e)
      | .ok (none, st, s) => .next (s.setMx core { s.mxAt core with running := some st })
      | .ok (some rows, st, s) => .next (s.tileTake core st group band rows)

/-- The first A word on a HOST page that the step of a core has still to read, in the order of its micro-tiles. -/
def State.hostWord (s : State) (core : Nat) (st : MxStep) : Option Word :=
  let tiles := ((List.range st.a).map (fun g => (List.range ((mxM st.regs + 15) / 16)).map (fun b => (g, b)))).flatten
  (tiles.filter (fun e => !bit (s.mxAt core).mxdone (4 * e.1 + e.2))).findSome? (fun e =>
    (bandRows (mxM st.regs) e.2).findSome? (fun m => (st.wordsAt m (st.b + e.1)).find? (fun va =>
      match s.translate st.who .data .read va with
      | .ok (p, _, _) => p.tgt = 5
      | .error _ => false)))

/-- The step of a core starts or goes on with its row (R334). -/
def State.stepStart (s : State) (e : Nat × MxStep) : State :=
  s.putMx e.1 { s.mxAt e.1 with held := none, running := some (e.2.stopped true) }

/-- A core whose a, b, M or afmt differs from the reader's: its step ends before any micro-tile, and its thread takes 0x50 (R334). -/
def State.stepRefused (s : State) (e : Nat × MxStep) : State :=
  let x := s.mxAt e.1
  (s.putMx e.1 { x with running := none, held := none, steps := tabPut 0 x.steps (mxRowKey e.2.regs) e.2.index }).setSlot e.1 e.2.who.slot
    ((s.slotAt e.1 e.2.who.slot).raise 0x50 0x1000)

/-- TILE_STEP_START: a co-operative step starts once every core of the row has issued its step of the same number, and goes on once a
stopped core resumes; a core that differs from the reader is refused (R334). -/
def execTileStepStart (core : Nat) (s : State) : Host.Outcome State Fault Refusal :=
  match (s.mxAt core).running with
  | none => .next s
  | some st =>
    if st.started then .next s
    else
      let row := s.paired core st false
      match row.find? (fun e => decide (mxTc e.2.regs = 0)) with
      | none => .next s
      | some (_, rd) =>
        if (List.range (2 ^ mxSc st.regs)).all (fun j => row.any (fun e => decide (mxTc e.2.regs = j))) = false then .next s
        else
          let bad := row.filter (fun e => decide (e.2.a ≠ rd.a) || decide (e.2.b ≠ rd.b) ||
            decide (mxM e.2.regs ≠ mxM rd.regs) || decide (mxAfmt e.2.regs ≠ mxAfmt rd.regs))
          .next (if bad ≠ [] then bad.foldl State.stepRefused s else row.foldl State.stepStart s)

/-! ### Closing, draining, clearing -/

/-- A chain total saturated to 64 bits (R330). -/
def sat64 (t : Int) : Int := if 2 ^ 63 - 1 < t then 2 ^ 63 - 1 else if t < -(2 ^ 63) then -(2 ^ 63) else t

/-- Elements of M × N in m-major order. -/
def mxElems (r : List Word) : List Nat := ((List.range (mxM r)).map (fun m => (List.range (mxN r)).map (64 * m + ·))).flatten

/-- Whether closing an element sets OVF (R330). -/
def MxCore.overflows (x : MxCore) (k : Nat) : Bool :=
  !tabGet false x.voidm k && !tabGet false x.inval k && (tabGet false x.satf k || decide (sat64 (tabGet 0 x.total k) ≠ tabGet 0 x.total k))

/-- Closes one element into C (R330). -/
def MxCore.close (fzo : Bool) (x : MxCore) (k : Nat) : MxCore :=
  let x := { x with touched := tabPut false x.touched k true }
  if tabGet false x.voidm k then x
  else if tabGet false x.inval k then { x with c := tabPut 0 x.c k nan32, invalid := true }
  else
    let v := sat64 (tabGet 0 x.total k)
    let c := window28 fzo [num (tabGet 0 x.c k), .fin (decide (v < 0)) v.natAbs x.ec]
    { x with c := tabPut 0 x.c k c, ovf := x.ovf || x.overflows k, invalid := x.invalid || isNan32 c }

/-- `mx.end` (R330). -/
def execMxEnd (s : State) : Host.Outcome State Fault Refusal :=
  run s do
    s.mxTurn
    let sl := s.me
    let x := s.mxAt s.curCore
    let r := s.snap .mx s.curCore 0 8
    mxLimits r 1 [0]
    x.notHeld
    if x.chain = false then throw (.trap 0x51 0)
    if bit sl.fpcsr 6 then
      match (mxElems r).find? x.overflows with
      | some k => throw (.trap 0x54 (word k))
      | none => pure ()
    let y := (mxElems r).foldl (MxCore.close sl.fzo) x
    pure (s.mxDone { y with chain := false, ec := 0, groups := 0, total := [], satf := [], inval := [] } sl)

/-- The format of drain code k (R322). -/
def drainFmt (k : Nat) : Fmt := match k with
  | 0 => .f32 | 1 => .bf16 | 2 => .f16 | 3 => .e5m2 | _ => .e4m3

/-- The words of drained row `m`: each with whether it holds a VOID element (R331). -/
def drainRow (x : MxCore) (r : List Word) (fzo : Bool) (k m : Nat) : List (Word × Bool) :=
  let w := drainBytes k
  let per := 8 / w
  let es := (List.range (mxN r)).map (fun n =>
    (((drainFmt k).conv 0 (fzo && decide (k = 0)) (num (tabGet 0 x.c (64 * m + n)))).1, tabGet false x.voidm (64 * m + n)))
  (List.range ((mxN r * w + 7) / 8)).map (fun i =>
    let l := (es.drop (i * per)).take per
    (word (l.foldr (fun e a => e.1 + a * 2 ^ (8 * w)) 0), l.any (·.2)))

/-- Checks words of a destination before any is written. -/
def State.checkWords (s : State) (w : Who) (u : TlbUnit) (va : Word) : Nat → Except Stop State
  | 0 => pure s
  | n + 1 => do
    let (_, _, s) ← s.access w u (w.req .write 8) va
    s.checkWords w u (va + 8) n

/-- Writes drained words, each with data and FULL, or VOID. -/
def State.drainWords (s : State) (w : Who) (va : Word) : List (Word × Bool) → Except Stop State
  | [] => pure s
  | (v, vd) :: t => do
    let s ← s.engWord w .data false va (if vd then 0 else v) (if vd then .void else .full)
    s.drainWords w (va + 8) t

/-- Runs an action over rows in ascending order. -/
def State.eachRow (s : State) (f : State → Nat → Except Stop State) : List Nat → Except Stop State
  | [] => pure s
  | m :: t => do
    let s ← f s m
    s.eachRow f t

/-- `mx.drain k` (R331). -/
def execMxDrain (k : BitVec 4) (s : State) : Host.Outcome State Fault Refusal :=
  run s do
    s.mxTurn
    let sl := s.me
    let x := s.mxAt s.curCore
    let r := s.snap .mx s.curCore 0 8
    mxLimits r (if k.toNat < 5 then drainBytes k.toNat else 0) [0, 6, 7]
    if 4 < k.toNat then throw (.trap 0x50 (word k.toNat))
    x.notHeld
    let row (m : Nat) : Word := reg r 6 + word (m * (reg r 7).toNat)
    let w := s.who
    let s ← s.eachRow (fun s m => s.checkWords w .data (row m) ((mxN r * drainBytes k.toNat + 7) / 8)) (List.range (mxM r))
    let s ← s.eachRow (fun s m => s.drainWords w (row m) (drainRow x r sl.fzo k.toNat m)) (List.range (mxM r))
    pure (s.mxDone x sl)

/-- `mx.clear` (R332): from any slot; it discards a held step. -/
def execMxClear (s : State) : Host.Outcome State Fault Refusal :=
  run s do
    let x := s.mxAt s.curCore
    if x.running.isSome then throw (.park .mxRuns)
    pure (s.mxDone { MxCore.empty with steps := x.steps } s.me)

/-- R328: the holding fibre leaves its slot; every element of the held step's rows and columns is VOID-marked. -/
def State.mxLeave (s : State) (core slot : Nat) : State :=
  let x := s.mxAt core
  let drop (st : MxStep) (x : MxCore) : MxCore :=
    { (mxElems st.regs).foldl (fun x k => { x with voidm := tabPut false x.voidm k true }) x with held := none, running := none, mxdone := 0 }
  match x.running, x.held with
  | some st, _ => if st.who.slot = slot then (s.putMx core (drop st x)).stepsWait (((s.tileRow core st).map (·.1)).filter (· ≠ core)) else s
  | none, some st => if st.who.slot = slot then s.putMx core (drop st x) else s
  | none, none => s

/-- R329: pre-emption stops a step at a micro-tile boundary; it becomes held. -/
def State.mxPreempt (s : State) (core slot : Nat) : State :=
  let x := s.mxAt core
  match x.running with
  | some st =>
    if st.who.slot = slot then
      (s.putMx core { x with running := none, held := some (st.stopped false) }).stepsWait
        (((s.tileRow core st).map (·.1)).filter (· ≠ core))
    else s
  | none => s

end Sys2Proof.Machine
end

