-- ==== Sys2Proof/Machine/Launch.lean ====
section
/-! DEFINITION. The launch engine: tenant records (R248–R250), barriers (R190), launches and queues (R225–R238), and how a
fibre leaves its slot. Evictions, installs and cleaning are in Evict. -/

namespace Sys2Proof.Machine

/-- `ln.erw`. -/
def execLnErw (a : BitVec 5) (n : BitVec 6) (s : State) : Host.Outcome State Fault Refusal := engErw .ln a n s
/-- `ln.err`. -/
def execLnErr (b : BitVec 5) (n : BitVec 6) (s : State) : Host.Outcome State Fault Refusal := engErr .ln b n s

/-- R83, check 5: the instruction needs mode S or H. -/
def State.needS (s : State) (i : Instr) : Except Stop Unit :=
  if s.me.mode = 0 then throw (.trap 0x03 ((encode i).setWidth 64)) else pure ()

/-- R83, check 5: the instruction needs mode H. -/
def State.needH (s : State) (i : Instr) : Except Stop Unit :=
  if s.me.mode ≠ 3 then throw (.trap 0x03 ((encode i).setWidth 64)) else pure ()

/-! ### Tenant configuration records (R249) -/

/-- Bytes [off+n−1 : off] of a record held as one number. -/
def bytesAt (v off n : Nat) : Nat := nf v (8 * off) (8 * n)

/-- Base of the table of tenant configuration records: TCFGB[51:14] (R254). -/
def State.tcfgBase (s : State) : Nat := fld (tabGet 0 s.pcsr 0x113) 14 38 * 16384

/-- The configuration record of a tenant. R249 has the launch engine read it at each acceptance and each binding of a transform thread, and
leaves open when a changed priority, quantum, region, report or vector field takes effect between them: here the record is read from memory
whenever one of its fields is used (DESIGN CHOICE, log entry 63). -/
def State.tenantRec (s : State) (t : Nat) : Nat := s.peek (s.tcfgBase + 128 * t) 128

/-- Region base of a record. -/
def recBase (v : Nat) : Nat := bytesAt v 8 2
/-- Region length of a record. -/
def recLen (v : Nat) : Nat := bytesAt v 10 2
/-- Whether a record enables queue `q`. -/
def recQueue (v q : Nat) : Bool := (bytesAt v 5 1).testBit q
/-- Configured priority of queue `q`. -/
def recPrio (v q : Nat) : Nat := bytesAt v (16 + q) 1
/-- DRR quantum of queue `q`. -/
def recQuantum (v q : Nat) : Nat := if bytesAt v (24 + 4 * q) 4 = 0 then 65536 else bytesAt v (24 + 4 * q) 4
/-- MSI-X vector of queue `q`. -/
def recVector (v q : Nat) : Nat := bytesAt v (56 + q) 1
/-- Report area of a record: base and length. -/
def recReports (v : Nat) : Nat × Nat := (bytesAt v 64 8, bytesAt v 72 8)
/-- Save area of queue `q`: base and length. -/
def recSave (v q : Nat) : Nat × Nat := (bytesAt v 80 8 + q * 2 ^ bytesAt v 88 1, 2 ^ bytesAt v 88 1)
/-- Address of the supervisor block. -/
def recBlock (v : Nat) : Word := word (bytesAt v 96 8)
/-- Whether a record has a resident fibre. -/
def recRes (v : Nat) : Bool := (bytesAt v 91 1).testBit 0
/-- Control core and slot of the resident fibre. -/
def recResident (v : Nat) : Nat × Nat := (1024 + bytesAt v 89 1, bytesAt v 90 1)

/-- Whether a record is VALID and keeps every limit of R249. -/
def recOk (v : Nat) : Bool :=
  bytesAt v 0 2 = 1 && bytesAt v 4 1 = 1 && bytesAt v 6 2 = 0 && decide (1 ≤ recLen v) && decide (recBase v + recLen v ≤ 1024) &&
    bytesAt v 12 4 = 0 && (List.range 8).all (fun q => decide (recPrio v q < 8) && decide (recVector v q < 64)) &&
    bytesAt v 64 8 % 32 = 0 && isNear (bytesAt v 64 8) && bytesAt v 72 8 % 32 = 0 && decide (bytesAt v 72 8 ≠ 0) &&
    decide (16 ≤ bytesAt v 88 1) && decide (bytesAt v 88 1 ≤ 40) && bytesAt v 80 8 % 2 ^ bytesAt v 88 1 = 0 &&
    decide (bytesAt v 89 1 < 16) && decide (bytesAt v 90 1 < 16) && decide (bytesAt v 91 1 < 2) && bytesAt v 92 4 = 0 &&
    bytesAt v 96 8 % 128 = 0 && bytesAt v 104 24 = 0

/-- The device's own record of a tenant. -/
def State.tenantAt (s : State) (t : Nat) : Tenant := tabGet .empty s.tenants t
/-- Replaces it. -/
def State.setTenant (s : State) (t : Nat) (x : Tenant) : State := { s with tenants := tabPut .empty s.tenants t x }

/-- A queue of a tenant. -/
def State.queueAt (s : State) (t q : Nat) : Queue := tabGet .empty s.queues (t * 8 + q)
/-- Replaces it. -/
def State.setQueue (s : State) (t q : Nat) (x : Queue) : State := { s with queues := tabPut .empty s.queues (t * 8 + q) x }

/-- Whether a tenant exists and its record governs launches (R248, R249, R252). -/
def State.tenantOk (s : State) (t : Nat) : Bool :=
  decide (t < 128) && (s.tenantAt t).enabled && !(s.tenantAt t).refused && recOk (s.tenantRec t)

/-- A changed evsel byte takes effect, and its counter is set to 0 (R250). -/
def State.setEvsel (s : State) (t : Nat) (codes : Nat) : State :=
  (List.range 16).foldl (fun s n =>
    let c : Byte := BitVec.ofNat 8 (bytesAt codes n 1)
    if tabGet 0 s.evsel (t * 16 + n) = c then s
    else { s with evsel := tabPut 0 s.evsel (t * 16 + n) c, evc := tabPut 0 s.evc (t * 16 + n) 0 }) s

/-! ### Barriers (R190) -/

/-- The level at which a barrier acts for a core, and its instance (R12, R189). -/
def barPlace (level core : Nat) : Nat × Nat :=
  let level := if 1024 ≤ core ∧ core < 1040 ∧ (level = 1 ∨ level = 2) then 3
    else if 1040 ≤ core ∧ level = 1 then 2 else level
  (level, match level with
    | 0 => core
    | 1 => core / 4
    | 2 => clusterOf core
    | 3 => dieOf core
    | _ => 0)

/-- Key of a barrier instance. -/
def barKey (level core id : Nat) : Nat := ((barPlace level core).1 * 4096 + (barPlace level core).2) * 16 + id

/-- The group a thread belongs to for barriers: its launch, or its launch-less group. -/
def barGroup (sl : Slot) : Option (Nat × Option (Nat × Nat) × Nat) :=
  match sl.occupant with
  | .none => none
  | .fibre t q n _ => some (t, some (q, n), 0)
  | .transform => some (sl.tenant.toNat, none, 1)
  | .resident => some (sl.tenant.toNat, none, 2)
  | .hypervisor => some (0xFF, none, 3)

/-- Who arrives: the linear fibre index, or 2^32 + core·16 + slot. -/
def barIdent (sl : Slot) (core slot : Nat) : Nat :=
  match sl.occupant with
  | .fibre _ _ _ i => i
  | _ => 2 ^ 32 + core * 16 + slot

/-- The barrier at a key. -/
def State.barAt (s : State) (k : Nat) : Barrier := tabGet .idle s.barriers k

/-- The number of participants of a group at a barrier: its bound threads within the instance, and those of a restore that
are still to be bound. -/
def State.participants (s : State) (k : Nat) (g : Nat × Option (Nat × Nat) × Nat) : Nat :=
  let inside (core : Nat) : Bool := decide (barKey (k / 65536) core (k % 16) = k)
  (s.slots.filter (fun e => decide (e.2.state ≠ .free) && decide (barGroup e.2 = some g) && inside (e.1 / 16))).length +
    ((s.restores.map (fun r => (r.todo.filter (fun f => decide (barGroup f.slot = some g) &&
      inside (recBase (s.tenantRec r.tenant) + f.core))).length)).foldl (· + ·) 0)

/-- Completes a phase when the arrivals equal the participants; every fibre that waits for it goes on, whatever the phase is by then, a
pre-empted one once it is bound again (R190). -/
def State.barCheck (s : State) (k : Nat) : State :=
  let b := s.barAt k
  match b.owner with
  | none => s
  | some g =>
    if b.arrived ≠ [] ∧ s.participants k g ≤ b.arrived.length then
      ({ s with barriers := tabPut .idle s.barriers k { phase := !b.phase, arrived := [], owner := none } } : State).flipped true
        (fun w => match w with
          | .barrier j p => decide (j = k) && decide (p = b.phase)
          | _ => false)
    else s

/-- A thread that leaves counts as arrived at every phase: it is no participant, and its own arrival goes with it (R190). A barrier that is
left with no arrival is idle, so that another launch may own it; R190 leaves this open (DESIGN CHOICE, log entry 63). -/
def State.barLeave (s : State) (g : Option (Nat × Option (Nat × Nat) × Nat)) (ident : Nat) : State :=
  (s.barriers.filter (fun e => decide (e.2.owner = g) && decide (g ≠ none))).foldl (fun s e =>
    let b := s.barAt e.1
    let rest := b.arrived.filter (· ≠ ident)
    let b := { b with arrived := rest, owner := if rest = [] then none else b.owner }
    ({ s with barriers := tabPut .idle s.barriers e.1 b } : State).barCheck e.1) s

/-- Saved fibres that are discarded leave their barriers, as bound ones do (R190). -/
def State.barGone (s : State) (l : List SavedFibre) : State :=
  l.foldl (fun s f => s.barLeave (barGroup f.slot) (barIdent f.slot 0 0)) s

/-! ### Launches -/

/-- The number of fibres of a launch (R225). -/
def Launch.total (l : Launch) : Nat := l.x * l.y * l.z

/-- Updates the launch of a queue that has a serial number. -/
def State.updLaunch (s : State) (t q n : Nat) (f : Launch → Launch) : State :=
  let x := s.queueAt t q
  s.setQueue t q { x with launches := x.launches.map (fun l => if l.serial = n then f l else l) }

/-- The launch of a queue with a serial number. -/
def State.launchAt (s : State) (t q n : Nat) : Option Launch := (s.queueAt t q).launches.find? (·.serial = n)

/-- Slots that hold fibres of a launch: core·16 + slot. -/
def State.fibresOf (s : State) (t q n : Nat) : List Nat :=
  (s.slots.filter (fun e => match e.2.occupant with
    | .fibre t' q' n' _ => decide (t' = t) && decide (q' = q) && decide (n' = n)
    | _ => false)).map (·.1)

/-- Whether a launch runs: it has a fibre bound (R240). -/
def State.runs (s : State) (t q : Nat) (l : Launch) : Bool := decide (s.fibresOf t q l.serial ≠ [])

/-- Whether an eviction is in progress over a core, and whom it admits. -/
def State.evictOver (s : State) (core : Nat) : Option Evict :=
  s.evicts.find? (fun e => !e.done && decide (e.base ≤ core) && decide (core < e.base + e.len))

/-- An affected queue all of whose running launches have ended is FINISHED (R242). -/
def State.evictFinish (s : State) : State :=
  { s with evicts := s.evicts.map (fun e => { e with queues := e.queues.map (fun q =>
      if (s.queueAt q.1 q.2.1).launches.any (s.runs q.1 q.2.1) ∨
        s.saves.any (fun v => decide (v.tenant = q.1) && decide (v.queue = q.2.1) && !v.complete && v.ctx.isNone) then q
      else (q.1, q.2.1, .finished)) }) }

/-- The report of a launch (R238): 32 bytes as one number. -/
def reportBytes (l : Launch) (q reason time : Nat) : Nat :=
  l.serial + q * 2 ^ 32 + reason * 2 ^ 40 + l.retired * 2 ^ 64 + l.faulted * 2 ^ 96 + time * 2 ^ 128 + l.cword.toNat * 2 ^ 192

/-- Writes a report and raises its vector (R238, R249). -/
def State.reportLaunch (s : State) (t q : Nat) (l : Launch) (reason : Nat) : State :=
  let v := s.tenantRec t
  let x := s.tenantAt t
  let r := recReports v
  let s := s.poke (r.1 + 32 * (x.reports % (r.2 / 32))) 32 (reportBytes l q reason (l.gone.getD s.time.toNat))
  (s.setTenant t { x with reports := x.reports + 1 }).emit .host (.msix (t + 1) (recVector v q))

/-- The completion word of a launch that ends (R237): one arrive, or VOID with its value kept; the Bool tells of an arrive
that could not be made. -/
def State.launchWord (s : State) (l : Launch) : Except Stop (Bool × State) :=
  if l.cword = 0 then pure (false, s)
  else if l.fate = .runs then
    match s.cwEngineArrive l.who .die l.cword with
    | .error (.trap _ _) => pure (true, s)
    | r => r
  else
    match s.access l.who .die (l.who.req .write 8) l.cword with
    | .ok (_, phys, s) => pure (false, s.setPres phys .void)
    | .error (.trap _ _) => pure (false, s)
    | .error e => throw e

/-- The reason of a report: the highest-numbered cause, 0 none (R238). -/
def Launch.reason (l : Launch) (bad : Bool) : Nat :=
  match l.fate with
  | .killed => 3
  | .discarded => 2
  | .runs => if bad then 4 else if l.faulted ≠ 0 then 1 else 0

/-- Whether a launch has ended: every fibre that it bound, or is to bind, has left (R237). -/
def Launch.ended (l : Launch) : Bool := l.left = l.next && (l.next = l.total || decide (l.fate ≠ .runs))

/-- A launch whose completion has been performed, or has failed, is reported and leaves its queue (R237, R238). -/
def State.finishLaunch (s : State) (t q : Nat) (l : Launch) (bad : Bool) : State :=
  let s := if l.reason bad = 0 then s else s.reportLaunch t q l (l.reason bad)
  let x := s.queueAt t q
  let rest := x.launches.filter (·.serial ≠ l.serial)
  let s := { s with saves := s.saves.filter (fun v => !(v.tenant = t && v.queue = q && v.serial = l.serial && !v.complete)) }
  (s.setQueue t q { x with launches := rest, lastRetired := l.serial }).evictFinish

/-- Performs the completion of a launch that has ended (R237, R238). What holds it, a chain that is still being unwound (R269), a miss of
the completion word's page, or the drop of its tile cache (R254), is waited for. -/
def State.complete (s : State) (t q : Nat) (l : Launch) : State :=
  if l.miss.isSome ∨ s.unwinds.any (fun x => decide (x.tenant = t) && decide (x.queue = q) && decide (x.serial = l.serial)) then s
  else match s.launchWord l with
    | .error (.miss m) =>
      (s.updLaunch t q l.serial (fun l => { l with miss := some m })).sendMiss l.who.core none l.who.acct.toNat m
    | .error _ => s
    | .ok (bad, s) => s.finishLaunch t q l bad

/-- Retires a launch once it has ended: it has left its last slot (R237, R238). -/
def State.retire (s : State) (t q n : Nat) : State :=
  match s.launchAt t q n with
  | none => s
  | some l =>
    if l.ended = false then s
    else
      let l := { l with gone := some (l.gone.getD s.time.toNat) }
      (s.updLaunch t q n (fun _ => l)).complete t q l

/-- Completions of a queue that were held go on; a thread of no launch has none. -/
def State.retireHeld (s : State) (t q : Nat) : State :=
  if 8 ≤ q then s else (s.queueAt t q).launches.foldl (fun s l => if l.gone.isSome then s.retire t q l.serial else s) s

/-! ### Leaving a slot -/

/-- How a thread leaves its slot. -/
inductive Leave where
  | halt | faulted | dropped
  deriving DecidableEq, Repr

/-- A slot after its occupant has left: what the hypervisor installed stays (R129), and so does the slot's last issue (R118). The spec
does not say what the CSRs below 0x080 hold from then on that R127 does not set, such as EPC; here they are 0 (DESIGN CHOICE, log
entry 60). -/
def Slot.vacated (sl : Slot) (slot : Nat) : Slot :=
  { Slot.empty with
    csr := tabPut 0 (sl.csr.filter (fun e => decide (0x080 ≤ e.1))) 0 (mkStatus sl.tenant.toNat slot false 0 0), gen := sl.gen
    lastIssue := sl.lastIssue, owner := sl.owner }

/-- The mask command that a thread waits in goes: a wait that is not executed (R117, R380). -/
def State.mkUnqueue (s : State) (core slot : Nat) : State :=
  let mine (c : Cmd) : Bool := decide (c.who.core = core) && decide (c.who.slot = slot)
  s.cmds.foldl (fun s e =>
    if e.1 / 2048 / 1024 = 6 ∧ e.2.any mine then
      let rest := e.2.filter (fun c => !mine c)
      let s := s.setCmds .mk (e.1 / 2048 % 1024) (e.1 % 2048) rest
      if rest = [] then s.statFull .mk (e.1 / 2048 % 1024) (e.1 % 2048) (s.erp .mk (e.1 / 2048 % 1024) (e.1 % 2048) 10).1 else s
    else s) s

/-- The mask productions and waits of a thread that is dropped (R244): a ready word still to be written becomes VOID. -/
def State.mkLeave (s : State) (core slot : Nat) : State :=
  (s.mkUnqueue core slot).mkp.foldl (fun (s : State) (e : Nat × Option MkProd) => match e.2 with
    | some p => if p.who.core = core ∧ p.who.slot = slot then s.mkFail (e.1 / 2048 % 1024) (e.1 % 2048) p 0 else s
    | none => s) (s.mkUnqueue core slot)

/-- Who a thread is to its tenant's own structures: in mode H its supervisor, in the tenant's space. -/
def Slot.spaceWho (sl : Slot) (core slot : Nat) : Who :=
  if sl.mode = 3 then { sl.who core slot with mode := 1, tenant := sl.tenant, s1 := sl.csrv 0x080 } else sl.who core slot

/-- The chain of a thread as it leaves its slot (R269), received by the frame engine in the `seq`-th place. -/
def Slot.chain (sl : Slot) (core slot seq : Nat) : Unwind :=
  let x : Nat × Nat × Nat := match sl.occupant with
    | .fibre t q n _ => (t, q, n)
    | _ => (sl.tenant.toNat, 8, 0)
  { who := sl.spaceWho core slot, fp := sl.csrv 0x020, fd := (sl.csrv 0x021).toNat, tenant := x.1, queue := x.2.1, serial := x.2.2, miss := none,
    seq := seq }

/-- The frame engine receives a chain to unwind: it waits for the commands received before on the context (R16), and what is left of it at a
miss waits too (R269). -/
def State.unwindOn (s : State) (x : Unwind) : State :=
  if x.fd = 0 then s
  else if s.frBefore x.who x.seq then { s with unwinds := s.unwinds ++ [x], seq := s.seq + 1 }
  else
    let r := s.unwind x x.fd
    { r.2 with unwinds := r.2.unwinds ++ r.1.toList, seq := r.2.seq + 1 }

/-- The `n`-th chain whose unwinding was held goes on; then its launch retires, if it was the last of it. -/
def State.unwindHeld (s : State) (n : Nat) : State :=
  match s.unwinds[n]? with
  | none => s
  | some x => if x.miss.isSome ∨ s.frBefore x.who x.seq then s else
    let r := s.unwind x x.fd
    let s := { r.2 with unwinds := s.unwinds.take n ++ r.1.toList ++ s.unwinds.drop (n + 1) }
    if r.1.isSome then s else s.retireHeld x.tenant x.queue

/-- The LM slice that a slot still holds once its fibre has left: none (R235), but one that an eviction's cleaning has still to clear (R245). -/
def State.leftSlice (s : State) (core slot : Nat) : Nat × Nat :=
  match s.evictOver core with
  | some e => if core * 16 + slot ∈ e.cleaned then (0, 0) else (s.slotAt core slot).slice
  | none => (0, 0)

/-- The thread in a slot leaves it: its engine commands end unless it halted (R244), the slot becomes FREE (R174), its frame chain is
unwound (R269), and its launch counts it (R237). -/
def State.leaveSlot (s : State) (core slot : Nat) (how : Leave) : State :=
  let sl := s.slotAt core slot
  let c := s.frCtx core slot
  let s := if how = .halt then s else (((s.endCommands core slot).fxDiscard core slot).mkLeave core slot).mxLeave core slot
  let s := s.setSlot core slot { sl.vacated slot with slice := s.leftSlice core slot }
  let s := if sl.frHeld then s.frIdle c else s
  let s := s.unwindOn (sl.chain core slot s.seq)
  let s := s.barLeave (barGroup sl) (barIdent sl core slot)
  match sl.occupant with
  | .fibre t q n _ =>
    let r := if how = .halt then 1 else 0
    let f := if how = .faulted then 1 else 0
    (s.updLaunch t q n (fun l => { l with left := l.left + 1, retired := l.retired + r, faulted := l.faulted + f })).retire t q n
  | _ => s

/-- The fibres of a launch that hold no slot: those in the complete record of a saved launch, and those still to be restored. -/
def State.unbound (s : State) (t q n : Nat) : List SavedFibre :=
  (if ((s.launchAt t q n).map (·.saved)) = some true then
    (s.saves.filter (fun v => v.tenant = t && v.queue = q && v.serial = n && v.complete)).flatMap (·.fibres) else []) ++
  (s.restores.filter (fun r => r.tenant = t && r.queue = q && r.launch.serial = n)).flatMap (·.todo)

/-- Ends launches of a queue with a fate: their fibres leave, those that are saved or still to be restored leave with their record, and
each launch is reported (R230, R244). The references that a launch with FRAME added for fibres that hold no slot by then are not dropped;
R269 speaks of fibres that leave their slots, and leaves them open (DESIGN CHOICE, log entry 63). -/
def State.endLaunches (s : State) (t q : Nat) (fate : Fate) (ns : List Nat) : State :=
  ns.foldl (fun s n =>
    let ks := s.fibresOf t q n
    let gone := s.unbound t q n
    let s := s.updLaunch t q n (fun l => { l with fate := fate, saved := false, left := l.next - ks.length })
    let s := { s with
      saves := s.saves.filter (fun v => !(v.tenant = t && v.queue = q && v.serial = n && !v.complete))
      restores := s.restores.filter (fun r => !(r.tenant = t && r.queue = q && r.launch.serial = n)) }
    let s := s.barGone gone
    (ks.foldl (fun s k => s.leaveSlot (k / 16) (k % 16) .dropped) s).retire t q n) s

/-! ### `ln.launch` (R228) -/

/-- The `n` words that an access of the thread finds from a physical address on. -/
def State.foundWords (s : State) (p : Page) (phys : Nat) : Nat → List Word × State
  | 0 => ([], s)
  | n + 1 =>
    let x := s.fetchBytes p phys 8
    let l := x.2.foundWords p (phys + 8) n
    (word x.1 :: l.1, l.2)

/-- Reads the launch record: one load of the thread of 128 bytes (R228). -/
def State.recordWords (s : State) (va : Word) : Except Stop (List Word × State) := do
  let (p, phys, s) ← s.reached (s.req .read 128) va
  pure (s.foundWords p phys 16)

/-- Whether the supervisor block's page keeps the limit of R249: NEAR. A page that does not translate is left to the block's read. -/
def State.blockOk (s : State) (w : Who) (va : Word) : Bool :=
  match s.translate w .data .read va with
  | .ok (p, _, _) => decide (p.tgt = 0)
  | .error _ => true

/-- Byte offset of the first offending field of a launch record (R228, check 5). -/
def recordBad (v : Nat) : Option Nat :=
  if bytesAt v 0 2 ≠ 1 then some 0
  else if 4 ≤ bytesAt v 4 4 then some 4
  else if 2 ^ 20 ≤ bytesAt v 8 4 then some 8
  else if bytesAt v 12 4 ≠ 0 then some 12
  else if bytesAt v 16 2 = 0 then some 16
  else if bytesAt v 18 2 = 0 then some 18
  else if bytesAt v 20 2 = 0 then some 20
  else if bytesAt v 22 1 = 0 ∨ 7 < bytesAt v 22 1 then some 22
  else if bytesAt v 24 4 = 0 ∨ bytesAt v 24 4 % 8 ≠ 0 ∨ 524288 < bytesAt v 22 1 * bytesAt v 24 4 then some 24
  else if bytesAt v 28 4 ≠ 0 then some 28
  else if bytesAt v 32 8 % 4 ≠ 0 then some 32
  else if bytesAt v 88 40 ≠ 0 then some 88
  else none

/-- The launch that a record gives; `b` is the supervisor block as one number. -/
def launchOf (v b q serial : Nat) (region : Word) (w : Who) (sl : Slot) : Launch :=
  let f := (bytesAt v 4 4).testBit 1
  { serial := serial, x := bytesAt v 16 2, y := bytesAt v 18 2, z := bytesAt v 20 2, slots := bytesAt v 22 1,
    lmbytes := bytesAt v 24 4, entry := word (bytesAt v 32 8), args := word (bytesAt v 72 8), expect := word (bytesAt v 64 8),
    budget := word (bytesAt v 56 8), fsr0 := word (bytesAt v 40 8), fsr1 := word (bytesAt v 48 8),
    cword := word (bytesAt v 80 8), overlap := (bytesAt v 4 4).testBit 0, frame := f, base := fld region 0 10,
    len := fld region 32 11, who := w, fp := if f then sl.fp else 0, fsl := if f then sl.fsl else 15,
    tvec := word (bytesAt b (8 * q) 8), lmva := word (bytesAt b 96 8), miss := none, next := 0, retired := 0, faulted := 0,
    left := 0, first := none, saved := false, gone := none, fate := .runs }

/-- `ln.launch gA, gB` (R228). The first serial number of a tenant is 1 (log entry 16). -/
def execLnLaunch (a b : BitVec 5) (s : State) : Host.Outcome State Fault Refusal :=
  run s do
    let sl ← s.me.gate [.g a, .g b]
    let t := s.me.tenant.toNat
    let v := s.tenantRec t
    let sw := s.me.spaceWho s.curCore s.curSlot
    if s.tenantOk t = false ∨ s.blockOk sw (recBlock v) = false then throw (.trap 0x91 0)
    let addr := sl.gv a
    if addr.toNat % 128 ≠ 0 then throw (.trap 0x05 addr)
    let (rw, s) ← s.recordWords addr
    let w := s.who
    let (bw, s) ← s.ctxWords sw .data (recBlock v) 16
    let r := wordsNat rw
    let q := (sl.gv b).toNat
    if 7 < q ∨ recQueue v q = false then throw (.trap 0x90 (sl.gv b))
    if Config.queueDepth ≤ (s.queueAt t q).launches.length then throw (.trap 0x90 (word (0x100 + q)))
    match recordBad r with
    | some o => throw (.trap 0x02 (word o))
    | none => pure ()
    let s ← if bytesAt r 80 8 = 0 then pure s else (do
      let (_, _, s) ← s.cwFind w .data (word (bytesAt r 80 8))
      pure s)
    let c := s.myCtx .ln
    let region := (s.erp .ln c.1 c.2 0).1
    if fld region 32 11 = 0 ∨ fld region 0 10 < recBase v ∨ recBase v + recLen v < fld region 0 10 + fld region 32 11 then
      throw (.trap 0x91 region)
    let x := s.tenantAt t
    let serial := (x.serial + 1) % 2 ^ 32
    let l := launchOf r (wordsNat bw) q serial region w sl
    if l.frame ∧ s.frBefore w (s.placeFor .frTurn) then throw (.park .frTurn)
    let s ← if l.frame then s.frameLaunch w s.frUnit sl (bytesAt r 8 4) l.total else pure s
    let s := s.setEvsel t (bytesAt (wordsNat bw) 72 16)
    let y := s.queueAt t q
    let s := (s.setTenant t { s.tenantAt t with serial := serial }).setQueue t q { y with launches := y.launches ++ [l] }
    pure ((s.setEr .ln c.1 c.2 2 (word (serial + q * 2 ^ 32)) .full).setMe sl.advance)

/-! ### `ln.qstat`, `ln.kill` (R229, R230) -/

/-- Effective priority of a queue (R232). -/
def State.eprio (s : State) (t q : Nat) : Nat := min 7 (recPrio (s.tenantRec t) q + (s.queueAt t q).boost)

/-- The state of a queue in the eviction that affects it. -/
def State.evState (s : State) (t q : Nat) : Option EvState :=
  s.evicts.findSome? (fun e => if e.done then none else (e.queues.find? (fun x => decide (x.1 = t) && decide (x.2.1 = q))).map (·.2.2))

/-- Whether a core is a tenant's: one of its slots is installed for it (R251). -/
def State.coreOwned (s : State) (t core : Nat) : Bool := (List.range 8).any (fun i => decide ((s.slotAt core i).owner = some t))

/-- Whether a launch's REGION meets the interval of an eviction that does not admit its tenant, or is not the tenant's: handed over, or no
more named by its record (R239, R251). -/
def State.regionHeld (s : State) (t : Nat) (l : Launch) : Bool :=
  let v := s.tenantRec t
  decide (l.base < recBase v) || decide (recBase v + recLen v < l.base + l.len) ||
    (List.range l.len).any (fun i => match s.evictOver (l.base + i) with
      | some e => decide (e.incoming ≠ some t)
      | none => !s.coreOwned t (l.base + i))

/-- Whether an eviction holds the dispatch of a launch: in CKPT and DISCARD none of its fibres binds any more (R242–R244), and one with no
fibre bound stays pending while its queue is affected or its REGION is held (R239, R240). -/
def State.launchHeld (s : State) (t q : Nat) (l : Launch) : Bool :=
  match s.evState t q with
  | some .ckpt => true
  | some .discard => true
  | some _ => !s.runs t q l
  | none => !s.runs t q l && s.regionHeld t l

/-- Whether an eviction posting holds dispatch of a queue (R229). -/
def State.queueHeld (s : State) (t q : Nat) : Bool :=
  (s.evState t q).isSome || (s.queueAt t q).launches.any (s.launchHeld t q)

/-- The value of `ln.qstat` (R229). -/
def State.qstat (s : State) (t q : Nat) : Word :=
  let x := s.queueAt t q
  let ev := match s.evState t q with
    | some .rtc => 1 | some .ckpt => 2 | some .discard => 3 | _ => 0
  word (x.launches.length + b2n (x.launches.any (s.runs t q)) * 2 ^ 8 + s.eprio t q * 2 ^ 9 +
    b2n (s.tenantOk t && recQueue (s.tenantRec t) q) * 2 ^ 12 + b2n (s.queueHeld t q) * 2 ^ 13 + ev * 2 ^ 14 + x.lastRetired * 2 ^ 16)

/-- `ln.qstat gB, gA` (R229). -/
def execLnQstat (a b : BitVec 5) (s : State) : Host.Outcome State Fault Refusal :=
  run s do
    let sl ← s.me.gate [.g a]
    let v := sl.gv a
    if 16 ≤ v.toNat then throw (.trap 0x02 v)
    let c := s.myCtx .ln
    let q := if bit v 3 then fld (s.erp .ln c.1 c.2 1).1 0 3 else fld v 0 3
    pure (s.setMe (sl.wrG b (s.qstat sl.tenant.toNat q)).advance)

/-- Moves an affected queue to DISCARD, unless it is FINISHED (R242). -/
def State.evictSet (s : State) (t q : Nat) (st : EvState) : State :=
  { s with evicts := s.evicts.map (fun e => { e with queues := e.queues.map (fun x =>
      if x.1 = t ∧ x.2.1 = q ∧ x.2.2 ≠ .finished then (t, q, st) else x) }) }

/-- `ln.kill gA` (R230). Every fibre leaves within the step, so the thread does not stay PARKED. -/
def execLnKill (a : BitVec 5) (s : State) : Host.Outcome State Fault Refusal :=
  run s do
    s.needS (.lnKill a)
    let sl ← s.me.gate [.g a]
    let v := sl.gv a
    if 8 ≤ v.toNat then throw (.trap 0x02 v)
    let t := s.me.tenant.toNat
    let q := v.toNat
    let s := s.setMe sl
    let u := ((s.evictSet t q .discard).endLaunches t q .killed ((s.queueAt t q).launches.map (·.serial))).evictFinish
    pure (if u.me.state = .free then u else u.setMe u.me.advance)

/-! ### Dispatch (R231–R235) -/

/-- The launches of a queue that may bind (R233), in order: a launch behind another needs OVERLAP and the first binding of
the one before it. -/
def mayBind : List Launch → Bool → List Launch
  | [], _ => []
  | l :: t, ok =>
    if ok then (if l.next < l.total ∧ l.fate = .runs ∧ l.saved = false then l :: mayBind t (l.first.isSome && (match t with | m :: _ => m.overlap | [] => false))
      else mayBind t (l.first.isSome && (match t with | m :: _ => m.overlap | [] => false)))
    else []

/-- LM slices of a core that are not free: in use, or still to be cleaned (R235, R245). -/
def State.slices (s : State) (core : Nat) : List (Nat × Nat) :=
  ((List.range 7).map (s.slotAt core)).filterMap (fun sl => if sl.slice.2 ≠ 0 then some sl.slice else none)

/-- The lowest 8-aligned free run of `n` bytes of a core's LM: it starts at 0 or at the end of a slice in use (R235). -/
def State.lmRun (s : State) (core n : Nat) : Option Nat :=
  let used := s.slices core
  let fits (b : Nat) : Bool := decide (b + n ≤ 524288) && used.all (fun u => decide (b + n ≤ u.1) || decide (u.1 + u.2 ≤ b))
  ((0 :: used.map (fun u => u.1 + u.2)).filter fits).foldl (fun (a : Option Nat) b => some (match a with | none => b | some x => min x b)) none

/-- The lowest FREE general slot of a core that is installed for a tenant; under an eviction, only a cleaned one (R251). -/
def State.freeSlot (s : State) (t core : Nat) : Option Nat :=
  (List.range 7).find? (fun i =>
    let sl := s.slotAt core i
    decide (sl.state = .free) && decide (sl.owner = some t) && (s.tenantAt t).installed &&
      (match s.evictOver core with
        | none => true
        | some e => decide (e.incoming = some t) && decide (core * 16 + i ∈ e.cleaned)))

/-- Fibres of a launch bound on a core. -/
def State.onCore (s : State) (t q n core : Nat) : Nat := ((s.fibresOf t q n).filter (fun k => decide (k / 16 = core))).length

/-- Where the next fibre of a launch goes: the first core of REGION that meets R235, its slot, and its slice. -/
def State.place (s : State) (t q : Nat) (l : Launch) : Option (Nat × Nat × Nat) :=
  ((List.range l.len).map (l.base + ·)).findSome? (fun c =>
    if s.onCore t q l.serial c < l.slots then
      match s.freeSlot t c, s.lmRun c l.lmbytes with
      | some i, some o => some (c, i, o)
      | _, _ => none
    else none)

/-- The first launch of a queue that may bind, is not held, and finds a place (R231, R233). -/
def State.candidate (s : State) (t q : Nat) : Option (Launch × Nat × Nat × Nat) :=
  (mayBind (s.queueAt t q).launches true).findSome? (fun l =>
    if s.launchHeld t q l then none else (s.place t q l).map (fun p => (l, p)))

/-- The candidates of a die: (tenant·8 + queue, launch, core, slot, slice), for its lowest core that can bind. -/
def State.candidates (s : State) (die : Nat) : List (Nat × Launch × Nat × Nat × Nat) :=
  let l := (s.queues.filterMap (fun e => (s.candidate (e.1 / 8) (e.1 % 8)).map (fun p => (e.1, p)))).filter
    (fun e => decide (dieOf e.2.2.1 = die))
  match l.foldl (fun (a : Option Nat) e => some (match a with | none => e.2.2.1 | some x => min x e.2.2.1)) none with
  | none => []
  | some c => l.filter (fun e => decide (e.2.2.1 = c))

/-- Rounds of quanta until a deficit is positive (R231). -/
def drrRounds (d : Int) (quantum : Nat) : Nat := if 0 < d then 0 else (-d).toNat / quantum + 1

/-- Deficit of a queue on a die. -/
def State.deficitAt (s : State) (die k : Nat) : Int := tabGet 0 s.deficit (die * 1024 + k)

/-- Selection by priority and deficit round-robin (R231). -/
def State.select (s : State) (die : Nat) (l : List (Nat × Launch × Nat × Nat × Nat)) :
    Option ((Nat × Launch × Nat × Nat × Nat) × State) :=
  let top := (l.map (fun e => s.eprio (e.1 / 8) (e.1 % 8))).foldl max 0
  let l := l.filter (fun e => decide (s.eprio (e.1 / 8) (e.1 % 8) = top))
  let quantum (k : Nat) : Nat := recQuantum (s.tenantRec (k / 8)) (k % 8)
  let rounds := (l.map (fun e => drrRounds (s.deficitAt die e.1) (quantum e.1))).foldl
    (fun (a : Option Nat) r => some (match a with | none => r | some x => min x r)) none |>.getD 0
  let s := if rounds = 0 then s else l.foldl (fun s e =>
    { s with deficit := tabPut 0 s.deficit (die * 1024 + e.1) (s.deficitAt die e.1 + (rounds * quantum e.1 : Nat)) }) s
  let last := tabGet 0 s.served (die * 8 + top)
  let order := l.filter (fun e => decide (last ≤ e.1)) ++ l.filter (fun e => decide (e.1 < last))
  (order.find? (fun e => decide (0 < s.deficitAt die e.1))).map (fun e =>
    (e, { s with served := tabPut 0 s.served (die * 8 + top) (e.1 + 1) }))

/-- CSRs of a fibre at dispatch (R127, R268), over what the install left in the slot. -/
def dispatchCsrs (old : Slot) (t q : Nat) (l : Launch) (core slot : Nat) : List (Nat × Word) :=
  let i := l.next
  let fibid := word (i % l.x + i / l.x % l.y * 2 ^ 16 + i / (l.x * l.y) * 2 ^ 32)
  [(0x000, mkStatus t slot false 0 0), (0x004, align4 l.tvec), (0x008, fibid), (0x009, word (l.serial + q * 2 ^ 32)), (0x00A, word slot),
    (0x00B, word core - old.csrv 0x111), (0x010, l.fsr0), (0x011, l.fsr1), (0x031, l.budget), (0x020, l.fp),
    (0x021, if l.frame then 1 else 0), (0x022, l.fsl), (0x023, if l.frame then l.who.ctxid else 0),
    (0x024, if l.frame then l.who.ftb else 0)].foldl (fun c e => tabPut 0 c e.1 e.2) (old.vacated slot).csr

/-- The state of a fibre at dispatch (R127). -/
def dispatchSlot (old : Slot) (t q : Nat) (l : Launch) (core slot off gen : Nat) : Slot :=
  let g28 := l.lmva + word off
  { Slot.empty with
    state := .ready, occupant := .fibre t q l.serial l.next, pc := l.entry,
    g := [(1, l.args), (2, word l.next), (28, g28), (30, g28 + word l.lmbytes)].foldl (fun c e => tabPut (0, .full) c e.1 (e.2, .full)) [],
    csr := dispatchCsrs old t q l core slot, gen := gen, lastIssue := old.lastIssue, owner := old.owner, slice := (off, l.lmbytes) }

/-- Writes words with their presence from a physical address on. -/
def State.putWords (s : State) (a : Nat) : List (Word × Presence) → State
  | [] => s
  | (v, p) :: t => (s.pokeWord a v p).putWords (a + 8) t

/-- Writes the LM image into a slice (R109) before the fibre's first instruction: none of its words counts as written since dispatch
(R240). A slice shorter than the image gets its first words (DESIGN CHOICE, log entry 51). -/
def State.giveSlice (s : State) (core off len : Nat) (image : List (Word × Presence)) : State :=
  let a := lmBase + core * 524288 + off
  let s := s.putWords a (image.take (len / 8))
  { s with lmDirty := s.lmDirty.filter (fun e => decide (e.1 < a / 8) || decide ((a + len) / 8 ≤ e.1)) }

/-- Binds the next fibre of a launch (R235). -/
def State.bindFibre (s : State) (t q : Nat) (l : Launch) (core slot off : Nat) : State :=
  let x := s.tenantAt t
  let s := s.setSlot core slot (dispatchSlot (s.slotAt core slot) t q l core slot off x.gen.toNat)
  let s := s.giveSlice core off l.lmbytes x.roots.image
  let s := s.updLaunch t q l.serial (fun l => { l with next := l.next + 1, first := if l.first.isNone then some s.time.toNat else l.first })
  s.setQueue t q { s.queueAt t q with bound := some s.time.toNat, since := none, boost := 0 }

/-- FIBRE_DISPATCH: the sequencer of a die binds one fibre, if a launch can bind there (R231, R235). -/
def execFibreDispatch (die : Nat) (s : State) : Host.Outcome State Fault Refusal :=
  if 4 ≤ die then .fault .noSuchUnit
  else match s.select die (s.candidates die) with
    | none => .next s
    | some ((k, l, core, slot, off), s) => .next (s.bindFibre (k / 8) (k % 8) l core slot off)

/-- Whether a queue is waiting (R232): it has a launch that could be dispatched, and has bound no fibre for 4 ms. -/
def State.waiting (s : State) (t q : Nat) : Bool :=
  (mayBind (s.queueAt t q).launches true).any (fun l => !s.launchHeld t q l) &&
    (match (s.queueAt t q).bound with | none => true | some b => decide (b + 4000000 ≤ s.time.toNat))

/-- A queue as its waiting goes on, begins or ends (R232): one more level for 4 ms more. -/
def Queue.aged (x : Queue) (waiting : Bool) (now : Nat) : Queue :=
  if waiting = false then { x with since := none, boost := 0 }
  else match x.since with
    | none => { x with since := some now }
    | some b => if x.boost < min 7 ((now - b) / 4000000) then { x with boost := x.boost + 1 } else x

/-- QUEUE_AGING (R232). -/
def execQueueAging (tenant queue : Nat) (s : State) : Host.Outcome State Fault Refusal :=
  if 128 ≤ tenant ∨ 8 ≤ queue then .fault .noSuchUnit
  else .next (s.setQueue tenant queue ((s.queueAt tenant queue).aged (s.waiting tenant queue) s.time.toNat))

/-- FAULTED_BEYOND_RECOVERY: the firmware ends a thread whose fault escalated; its launch counts it as faulted (R136). A handler that a
pre-emption has entered is no fault. -/
def execFaultedBeyondRecovery (core slot : Nat) (s : State) : Host.Outcome State Fault Refusal :=
  if slotExists core slot = false then .fault .noSuchUnit
  else
    let sl := s.slotAt core slot
    if sl.state = .free ∨ (sl.state ≠ .stopped ∧ (sl.mode ≠ 3 ∨ sl.entered = true)) then .next s else .next (s.leaveSlot core slot .faulted)

/-- STOPPED_SLOT_CLEAR: the firmware clears a STOPPED slot, which becomes FREE (R117). -/
def execStoppedSlotClear (core slot : Nat) (s : State) : Host.Outcome State Fault Refusal :=
  if slotExists core slot = false then .fault .noSuchUnit
  else if (s.slotAt core slot).state ≠ .stopped then .next s else .next (s.leaveSlot core slot .faulted)

end Sys2Proof.Machine
end

