-- ==== Sys2Proof/Machine/Csr.lean ====
section
/-! DEFINITION. The CSRs: access (R130), values and writable fields (R129–R134, R214, R216, R253, R254, R257), the CSR
instructions (R172), and the device steps that a write makes. -/

namespace Sys2Proof.Machine

/-- Rank of a mode in the narrowing U, S, H. -/
def modeRank (m : BitVec 2) : Nat := if m = 0 then 0 else if m = 1 then 1 else 2

/-- The lowest modes that may read and write a CSR, by rank; none is an unassigned index, and a CSR that no mode writes has
no second (R129, R254). -/
def csrAccess (i : Nat) : Option (Nat × Option Nat) :=
  if i = 0x000 then some (0, some 1)
  else if 0x001 ≤ i ∧ i ≤ 0x005 then some (1, some 1)
  else if i = 0x006 then some (0, some 0)
  else if 0x008 ≤ i ∧ i ≤ 0x00B then some (0, none)
  else if i = 0x00C ∨ i = 0x00D ∨ (0x010 ≤ i ∧ i ≤ 0x013) then some (0, some 0)
  else if 0x020 ≤ i ∧ i ≤ 0x024 then some (0, some 1)
  else if i = 0x030 ∨ i = 0x034 then some (0, none)
  else if i = 0x031 then some (0, some 1)
  else if i = 0x032 ∨ (0x040 ≤ i ∧ i ≤ 0x04F) then some (0, some 2)
  else if (0x050 ≤ i ∧ i ≤ 0x053) ∨ i = 0x058 then some (0, some 0)
  else if i = 0x060 then some (0, some 1)
  else if i = 0x080 then some (1, some 1)
  else if (0x101 ≤ i ∧ i ≤ 0x105) ∨ (0x110 ≤ i ∧ i ≤ 0x117) then some (2, some 2)
  else if i = 0x118 then some (2, none)
  else none

/-- Whether a CSR exists in a slot 7 only (R130). -/
def csrSlot7 (i : Nat) : Bool := (decide (0x050 ≤ i) && decide (i ≤ 0x053)) || i = 0x058

/-- The checks of a CSR access (R130); `i` is the instruction, for EVAL. -/
def State.csrCheck (s : State) (i : Instr) (c : Nat) (writes : Bool) : Except Stop Unit :=
  match (if c = 0x013 ∧ coreKind s.curCore ≠ .control then none else csrAccess c) with
  | none => throw (.trap 0x01 ((encode i).setWidth 64))
  | some (r, w) =>
    let m := modeRank s.me.mode
    let ok := decide (r ≤ m) && (!writes || (match w with | some w => decide (w ≤ m) | none => false))
    if ok = false then throw (.trap 0x03 (word c))
    else if csrSlot7 c ∧ (coreKind s.curCore ≠ .compute ∨ s.curSlot ≠ 7) then throw (.trap 0x04 (word c))
    else pure ()

/-! ### Values -/

/-- The cluster that CLSEL names (R254). -/
def State.clselCluster (s : State) : Nat := fld (tabGet 0 s.pcsr 0x114) 0 6
/-- The tenant that CLSEL names. -/
def State.clselTenant (s : State) : Nat := fld (tabGet 0 s.pcsr 0x114) 8 7

/-- Whether a tenant's counter has a reserved code: it holds at 0 (R258). -/
def State.evcReserved (s : State) (t n : Nat) : Bool := decide (18 ≤ (tabGet 0 s.evsel (t * 16 + n)).toNat)

/-- An event counter of a tenant (R257). -/
def State.evcGet (s : State) (t n : Nat) : Word := if s.evcReserved t n then 0 else tabGet 0 s.evc (t * 16 + n)

/-- Index under which a slot keeps a CSR: mode H has a S1ROOT of its own (R26). -/
def csrHome (sl : Slot) (i : Nat) : Nat := if i = 0x080 ∧ sl.mode = 3 then 0x180 else i

/-- The value of a CSR as a slot reads it. -/
def State.csrGet (s : State) (core slot i : Nat) : Word :=
  let sl := s.slotAt core slot
  if i = 0x030 then s.time
  else if i = 0x034 then s.wsphase.setWidth 64
  else if 0x040 ≤ i ∧ i ≤ 0x04F then s.evcGet sl.tenant.toNat (i - 0x040)
  else if i = 0x060 then (s.mxAt core).mxdone
  else if i = 0x115 then (tabGet 0 s.tck s.clselCluster).setWidth 64
  else if i = 0x116 then (tabGet 0 s.tccol (s.clselCluster * 256 + s.clselTenant)).setWidth 64
  else if i = 0x117 then (if s.clselCluster ∈ s.dropping then 1 else 0)
  else if i = 0x118 then (s.tenantAt s.clselTenant).gen.setWidth 64
  else if i = 0x113 ∨ i = 0x114 then tabGet 0 s.pcsr i
  else sl.csrv (csrHome sl i)

/-! ### Writes -/

/-- A mask of `n` bits from bit `lo`. -/
def bits (lo n : Nat) : Word := word ((2 ^ n - 1) * 2 ^ lo)

/-- The writable fields of a CSR whose others read 0 (R129–R133, R27, R214, R216, R253, R254). -/
def csrMask (i : Nat) : Word :=
  if i = 0x004 then bits 2 62
  else if i = 0x006 then 1
  else if i = 0x00C then bits 0 16
  else if i = 0x00D then bits 0 32
  else if i = 0x012 then bits 0 7 ||| bits 8 5
  else if i = 0x013 then bits 0 4
  else if i = 0x023 then bits 0 20
  else if i = 0x050 then bits 3 49
  else if i = 0x052 then bits 3 55
  else if i = 0x058 then bits 3 61
  else if i = 0x080 ∨ i = 0x104 then bits 15 37
  else if i = 0x103 then bits 0 11
  else if i = 0x110 then bits 4 48 ||| bits 53 11
  else if i = 0x113 then bits 14 38
  else if i = 0x114 then bits 0 6 ||| bits 8 7
  else bits 0 64

/-- A write of STATUS (R131): INH, and a PMODE that the mode may write. -/
def Slot.writeStatus (sl : Slot) (v : Word) : Slot :=
  let p : BitVec 2 := v.extractLsb' 2 2
  sl.setStatus (v.getLsbD 4) (if p = 2 ∨ (p = 3 ∧ sl.mode ≠ 3) then sl.pmode else p) sl.mode

/-- BUDGET_WRITE: a nonzero BUDGET below ISSUED becomes ISSUED (R172). -/
def Slot.writeBudget (sl : Slot) (v : Word) : Slot :=
  sl.setCsr 0x031 (if v ≠ 0 ∧ v.toNat < (sl.csrv 0x032).toNat then sl.csrv 0x032 else v)

/-- Discards the cached place tables of a core (R253). -/
def State.dropPlaces (s : State) (core : Nat) : State := { s with placeCache := s.placeCache.filter (fun e => decide (e.1 / 2 ^ 64 ≠ core)) }

/-- PLACE_WRITE: the core's cached place tables go, and the named one is taken up (R253). -/
def State.writePlace (s : State) (v : Word) : State :=
  let v := v &&& csrMask 0x110
  ((s.dropPlaces s.curCore).setMe (s.me.setCsr 0x110 v)).loadPlace s.curCore v

/-- The bit-buffer's pending bits above n − 1 are 0 (R216). -/
def Slot.trimOut (sl : Slot) : Slot := sl.setCsr 0x053 (sl.csrv 0x053 &&& bits 0 (fld (sl.csrv 0x052) 52 6))

/-- k or a colour of a cluster changes; lines that its tile cache holds stay where they are (R40). -/
def State.recolour (s : State) (changed : Bool) (c : Nat) : State :=
  if changed ∧ c ∈ s.filled ∧ s.recoloured.any (fun e => decide (e.1 = c)) = false then { s with recoloured := (c, []) :: s.recoloured } else s

/-- A write of TCK (R254). -/
def State.writeTck (s : State) (v : Word) : State :=
  if 5 ≤ fld v 0 3 then s
  else
    let c := s.clselCluster
    { s.recolour (decide (tabGet 0 s.tck c ≠ v.setWidth 3)) c with tck := tabPut 0 s.tck c (v.setWidth 3) }

/-- A write of TCCOL (R254). -/
def State.writeTccol (s : State) (v : Word) : State :=
  let c := s.clselCluster
  let k := c * 256 + s.clselTenant
  { s.recolour (decide (tabGet 0 s.tccol k ≠ v.setWidth 4)) c with tccol := tabPut 0 s.tccol k (v.setWidth 4) }

/-- MXDONE_WRITE: the mask of a held step is replaced; with none held the write has no effect (R328). -/
def State.writeMxdone (s : State) (v : Word) : State :=
  let x := s.mxAt s.curCore
  if x.held.isSome then s.setMx s.curCore { x with mxdone := v } else s

/-- TCDROP_WRITE: writing 1 starts the drop of the selected cluster's tile cache (R254). -/
def State.writeTcdrop (s : State) (v : Word) : State :=
  if bit v 0 ∧ s.clselCluster ∉ s.dropping then { s with dropping := s.dropping ++ [s.clselCluster] } else s

/-- A write of a CSR by the executing slot. -/
def State.csrSet (s : State) (i : Nat) (v : Word) : State :=
  let t := s.me.tenant.toNat
  if i = 0x000 then s.setMe (s.me.writeStatus v)
  else if i = 0x031 then s.setMe (s.me.writeBudget v)
  else if 0x040 ≤ i ∧ i ≤ 0x04F then
    { s with evc := tabPut 0 s.evc (t * 16 + (i - 0x040)) (if s.evcReserved t (i - 0x040) then 0 else v) }
  else if i = 0x052 ∨ i = 0x053 then s.setMe (s.me.setCsr i (v &&& csrMask i)).trimOut
  else if i = 0x060 then s.writeMxdone v
  else if i = 0x110 then s.writePlace v
  else if i = 0x113 ∨ i = 0x114 then { s with pcsr := tabPut 0 s.pcsr i (v &&& csrMask i) }
  else if i = 0x115 then s.writeTck v
  else if i = 0x116 then s.writeTccol v
  else if i = 0x117 then s.writeTcdrop v
  else s.setMe (s.me.setCsr (csrHome s.me i) (v &&& csrMask i))

/-! ### The CSR instructions (R172) -/

/-- `csrr`. -/
def execCsrr (b : BitVec 5) (c : BitVec 10) (s : State) : Host.Outcome State Fault Refusal :=
  run s do
    s.csrCheck (.csrr b c) c.toNat false
    pure (s.setMe (s.me.wrG b (s.csrGet s.curCore s.curSlot c.toNat)).advance)

/-- The read-modify-write of `csrw`, `csrs` and `csrc`. -/
def csrRmw (i : Instr) (a b : BitVec 5) (c : BitVec 10) (f : Word → Word → Word) (s : State) : Host.Outcome State Fault Refusal :=
  run s do
    s.csrCheck i c.toNat true
    let sl ← s.me.gate [.g a]
    let s := s.setMe sl
    let old := s.csrGet s.curCore s.curSlot c.toNat
    let s := s.csrSet c.toNat (f old (sl.gv a))
    pure (s.setMe (s.me.wrG b old).advance)

/-- `csrw`. -/
def execCsrw (a b : BitVec 5) (c : BitVec 10) (s : State) : Host.Outcome State Fault Refusal :=
  csrRmw (.csrw a b c) a b c (fun _ v => v) s
/-- `csrs`. -/
def execCsrs (a b : BitVec 5) (c : BitVec 10) (s : State) : Host.Outcome State Fault Refusal :=
  csrRmw (.csrs a b c) a b c (fun old v => old ||| v) s
/-- `csrc`. -/
def execCsrc (a b : BitVec 5) (c : BitVec 10) (s : State) : Host.Outcome State Fault Refusal :=
  csrRmw (.csrc a b c) a b c (fun old v => old &&& ~~~v) s

/-! ### The steps of a write -/

/-- PLACE_WRITE (R253). -/
def execPlaceWrite (v : Word) (s : State) : Host.Outcome State Fault Refusal := .next (s.writePlace v)
/-- MXDONE_WRITE (R328). -/
def execMxdoneWrite (v : Word) (s : State) : Host.Outcome State Fault Refusal := .next (s.writeMxdone v)
/-- BUDGET_WRITE (R172). -/
def execBudgetWrite (v : Word) (s : State) : Host.Outcome State Fault Refusal := .next (s.setMe (s.me.writeBudget v))
/-- TCDROP_WRITE (R254). -/
def execTcdropWrite (v : Word) (s : State) : Host.Outcome State Fault Refusal := .next (s.writeTcdrop v)

/-- A line that was written while its tile cache might hold an older dirty copy of it: which of the two stays is open, and its words hold
free values (R40; log entries 3, 49). -/
def State.freeLine (s : State) (line : Nat) : State :=
  (List.range 16).foldl (fun s i =>
    let v := s.draw
    let p := v.2.draw
    let pr : Presence := match p.1.toNat % 3 with | 0 => .empty | 1 => .full | _ => .void
    ({ p.2 with mem := pokeMem p.2.mem (128 * line + 8 * i) 8 v.1.toNat } : State).setPres (128 * line + 8 * i) pr) s

/-- TCDROP_COMPLETE: the tile cache holds no line any more, and held accesses proceed (R254). What was still held under an older index has been
written back, each line to its own address (R40). -/
def execTcdropComplete (cluster : Nat) (s : State) : Host.Outcome State Fault Refusal :=
  if 64 ≤ cluster then .fault .noSuchUnit
  else
    let lines := ((s.recoloured.filter (fun e => decide (e.1 = cluster))).map (·.2)).flatten
    .next (lines.foldl State.freeLine { s with
      dropping := s.dropping.filter (· ≠ cluster), filled := s.filled.filter (· ≠ cluster)
      recoloured := s.recoloured.filter (fun e => decide (e.1 ≠ cluster)) })

end Sys2Proof.Machine
end

