-- ==== Sys2Proof/Machine/Save.lean ====
section
/-! DEFINITION. Save records, context save and restore (R346–R348), dirty bytes (R240), pre-emption for a save (R179, R243),
and the copy-page step that drives the commands of a copy context. -/

namespace Sys2Proof.Machine

/-! ### Pre-emption -/

/-- Whether an instruction that a pre-empted slot has issued is still to complete: its reply has come, or its frame engine goes on with it
(R179). -/
def Slot.completes (sl : Slot) : Bool :=
  sl.resuming && decide (sl.state = .ready) &&
    (decide (sl.kept ≠ []) || decide (sl.reply ≠ .none ∧ sl.reply ≠ .flipped ∧ sl.reply ≠ .voided) || (match sl.wait with | .frame _ _ => true | _ => false))

/-- Whether a request of a slot has left for its home, so that pre-emption waits for the reply (R179): an access, a fetch, a `putr`, a
command that a frame engine holds; or its reply has come, and the instruction is still to complete. -/
def Slot.outstanding (sl : Slot) : Bool :=
  (decide (sl.state = .parked) && (decide (sl.kept ≠ []) || (match sl.wait with
    | .far _ _ => true
    | .host _ _ _ _ => true
    | .fetch _ _ => true
    | .put => true
    | .frame _ _ => true
    | _ => false))) || sl.completes

/-- Pre-emption enters the hypervisor's handler: HEPC and HCAUSE are filled as by an escalation, with code 0 (R128, R171). -/
def Slot.enter (sl : Slot) : Slot :=
  { ((sl.setCsr 0x102 sl.pc).setCsr 0x103 (word (sl.mode.toNat * 256 + (if sl.inh then 1024 else 0)))).setStatus sl.inh sl.pmode 3 with
    pc := align4 (sl.csrv 0x101), entered := true }

/-- The thread that a pre-emption has interrupted, as the handler's `eret` resumes it (R171). -/
def Slot.interrupted (sl : Slot) : Slot :=
  if sl.entered then { sl with pc := sl.eret.pc, csr := sl.eret.csr, entered := false } else sl

/-- Pre-empts a slot (core·16 + slot): it issues no more, a running `mx.step` becomes held (R329), a mask wait is not executed
(R380), and the handler is entered unless a reply is outstanding (R179). -/
def State.preempt (s : State) (k : Nat) : State :=
  let s := (s.mxPreempt (k / 16) (k % 16)).mkUnqueue (k / 16) (k % 16)
  let sl := s.slotAt (k / 16) (k % 16)
  s.setSlot (k / 16) (k % 16) { (if sl.outstanding then sl else sl.enter) with preempted := true }

/-- A pre-empted slot goes on as it was: a barrier wait keeps waiting (R190), a request that is outstanding waits for its reply, anything
else issues afresh; spilled deliveries are applied first (R194). -/
def Slot.goesOn (sl : Slot) : Slot :=
  let sl := sl.interrupted
  let keep := sl.outstanding || (decide (sl.state = .parked) && (match sl.wait with | .barrier _ _ => true | .podPhase _ _ _ => true | _ => false))
  let t := if sl.state = .stopped ∨ keep = true then sl
    else { sl with state := .ready, wait := .none, reply := .none, resuming := false, miss := none, kept := [], fetched := none, words := [] }
  sl.spill.foldl (fun t e => t.receive e.1 e.2.1 e.2.2) { t with preempted := false, spill := [] }

/-- Ends the pre-emption of a slot that stays bound. -/
def State.resumeSlot (s : State) (k : Nat) : State := s.setSlot (k / 16) (k % 16) (s.slotAt (k / 16) (k % 16)).goesOn

/-- Whether a pre-empted slot can be saved: no reply of its request is outstanding (R179), and every command of its thread
has completed (R347). -/
def State.savable (s : State) (k : Nat) : Bool :=
  !(s.slotAt (k / 16) (k % 16)).outstanding && !s.busy (k / 16) (k % 16) &&
    s.mkp.all (fun e => match e.2 with | some p => !(p.who.core = k / 16 && p.who.slot = k % 16) | none => true)

/-! ### Sections (R346) -/

/-- Presence codes packed as R109: two bits each, in words. -/
def packPres (l : List Presence) : List Word :=
  let code (p : Presence) : Nat := match p with | .empty => 0 | .full => 1 | .void => 2
  (List.range ((l.length + 31) / 32)).map (fun i => word (((l.drop (32 * i)).take 32).foldr (fun p a => code p + 4 * a) 0))

/-- A section: its header and body. -/
def section_ (kind core slot : Nat) (body : List Word) : List Word :=
  word (kind + core * 2 ^ 16 + slot * 2 ^ 32) :: word (8 * body.length) :: body

/-- The CSRs of R129 below 0x080; one that the slot does not have is 0. -/
def savedCsrs : List Nat :=
  (List.range 7) ++ [8, 9, 10, 11, 12, 13, 16, 17, 18, 19, 32, 33, 34, 35, 36, 48, 49, 50, 52] ++ (List.range 16).map (0x040 + ·) ++
    [0x050, 0x051, 0x052, 0x053, 0x058, 0x060]

/-- The body of a slot section (kind 1): registers at their widths, presence codes, CSRs; the code of the slot state is not
stated and is a free value (log entry 17). The thread is saved as pre-emption interrupted it. -/
def State.slotBody (s : State) (core slot : Nat) : List Word :=
  let sl := (s.slotAt core slot).interrupted
  let gs := (List.range 32).map (fun i => sl.gp (BitVec.ofNat 5 i))
  let vs := (List.range 16).map (fun i => sl.vp (BitVec.ofNat 4 i))
  let ks := (List.range 8).map (fun i => sl.kp (BitVec.ofNat 3 i))
  let vwords := (vs.map (fun v => (List.range 16).map (fun j => v.1.extractLsb' (64 * j) 64))).flatten
  let kwords := (List.range 4).map (fun i =>
    word (((ks.getD (2 * i) (0, .full)).1).toNat + ((ks.getD (2 * i + 1) (0, .full)).1).toNat * 2 ^ 32))
  let st := Config.stateWord 1 0 [match sl.state with | .free => 0 | .ready => 1 | .parked => 2 | .asleep => 3 | .stopped => 4]
  let csrs := savedCsrs.map ((s.setSlot core slot sl).csrGet core slot)
  [sl.pc, st] ++ gs.map (·.1) ++ vwords ++ kwords ++ packPres (gs.map (·.2) ++ vs.map (·.2) ++ ks.map (·.2)) ++ csrs

/-- The words of a slot's LM slice written since dispatch, by offset in LM. -/
def State.dirtyWords (s : State) (core slot : Nat) : List (Nat × Word × Presence) :=
  let sl := s.slotAt core slot
  (s.lmDirty.filter (fun e => e.2 && decide (lmBase + core * 524288 + sl.slice.1 ≤ 8 * e.1) &&
    decide (8 * e.1 < lmBase + core * 524288 + sl.slice.1 + sl.slice.2))).map
      (fun e => (8 * e.1 - (lmBase + core * 524288), word (s.peek (8 * e.1) 8), s.presAt (8 * e.1)))

/-- Splits words by rising offset into runs of neighbours. -/
def runsOf : List (Nat × Word × Presence) → List (List (Nat × Word × Presence))
  | [] => []
  | x :: t => match runsOf t with
    | [] => [[x]]
    | r :: rest => if (r.headD (0, 0, .full)).1 = x.1 + 8 then (x :: r) :: rest else [x] :: r :: rest

/-- The body of an LM run (kind 2). -/
def runBody (r : List (Nat × Word × Presence)) : List Word :=
  word (r.headD (0, 0, .full)).1 :: r.map (·.2.1) ++ packPres (r.map (·.2.2))

/-- Engine registers of an engine's map (R19). -/
def erCount : EngKind → Nat
  | .ln => 3 | .fr => 1 | .at => 13 | .mx => 9 | .cp => 11 | .fx => 11 | .mk => 11

/-- The engines, in the order of their majors. -/
def engKinds : List EngKind := [.ln, .fr, .at, .mx, .cp, .fx, .mk]

/-- The context of a compute core in an engine (R18). -/
def coreCtx (k : EngKind) (core : Nat) : Nat × Nat := engCtx k core 0 0

/-- The engine registers of a core's contexts, in the order of the majors: engine, instance where it is one of four frame engines (R16, R18),
and index. -/
def coreErs : List (EngKind × Nat × Nat) :=
  (engKinds.map (fun k =>
    if k = .fr then (List.range 4).map (fun d => (k, d, 0)) else (List.range (erCount k)).map (fun n => (k, 0, n)))).flatten

/-- The engine, instance, context and index of such a register of a core. -/
def coreEr (core : Nat) (e : EngKind × Nat × Nat) : EngKind × Nat × Nat × Nat :=
  let c := coreCtx e.1 core
  (e.1, if e.1 = .fr then e.2.1 else c.1, c.2, e.2.2)

/-- The engine registers of a core's contexts, by their number in `coreErs`. -/
def State.coreRegs (s : State) (core : Nat) : List (Nat × (Word × Presence)) :=
  coreErs.mapIdx (fun i e => let r := coreEr core e; (i, s.erp r.1 r.2.1 r.2.2.1 r.2.2.2))

/-- `n` words of a section whose layout the spec does not state, for a state that is given as numbers (log entry 17). -/
def stateWords (kind n : Nat) (content : List Nat) : List Word := (List.range n).map (fun i => Config.stateWord kind i content)

/-- A table of flags as numbers. -/
def flagNats (l : List (Nat × Bool)) : List Nat := l.length :: l.map (fun e => 2 * e.1 + b2n e.2)

/-- The state of a matrix engine as numbers: accumulators, chain, marks, held step (R313). -/
def MxCore.nats (x : MxCore) : List Nat :=
  (x.c.length :: (x.c.map (fun e => [e.1, e.2.toNat])).flatten) ++
    (x.total.length :: (x.total.map (fun e => [e.1, e.2.toNat, (-e.2).toNat])).flatten) ++
    flagNats x.satf ++ flagNats x.inval ++ flagNats x.voidm ++ flagNats x.touched ++
    [b2n x.chain, x.ec.toNat, (-x.ec).toNat, x.groups, x.mxdone.toNat, b2n x.ovf, b2n x.invalid] ++
    (match x.held with | none => [] | some t => t.a :: t.b :: t.index :: t.who.slot :: t.regs.map BitVec.toNat)

/-- The matrix section's body: 16 bytes for each touched element, and 64 for the context (log entry 17). -/
def State.mxBody (s : State) (core : Nat) : List Word := stateWords 3 (2 * (s.mxAt core).touched.length + 8) (s.mxAt core).nats

/-- A triple as numbers. -/
def Triple.nats (t : Triple) : List Nat := t.m.toNat :: t.l.toNat :: t.status :: b2n t.voided :: t.o.map BitVec.toNat

/-- The state of an attention context as numbers: latched queries, triples, row statuses and marks, tree, fold registers (R283, R296). -/
def AtCtx.nats (x : AtCtx) : List Nat :=
  [b2n x.latched, x.rows, x.d, x.scale.toNat, x.frame, x.qpos, x.ctxid, x.ftb.toNat, x.treeBase, x.fail] ++
    (x.q.map (fun r => r.map BitVec.toNat)).flatten ++ (x.triples.map Triple.nats).flatten ++ x.tree.map BitVec.toNat

/-- The attention section's body (log entry 17). -/
def State.atBody (s : State) (core : Nat) : List Word :=
  let c := coreCtx .at core
  let x := s.atCtx c.1 c.2
  stateWords 4 (8 + x.rows * (2 + (6 * x.d + 7) / 8) + x.tree.length) x.nats

/-- Key of a register that a delivery aims at. -/
def Src.nat : Src → Nat
  | .g n => n.toNat
  | .v n => 32 + n.toNat
  | .k n => 48 + n.toNat

/-- A fabric message as numbers. -/
def fabNats (m : FabMsg) : List Nat :=
  let k := m.key
  let b : Nat × FabData := match m.body with | .up d => (0, d) | .down d => (1, d)
  [m.sender, m.receiver, m.package, m.die, m.ctx, k.tag.toNat, k.seq, b2n k.barrier, k.barId.getD 16, k.count, k.mask, k.op, k.dcode, k.len,
    b.1] ++ (b.2.map (fun e => [e.1.toNat, b2n e.2])).flatten

/-- The body of kind 5: spilled deliveries of a core's fibres, and fabric messages for its context (log entry 17). -/
def State.spillBody (s : State) (core : Nat) : List Word :=
  let c := coreCtx .fx core
  let sp := ((List.range 7).map (fun i => (s.slotAt core i).spill.map (fun e => [i, e.1.nat, e.2.1.toNat, packPres [e.2.2] |>.headD 0 |>.toNat]))).flatten
  let ms := s.fabNet.filter (fun e => decide (e.1 = c))
  stateWords 5 (18 * sp.length + 8 * ms.length) (sp.flatten ++ (ms.map (fun e => fabNats e.2)).flatten)

/-- The sections of a core that no slot owns: kinds 3 to 6. The bodies of 3 to 5 are not laid out by the spec. -/
def State.coreSections (s : State) (core logical : Nat) : List Word :=
  let r := s.coreRegs core
  section_ 3 logical 0 (s.mxBody core) ++ section_ 4 logical 0 (s.atBody core) ++ section_ 5 logical 0 (s.spillBody core) ++
    section_ 6 logical 0 (r.map (·.2.1) ++ packPres (r.map (·.2.2)))

/-- The sections of a slot: kinds 1 and 2. -/
def State.slotSections (s : State) (core slot logical : Nat) : List Word :=
  section_ 1 logical slot (s.slotBody core slot) ++
    ((runsOf (s.dirtyWords core slot)).map (fun r => section_ 2 logical slot (runBody r))).flatten

/-! ### Dirty bytes (R240) -/

/-- Bytes of a slot's own sections. -/
def State.slotBytes (s : State) (k : Nat) : Nat := 8 * (s.slotSections (k / 16) (k % 16) 0).length

/-- Bytes of a core's shared sections. -/
def State.coreBytes (s : State) (core : Nat) : Nat := 8 * (s.coreSections core 0).length

/-- The cores of slots, each once. -/
def coresOf (l : List Nat) : List Nat := (l.map (· / 16)).eraseDups

/-- Dirty bytes of slots and their cores. -/
def State.dirtyOf (s : State) (l : List Nat) : Nat :=
  l.foldl (fun a k => a + s.slotBytes k) 0 + (coresOf l).foldl (fun a c => a + s.coreBytes c) 0

/-- The running launches of a queue: those with a fibre bound (R240). -/
def State.running (s : State) (t q : Nat) : List Launch := (s.queueAt t q).launches.filter (s.runs t q)

/-- The record being written of a launch. -/
def State.saveOf (s : State) (t q n : Nat) : Option Save :=
  s.saves.find? (fun v => decide (v.tenant = t) && decide (v.queue = q) && decide (v.serial = n) && !v.complete)

/-- Slots of a launch whose sections are not yet begun. -/
def State.unsaved (s : State) (t q n : Nat) : List Nat :=
  match s.saveOf t q n with
  | some v => v.pending
  | none => s.fibresOf t q n

/-- U of R240 for a queue: over the clusters it occupies, the largest count of dirty bytes not yet written; what is left of a record's 256-byte
header is not counted. -/
def State.dirtyMax (s : State) (t q : Nat) : Nat :=
  let ls := s.running t q
  ((List.range 64).map (fun c =>
    ls.foldl (fun a l => a + s.dirtyOf ((s.unsaved t q l.serial).filter (fun k => decide (k / 256 = c))) +
      (match s.saveOf t q l.serial with | some v => if v.cluster = c then 8 * v.buf.length - (256 - v.written) else 0 | none => 0)) 0)).foldl max 0

/-- The size that the save area must have (R241, rule 2). -/
def State.saveNeeds (s : State) (t q : Nat) : Nat :=
  (s.running t q).foldl (fun a l => a + s.dirtyOf (s.fibresOf t q l.serial) + 256) 0

/-! ### Writing a record (R347) -/

/-- Who writes save records: the hypervisor, through the S1ROOT of the pager core of cluster 0 (log entry 18). -/
def State.saver (s : State) : Who :=
  let w := (s.slotAt 1040 0).who 1040 0
  { w with mode := 3, tenant := 0xFF, s1 := (s.slotAt 1040 0).csrv 0x180 }

/-- Save `n`. -/
def State.saveAt (s : State) (n : Nat) : Option Save := s.saves[n]?

/-- Replaces save `n`. -/
def State.setSave (s : State) (n : Nat) (v : Save) : State := { s with saves := s.saves.set n v }

/-- Whether one serial number is older than another, modulo 2^32. -/
def serialBefore (a b : Nat) : Bool := a ≠ b && decide ((b + 2 ^ 32 - a) % 2 ^ 32 < 2 ^ 31)

/-- Puts a launch at its place by serial number. -/
def insertSerial (l : Launch) : List Launch → List Launch
  | [] => [l]
  | x :: t => if serialBefore x.serial l.serial then x :: insertSerial l t else l :: x :: t

/-- Begins a save of every running launch of a queue: one record each, in serial order (R243), and pre-empts their slots. -/
def State.startSave (s : State) (t q : Nat) (ctx : Option (Nat × Nat × Nat)) : State :=
  let ls := (s.running t q).foldr insertSerial []
  let s := ls.foldl (fun s l => (s.fibresOf t q l.serial).foldl State.preempt s) s
  let mk (l : Launch) : Save :=
    { tenant := t, queue := q, serial := l.serial, addr := 0, written := 0, began := s.time.toNat,
      pending := s.fibresOf t q l.serial, buf := [], cluster := 0, taken := [], fibres := [], cores := [], launch := l,
      complete := false, miss := none, control := false, ctx := ctx }
  { s with saves := s.saves.filter (fun v => !(v.tenant = t && v.queue = q && ls.any (fun l => l.serial = v.serial))) ++ ls.map mk }

/-- Where a record of a queue begins: after the record written before it, at a multiple of 256. -/
def State.recordStart (s : State) (n : Nat) (v : Save) : Nat :=
  let base := (recSave (s.tenantRec v.tenant) v.queue).1
  (s.saves.take n).foldl (fun a u =>
    if u.tenant = v.tenant ∧ u.queue = v.queue ∧ u.ctx = v.ctx ∧ u.began = v.began then
      u.addr.toNat + (u.written + 255) / 256 * 256 else a) base

/-- How writing a record goes: on, a miss, the end of the area, another failure. -/
inductive SaveEnd where
  | on | full
  | miss (m : Miss)
  | failed (code : Nat)
  deriving DecidableEq, Repr

/-- Writes words of a record from offset `off` on: what is left, the offset reached, and how it went. -/
def State.saveWords (s : State) (w : Who) (u : TlbUnit) (base limit off : Nat) : List Word → List Word × Nat × SaveEnd × State
  | [] => ([], off, .on, s)
  | x :: t =>
    if limit < base + off + 8 then (x :: t, off, .full, s)
    else match s.ctxWrite w u (word (base + off)) 8 x.toNat with
      | .ok s => s.saveWords w u base limit (off + 8) t
      | .error (.miss m) => (x :: t, off, .miss m, s)
      | .error (.trap c _) => (x :: t, off, .failed c, s)
      | .error _ => (x :: t, off, .on, s)

/-- Writes a word of the record's header. -/
def State.saveHeader (s : State) (v : Save) (off : Nat) (x : Word) : Except Stop State :=
  s.ctxWrite s.saver (.copy v.cluster) (v.addr + word off) 8 x.toNat

/-- The control word of save `n` with the resume offset, as a page fault stops a save (R347); where its own page cannot be written either, it
keeps what it holds, and a write that the drop of a tile cache holds is made afterwards (R254). -/
def State.saveControl (s : State) (n : Nat) (v : Save) : State :=
  match s.saveHeader v 0 (word (v.written % 2 ^ 40)) with
  | .ok s => s.setSave n { v with control := false }
  | .error (.park _) => s.setSave n { v with control := true }
  | .error _ => s.setSave n { v with control := false }

/-- The header of a record as it begins (R346): complete 0, resume offset 0, length and counters still 0. -/
def headerWords (v : Save) : List Word :=
  [0, word (1 + v.queue * 2 ^ 32 + v.tenant * 2 ^ 40), 0, word (v.serial + v.pending.length * 2 ^ 32), word v.began] ++ List.replicate 27 0

/-- Ends the saves of a `cp.save` or of a queue that fail: their records stay incomplete and their fibres go on. -/
def State.dropSaves (s : State) (p : Save → Bool) : State :=
  let l := s.saves.filter (fun v => p v && !v.complete)
  let s := { s with saves := s.saves.filter (fun v => !(p v && !v.complete)) }
  l.foldl (fun s v => (s.fibresOf v.tenant v.queue v.serial).foldl State.resumeSlot s) s

/-- Discards the running launches of a queue (R244). -/
def State.discardQueue (s : State) (t q : Nat) : State :=
  ((s.evictSet t q .discard).endLaunches t q .discarded ((s.running t q).map (·.serial))).evictFinish

/-- Ends a save command early with outcome 1 and a code. -/
def State.cpFail (s : State) (c : Nat × Nat × Nat) (code : Nat) : State :=
  match (s.cmdsOf .cp c.1 c.2.1).find? (fun x => decide (x.id = c.2.2) && !x.finished) with
  | some x => s.setCp c.1 c.2.1 (x.end 1 code 0)
  | none => s

/-- A save that cannot go on: under an eviction its queue is discarded, under `cp.save` the launch keeps running (R347). -/
def State.saveFails (s : State) (v : Save) (code : Nat) : State :=
  match v.ctx with
  | none => s.discardQueue v.tenant v.queue
  | some c => (s.dropSaves (fun u => decide (u.ctx = some c))).cpFail c code

/-- Writes out what save `n` has ready; a miss stops it at the page with the resume offset in the control word (R347). -/
def State.saveOut (s : State) (n : Nat) : State :=
  match s.saveAt n with
  | none => s
  | some v =>
    let a := recSave (s.tenantRec v.tenant) v.queue
    let (rest, off, e, s) := s.saveWords s.saver (.copy v.cluster) v.addr.toNat (a.1 + a.2) v.written v.buf
    let v := { v with buf := rest, written := off }
    match e with
    | .on => s.setSave n v
    | .miss m => (s.saveControl n { v with miss := some m }).sendMiss 1040 none 0xFF m
    | .full => (s.setSave n v).saveFails v 0x61
    | .failed c => (s.setSave n v).saveFails v c

/-- Logical core of a physical one in a tenant's region (R235). -/
def State.logical (s : State) (t core : Nat) : Nat := core - recBase (s.tenantRec t)

/-- Entries of a table with keys in [lo, lo + n), by offset from `lo`. -/
def tabCut {α : Type} (l : List (Nat × α)) (lo n : Nat) : List (Nat × α) :=
  (l.filter (fun e => decide (lo ≤ e.1) && decide (e.1 < lo + n))).map (fun e => (e.1 - lo, e.2))

/-- What a save keeps of a core. -/
def State.saveCore (s : State) (t core : Nat) : SavedCore :=
  let a := coreCtx .at core
  let f := coreCtx .fx core
  let k := ctxKey .fx f.1 f.2
  { core := s.logical t core, mx := s.mxAt core, attn := s.atCtx a.1 a.2, er := s.coreRegs core,
    fxSeq := tabCut s.fxSeq (k * 2 ^ 32) (2 ^ 32), p2p := tabCut s.p2p (k * 2 ^ 43) (2 ^ 43), pod := tabCut s.pod (k * 16) 16,
    msgs := (s.fabNet.filter (fun e => decide (e.1 = f))).map (·.2) }

/-- Whether save `n` may take up the sections of a slot: the records before it are complete, nothing of it is half written, and
the slot can be saved. -/
def State.saveReady (s : State) (n k : Nat) : Bool :=
  match s.saveAt n with
  | none => false
  | some v =>
    !v.complete && v.miss.isNone && !v.control && v.buf.isEmpty && decide (k ∈ v.pending) && s.savable k &&
      (s.saves.take n).all (fun u => u.complete || !(u.tenant = v.tenant && u.queue = v.queue && u.ctx = v.ctx))

/-- SAVE_SECTIONS_WRITE: the cluster's copy engine writes a saved slot's sections, and with a core's last slot those of the
core (R347); the first of a record writes its header. A save that a page fault had stopped goes on. -/
def execSaveSectionsWrite (n core slot : Nat) (s : State) : Host.Outcome State Fault Refusal :=
  let k := core * 16 + slot
  match s.saveAt n with
  | none => .next s
  | some v =>
    if v.control then .next (s.saveControl n v)
    else if v.miss.isNone ∧ v.buf ≠ [] then .next (s.saveOut n)
    else if s.saveReady n k = false then .next s
    else
      let lg := s.logical v.tenant core
      let rest := v.pending.filter (· ≠ k)
      let s := if (s.slotAt core slot).entered then s else s.setSlot core slot (s.slotAt core slot).enter
      let fibre : SavedFibre := { core := lg, number := slot, slot := s.slotAt core slot, lm := s.dirtyWords core slot }
      let ws := s.slotSections core slot lg
      let last := !rest.any (fun j => decide (j / 16 = core))
      let cs := if last then s.coreSections core lg else []
      let head := if v.written = 0 then headerWords v else []
      let v := { v with
        addr := if v.written = 0 then word (s.recordStart n v) else v.addr
        pending := rest, buf := head ++ ws ++ cs, cluster := core / 16
        taken := tabPut 0 v.taken (core / 16) (tabGet 0 v.taken (core / 16) + 8 * (ws ++ cs).length)
        fibres := v.fibres ++ [fibre], cores := if last then v.cores ++ [s.saveCore v.tenant core] else v.cores }
      .next (((s.setSave n v).saveOut n).countTimed v.tenant 11)

/-- A fibre that has been saved under an eviction leaves its slot: its chain and its place in the launch are kept (R243, R269). -/
def State.leaveSaved (s : State) (k : Nat) : State :=
  let sl := s.slotAt (k / 16) (k % 16)
  s.setSlot (k / 16) (k % 16) { sl.vacated (k % 16) with slice := s.leftSlice (k / 16) (k % 16) }

/-- The last words of a record: length, counters and, last, the complete bit (R346, R347). -/
def State.saveEnds (s : State) (v : Save) : Except Stop State := do
  let s ← s.saveHeader v 16 (word v.written)
  let s ← (List.range 16).foldlM (fun s i => s.saveHeader v (128 + 8 * i) (s.evcGet v.tenant i)) s
  s.saveHeader v 0 (word (2 ^ 63 + v.written % 2 ^ 40))

/-- A saved fibre with the deliveries that have been spilled since its sections were written (R194). -/
def State.withSpill (s : State) (v : Save) (f : SavedFibre) : SavedFibre :=
  { f with slot := { f.slot with spill := (s.slotAt (recBase (s.tenantRec v.tenant) + f.core) f.number).spill } }

/-- A save whose record is complete: under an eviction its fibres leave their slots, and the launch stays in its queue, not retired, until
it is restored (R233, R237, R243); under `cp.save` they go on. -/
def State.saveCompleted (s : State) (n : Nat) (v : Save) : State :=
  let ks := s.fibresOf v.tenant v.queue v.serial
  let s := s.setSave n { v with
    complete := true, fibres := v.fibres.map (s.withSpill v), launch := (s.launchAt v.tenant v.queue v.serial).getD v.launch }
  match v.ctx with
  | some _ => ks.foldl State.resumeSlot s
  | none => ((ks.foldl State.leaveSaved s).updLaunch v.tenant v.queue v.serial (fun l => { l with saved := true })).evictFinish

/-- SAVE_COMPLETE_BIT (R347, R259): a page fault on the header stops the save as one on the body does. -/
def execSaveCompleteBit (n : Nat) (s : State) : Host.Outcome State Fault Refusal :=
  match s.saveAt n with
  | none => .next s
  | some v =>
    if v.complete ∨ v.pending ≠ [] ∨ v.buf ≠ [] ∨ v.miss.isSome ∨ v.control ∨ v.written = 0 then .next s
    else
      match s.saveEnds v with
      | .ok t => .next (t.saveCompleted n v)
      | .error (.miss m) => .next ((s.setSave n { v with miss := some m }).sendMiss 1040 none 0xFF m)
      | .error (.trap c _) => .next (s.saveFails v c)
      | .error _ => .next s

/-! ### Which unit of a copy context may proceed (R20, R66, R338) -/

/-- The LM of a tenant's region, in the one physical numbering. -/
def State.regionLm (s : State) (t : Nat) : List (Nat × Nat) :=
  [(lmBase + recBase (s.tenantRec t) * 524288, recLen (s.tenantRec t) * 524288)]

/-- The restore of a command. -/
def State.restoreOf (s : State) (cl : Nat) (c : Cmd) : Option Restore :=
  s.restores.find? (fun x => decide (x.ctx.1 = cl) && decide (x.ctx.2.2 = c.id) && decide (x.addr = c.a))

/-- The bytes that an outstanding command of a copy context has still to read and to write. A save reads LM and writes its save area; a
restore has read its record as it starts, and writes LM. -/
def State.cpLeft (s : State) (cl : Nat) (c : Cmd) : List (Nat × Nat) × List (Nat × Nat) :=
  let u := TlbUnit.copy cl
  let r := c.regs
  match c.op with
  | 5 =>
    let t := fld c.a 8 7
    let a := recSave (s.tenantRec t) (fld c.a 0 3)
    (s.regionLm t, s.spans s.saver u [(word a.1, a.2)])
  | 6 =>
    match s.restoreOf cl c with
    | some x => (if x.started then [] else s.spans c.who u [(x.addr, x.len)], s.regionLm x.tenant)
    | none => ([], [])
  | _ =>
    (if c.ending.isSome then [] else s.spans c.who u (cpReads r c.pos (cpTotal r - c.pos)),
      s.spans c.who u (cpWrites r c.pos (cpTotal r - c.pos) ++ (if cpStamp r then [(reg r 1, 8)] else [])))

/-- The bytes that the next unit of a command reads and writes, but for its completion word. A stamped word is written with the end. -/
def State.cpUnit (s : State) (cl : Nat) (c : Cmd) : List (Nat × Nat) × List (Nat × Nat) :=
  let u := TlbUnit.copy cl
  let r := c.regs
  if c.op = 5 then (if c.pos = 0 then s.cpLeft cl c else ([], []))
  else if c.op = 6 then (if ((s.restoreOf cl c).map (·.started)) = some false then s.cpLeft cl c else ([], []))
  else if cpKind r = 2 then (if c.pos = 0 then s.cpLeft cl c else ([], []))
  else if cpTotal r ≤ c.pos then ([], s.spans c.who u (if cpStamp r then [(reg r 1, 8)] else []))
  else
    let bits := match s.translate c.who u .write (cpAddr r c.pos).2 with
      | .ok (p, _, _) => p.bits
      | .error _ => 16
    let n := 8 * (cpChunk r (if cpKind r = 3 then 16 else bits) c.pos).length
    let k := if cpStamp r ∧ c.pos = 0 then 8 else 0
    (if c.ending.isSome then [] else s.spans c.who u (cpReads r c.pos n), s.spans c.who u (cpWrites r (c.pos + k) (n - k)))

/-- Whether a command's next unit may proceed beside the earlier commands of its context that are outstanding: it awaits none of them (R338),
and no operation of it touches a byte that an earlier command of its stream has still to write, or writes one that it has still to read
(R66). -/
def State.cpMay (s : State) (cl : Nat) (before : List Cmd) (c : Cmd) : Bool :=
  (c.op ≠ 2 || before.all (fun e => decide (e.id ≠ c.awaits))) &&
    before.all (fun e => !e.oneStream c || (
      let x := s.cpLeft cl e
      let w := x.2 ++ s.spans e.who (.copy cl) (cpWord e.regs)
      let y := s.cpUnit cl c
      apart w y.1 && apart w y.2 && apart x.1 y.2))

/-- Whether a command's completion word may be updated: no earlier command of its stream that is outstanding touches it (R66). -/
def State.cpWordFree (s : State) (cl : Nat) (before : List Cmd) (c : Cmd) : Bool :=
  before.all (fun e => !e.oneStream c || (
    let x := s.cpLeft cl e
    apart (x.1 ++ x.2 ++ s.spans e.who (.copy cl) (cpWord e.regs)) (s.spans c.who (.copy cl) (cpWord c.regs))))

/-- The commands of a context that stand before one and are outstanding. -/
def cpBefore (l : List Cmd) (c : Cmd) : List Cmd := (l.takeWhile (fun e => decide (e.id ≠ c.id) || e.finished)).filter (fun e => !e.finished)

/-- COPY_REGISTER_DELIVERY: the target core accepts the value of the context's first copy to a register; then the bytes and the arrive
(R345). A copy that has ended delivers 0 and VOID (R124). -/
def execCopyRegisterDelivery (cluster ctx : Nat) (s : State) : Host.Outcome State Fault Refusal :=
  match (s.cmdsOf .cp cluster ctx).find? (fun c => !c.finished && decide (c.op = 2) && decide (cpKind c.regs = 2)) with
  | none => .next s
  | some c =>
    if c.miss.isSome ∨ c.pos = 0 ∨ s.cpWordFree cluster (cpBefore (s.cmdsOf .cp cluster ctx) c) c = false then .next s
    else s.cpResult cluster ctx c (do
      let r := c.regs
      let (t, s) := s.placeOf c.who.core c.who.place c.who.rbase c.who.rlen (word (fld (reg r 1) 16 16))
      let void := c.b = 1 ∨ c.ending.isSome
      let (c, s) := match t with
        | none => (c.end 1 0x1A 0, s)
        | some core =>
          let dst : Src := if bit (reg r 1) 5 then .v (BitVec.ofNat 4 (fld (reg r 1) 0 4)) else .g (BitVec.ofNat 5 (fld (reg r 1) 0 5))
          (c, s.deliver c.who.acct.toNat core (fld (reg r 1) 6 3) dst (if void then 0 else c.vec) (if void then .void else .full))
      let (o, s) ← s.cwTake c.who (.copy cluster) (reg r 7) (cpTotal r)
      let s := if c.ending.isSome then s else s.countEv c.who.acct.toNat 7 (cpTotal r)
      s.cpFinish cluster ctx { c with ovr := c.ovr || o })

/-! ### `cp.save`, `cp.restore` -/

/-- Accepts a save or restore command of the copy engine. -/
def State.cpAccept (s : State) (op : Nat) (a : Word) : Except Stop State := do
  let c := s.myCtx .cp
  if Config.cpDepth ≤ s.pending .cp c.1 c.2 then throw (.park (.accept .cp c.1 c.2))
  let id := cpNext (tabGet 0 s.cpSerial (ctxKey .cp c.1 c.2))
  let s := { s with cpSerial := tabPut 0 s.cpSerial (ctxKey .cp c.1 c.2) id }
  pure (s.accept .cp c (Cmd.start op s.who a 0 [] id s.time.toNat))

/-- `cp.save gA` (R347): mode H only. -/
def execCpSave (a : BitVec 5) (s : State) : Host.Outcome State Fault Refusal :=
  run s do
    s.needH (.cpSave a)
    let sl ← s.me.gate [.g a]
    let v := sl.gv a
    if fld v 3 5 ≠ 0 ∨ fld v 15 49 ≠ 0 then throw (.trap 0x02 v)
    let s ← s.cpAccept 5 v
    pure (s.setMe sl.advance)

/-- Whether every section header of a record is good (R348): kinds 1 to 6, logical cores of the region. -/
def State.sectionsOk (s : State) (a : Word) (len rlen : Nat) : Nat → Nat → Except Stop (Bool × State)
  | 0, _ => pure (true, s)
  | fuel + 1, off =>
    if len ≤ off then pure (true, s)
    else do
      let (h, s) ← s.threadRead (a + word off) 8
      let (n, s) ← s.threadRead (a + word (off + 8)) 8
      if h % 65536 = 0 ∨ 6 < h % 65536 ∨ rlen ≤ h / 65536 % 65536 then pure (false, s)
      else s.sectionsOk a len rlen fuel (off + 16 + n)

/-- A command that reads and writes `n` bytes of a record as it is accepted waits for the outstanding copies of its stream that touch them
(R66). -/
def State.recordFree (s : State) (va : Word) (n : Nat) : Except Stop Unit :=
  let c := s.myCtx .cp
  let w := s.who
  let l := s.streamOf .cp c.1 c.2 w.core w.slot
  let x := s.spans w (.copy c.1) [(va, n)]
  if l.all (fun e => apart ((s.cpLeft c.1 e).2 ++ s.spans e.who (.copy c.1) (cpWord e.regs)) x && apart (s.cpLeft c.1 e).1 x) then pure ()
  else throw (.park (.stream .cp c.1 c.2 l.length))

/-- The launch of a record whose launch this package does not know: the record holds its serial number and its fibres, and nothing else of it.
Every other fibre counts as gone, and the address of its completion word is a free value (DESIGN CHOICE, log entry 19). -/
def State.foreignLaunch (s : State) (t serial fibres : Nat) (cword : Word) : Launch :=
  let v := s.tenantRec t
  { serial := serial, x := fibres, y := 1, z := 1, slots := 7, lmbytes := 0, entry := 0, args := 0, expect := 0, budget := 0, fsr0 := 0
    fsr1 := 0, cword := cword, overlap := false, frame := false, base := recBase v, len := recLen v, who := s.who, fp := 0, fsl := 15
    tvec := 0, lmva := 0, miss := none, next := fibres, retired := 0, faulted := 0, left := 0, first := some s.time.toNat, saved := false
    gone := none, fate := .runs }

/-- `cp.restore gA` (R348): the header and the section headers are read and checked for the issuer before the command is accepted. What the
spec gives no place in a record is kept beside it, by tenant, queue and serial number (log entry 19). -/
def execCpRestore (a : BitVec 5) (s : State) : Host.Outcome State Fault Refusal :=
  run s do
    s.needS (.cpRestore a)
    let sl ← s.me.gate [.g a]
    let va := sl.gv a
    if va.toNat % 256 ≠ 0 then throw (.trap 0x05 va)
    s.recordFree va 256
    let (h0, s) ← s.threadRead va 8
    let (h1, s) ← s.threadRead (va + 8) 8
    let (h2, s) ← s.threadRead (va + 16) 8
    let (h3, s) ← s.threadRead (va + 24) 8
    let t := h1 / 2 ^ 40 % 256
    let q := h1 / 2 ^ 32 % 256
    let bad : Stop := .trap 0x60 va
    if h0 < 2 ^ 63 ∨ h1 % 65536 ≠ 1 ∨ (s.me.mode ≠ 3 ∧ t ≠ s.me.tenant.toNat) ∨ 7 < q then throw bad
    if s.tenantOk t = false ∨ recQueue (s.tenantRec t) q = false then throw bad
    s.recordFree va h2
    let (ok, s) ← s.sectionsOk va h2 (recLen (s.tenantRec t)) (h2 / 16 + 1) 256
    if ok = false then throw bad
    let c := s.myCtx .cp
    let s ← s.cpAccept 6 va
    let s ← s.threadWrite va 8 (h0 - 2 ^ 63)
    let n := h3 % 2 ^ 32
    let kept := s.saves.find? (fun v => decide (v.tenant = t) && decide (v.queue = q) && decide (v.serial = n) && v.complete)
    let d := s.draw
    let (s, l) : State × Launch := match kept with
      | some v => (s, v.launch)
      | none => (d.2, s.foreignLaunch t n (h3 / 2 ^ 32) d.1)
    let r : Restore :=
      { tenant := t, queue := q, launch := l, todo := (kept.map (·.fibres)).getD [], cores := (kept.map (·.cores)).getD [], addr := va, len := h2
        started := false, ctx := (c.1, c.2, tabGet 0 s.cpSerial (ctxKey .cp c.1 c.2)) }
    let rest := s.saves.filter (fun u => !(u.tenant = t && u.queue = q && u.serial = n && u.complete))
    let s : State := { s with saves := rest, restores := s.restores ++ [r] }
    pure (s.setMe sl.advance)

/-! ### Reading a record back (R346, R348) -/

/-- A section as it is read back. -/
structure Section where
  kind : Nat
  core : Nat
  slot : Nat
  body : List Word
  deriving DecidableEq, Repr

/-- Reads the sections of a record, from offset `off` on. -/
def State.readSections (s : State) (w : Who) (u : TlbUnit) (a : Word) (len : Nat) : Nat → Nat → Except Stop (List Section × State)
  | 0, _ => pure ([], s)
  | fuel + 1, off =>
    if len ≤ off then pure ([], s)
    else do
      let (h, s) ← s.engRead w u (a + word off) 8
      let (n, s) ← s.engRead w u (a + word (off + 8)) 8
      let (b, s) ← s.engReadWords w u (a + word (off + 16)) (min n (len - off - 16) / 8)
      let (l, s) ← s.readSections w u a len fuel (off + 16 + n)
      pure ({ kind := h % 65536, core := h / 65536 % 65536, slot := h / 2 ^ 32 % 256, body := b } :: l, s)

/-- The presence that a packed code stands for (R109, R124); 3 is no code and reads as FULL (log entry 19). -/
def presOfCode (n : Nat) : Presence := match n with | 0 => .empty | 2 => .void | _ => .full

/-- `n` packed presence codes. -/
def unpackPres (l : List Word) (n : Nat) : List Presence := (List.range n).map (fun i => presOfCode (fld (l.getD (i / 32) 0) (2 * (i % 32)) 2))

/-- The words of an LM run by offset in LM, with their presence. -/
def runWords (b : List Word) : List (Nat × Word × Presence) :=
  let n := (b.length - 1) * 32 / 33
  let p := unpackPres (b.drop (1 + n)) n
  (List.range n).map (fun i => ((b.headD 0).toNat + 8 * i, b.getD (1 + i) 0, p.getD i .full))

/-- A slot with the registers and CSRs of a section of kind 1; the counters and TIME are no state of the slot (R348). -/
def slotOf (old : Slot) (b : List Word) : Slot :=
  let p := unpackPres (b.drop 294) 56
  let w (i : Nat) : Word := b.getD i 0
  let pr (i : Nat) : Presence := p.getD i .full
  let sl := { old with pc := w 0, g := [], v := [], k := [] }
  let sl := (List.range 32).foldl (fun sl i => sl.setG (BitVec.ofNat 5 i) (w (2 + i)) (pr i)) sl
  let sl := (List.range 16).foldl (fun sl i => sl.setVr (BitVec.ofNat 4 i)
    ((List.range 16).foldr (fun j (a : VWord) => (a <<< 64) ||| (w (34 + 16 * i + j)).setWidth 1024) 0) (pr (32 + i))) sl
  let sl := (List.range 8).foldl (fun sl i => sl.setK (BitVec.ofNat 3 i) ((w (290 + i / 2)).extractLsb' (32 * (i % 2)) 32) (pr (48 + i))) sl
  ((savedCsrs.zip (b.drop 296)).filter (fun e => decide (e.1 ≠ 0x030) && decide (e.1 ≠ 0x034) && decide (e.1 ≠ 0x060) &&
    !(decide (0x040 ≤ e.1) && decide (e.1 ≤ 0x04F)))).foldl (fun sl e => sl.setCsr e.1 e.2) sl

/-- The bytes from the first to the last of some LM words. -/
def lmHull (l : List (Nat × Word × Presence)) : Nat × Nat :=
  match l with
  | [] => (0, 0)
  | x :: t => let lo := t.foldl (fun a e => min a e.1) x.1; (lo, t.foldl (fun a e => max a e.1) x.1 + 8 - lo)

/-- The `i`-th fibre of a record: its registers and LM words as the record has them, over what was kept of it. Of one that was not kept, the
thread issues at its pc, and its LM slice is where its words lie (DESIGN CHOICE, log entry 19). -/
def fibreOf (r : Restore) (l : List Section) (i : Nat) (x : Section) : SavedFibre :=
  let lm := ((l.filter (fun y => decide (y.kind = 2) && decide (y.core = x.core) && decide (y.slot = x.slot))).map (fun y => runWords y.body)).flatten
  match r.todo.find? (fun f => decide (f.core = x.core) && decide (f.number = x.slot)) with
  | some f => { f with slot := slotOf f.slot.interrupted x.body, lm := lm }
  | none =>
    { core := x.core, number := x.slot, lm := lm
      slot := slotOf { Slot.empty with state := .ready, occupant := .fibre r.tenant r.queue r.launch.serial i, slice := lmHull lm } x.body }

/-- A core's sections as a record has them: the engine registers from its section of kind 6, over what was kept. The layout of kinds 3 to 5 is
not stated, so their content is what was kept (log entry 19). -/
def coreOf (r : Restore) (l : List Section) (core : Nat) : SavedCore :=
  let old := (r.cores.find? (fun c => decide (c.core = core))).getD
    { core := core, mx := .empty, attn := .empty, er := [], fxSeq := [], p2p := [], pod := [], msgs := [] }
  match l.find? (fun x => decide (x.kind = 6) && decide (x.core = core)) with
  | none => old
  | some x =>
    let n := coreErs.length
    let p := unpackPres (x.body.drop n) n
    { old with er := (List.range n).map (fun i => (i, (x.body.getD i 0, p.getD i .full))) }

/-- A restore once its record has been read: what is to be bound and written back. -/
def Restore.read (r : Restore) (l : List Section) : Restore :=
  { r with
    todo := (l.filter (fun x => decide (x.kind = 1))).mapIdx (fibreOf r l)
    cores := ((l.map (·.core)).eraseDups).map (coreOf r l)
    started := true }

/-- Writes the sections of a saved core back (R348). A held step is its fibre's: `number + 100` marks the saved slot number
until that fibre is bound. -/
def State.writeCore (s : State) (core : Nat) (x : SavedCore) : State :=
  let a := coreCtx .at core
  let f := coreCtx .fx core
  let k := ctxKey .fx f.1 f.2
  let s := s.setMx core { x.mx with held := x.mx.held.map (fun st => { st with who := { st.who with core := core, slot := st.who.slot + 100 } }) }
  let s := x.er.foldl (fun (s : State) e =>
    match coreErs[e.1]? with
    | some r => let c := coreEr core r; s.setEr c.1 c.2.1 c.2.2.1 c.2.2.2 e.2.1 e.2.2
    | none => s) (s.setAt a.1 a.2 x.attn)
  { s with
    fxSeq := x.fxSeq.foldl (fun l e => tabPut 0 l (k * 2 ^ 32 + e.1) e.2) s.fxSeq
    p2p := x.p2p.foldl (fun l e => tabPut 0 l (k * 2 ^ 43 + e.1) e.2) s.p2p
    pod := x.pod.foldl (fun l e => tabPut (false, 0) l (k * 16 + e.1) e.2) s.pod
    fabNet := s.fabNet ++ x.msgs.map (fun m => (f, m)) }

/-- The held step of a core passes to the slot its fibre is bound to. -/
def State.claimHeld (s : State) (core number slot : Nat) : State :=
  let x := s.mxAt core
  match x.held with
  | some st => if st.who.slot = number + 100 then s.setMx core { x with held := some { st with who := { st.who with slot := slot } } } else s
  | none => s

/-- Whether an LM range of a core is free. -/
def State.lmFree (s : State) (core : Nat) (sl : Nat × Nat) : Bool :=
  (s.slices core).all (fun u => decide (sl.1 + sl.2 ≤ u.1) || decide (u.1 + u.2 ≤ sl.1))

/-- Where a saved fibre may be bound: a FREE general slot of its core, with its own LM slice free. -/
def State.restorePlace (s : State) (r : Restore) (f : SavedFibre) : Option (Nat × Nat) :=
  let core := recBase (s.tenantRec r.tenant) + f.core
  if s.lmFree core f.slot.slice then (s.freeSlot r.tenant core).map (fun i => (core, i)) else none

/-- The slot of a restored fibre: its own state over what the install left in the slot. One that waits at a barrier keeps waiting at the
instance where it arrived, wherever the tenant's region lies by now: the record holds no barrier (DESIGN CHOICE, log entry 61). -/
def restoredSlot (old : Slot) (f : SavedFibre) (t slot gen : Nat) : Slot :=
  let keep := (old.csr.filter (fun e => decide (0x080 ≤ e.1)))
  let csr := (f.slot.interrupted.csr.filter (fun e => decide (e.1 < 0x080))) ++ keep
  let sl := { f.slot.interrupted with csr := csr, gen := gen, preempted := true, lastIssue := old.lastIssue, owner := old.owner }
  (((sl.setCsr 0x000 (mkStatus t slot sl.inh sl.pmode sl.mode)).setCsr 0x00A (word slot))).goesOn

/-- Binds one saved fibre and writes its sections back (R348); its queue has bound a fibre, and waits no more (R232). -/
def State.bindRestored (s : State) (n : Nat) (r : Restore) (f : SavedFibre) (core slot : Nat) : State :=
  let s := (r.cores.filter (fun x => decide (x.core = f.core))).foldl (fun s x => s.writeCore core x) s
  let s := f.lm.foldl (fun (s : State) e => s.pokeWord (lmBase + core * 524288 + e.1) e.2.1 e.2.2) s
  let s := s.setSlot core slot (restoredSlot (s.slotAt core slot) f r.tenant slot (s.tenantAt r.tenant).gen.toNat)
  let s := s.claimHeld core f.number slot
  let s := s.setQueue r.tenant r.queue { s.queueAt r.tenant r.queue with bound := some s.time.toNat, since := none, boost := 0 }
  { s with restores := s.restores.set n { r with todo := r.todo.filter (· ≠ f), cores := r.cores.filter (fun x => decide (x.core ≠ f.core)) } }

/-- The first fibre of a restore that finds a place. -/
def State.restoreNext (s : State) (r : Restore) : Option (SavedFibre × Nat × Nat) :=
  r.todo.findSome? (fun f => (s.restorePlace r f).map (fun p => (f, p)))

/-- Whether an eviction holds the fibres of a restore as it holds a launch's (R239, R242–R244): a launch that has been saved again, or is no
more, binds none. -/
def State.restoreHeld (s : State) (r : Restore) : Bool :=
  match s.launchAt r.tenant r.queue r.launch.serial with
  | none => true
  | some l => l.saved || decide (l.fate ≠ .runs) || s.launchHeld r.tenant r.queue l

/-- RESTORE_BIND: binds a fibre of restore `n` that finds a FREE slot (R348). -/
def execRestoreBind (n : Nat) (s : State) : Host.Outcome State Fault Refusal :=
  match s.restores[n]? with
  | none => .next s
  | some r =>
    if r.started = false ∨ s.restoreHeld r then .next s
    else match s.restoreNext r with
      | none => .next s
      | some (f, core, slot) => .next ((s.bindRestored n r f core slot).countTimed r.tenant 11)

/-! ### COPY_PAGE -/

/-- A save command: it begins its records, and completes once they are complete or have failed. -/
def State.saveUnit (s : State) (cl ctx : Nat) (c : Cmd) : State :=
  let key := some (cl, ctx, c.id)
  if c.ending.isSome then (s.dropSaves (fun v => decide (v.ctx = key))).finishCp cl ctx c
  else if c.pos = 0 then (s.startSave (fld c.a 8 7) (fld c.a 0 3) key).setCp cl ctx { c with pos := 1 }
  else if s.saves.any (fun v => !v.complete && decide (v.ctx = key)) then s
  else s.finishCp cl ctx c

/-- A restored launch stands at the head of its queue and keeps its in-queue order (R233, R348): one that has waited in its queue since its
save keeps its place; as its record has it, it stands before every launch but older ones that have begun. -/
def State.restoreLaunch (s : State) (r : Restore) : State :=
  let x := s.queueAt r.tenant r.queue
  let n := r.launch.serial
  let older (l : Launch) : Bool := l.first.isSome && serialBefore l.serial n
  let ls := if x.launches.any (fun l => decide (l.serial = n)) then x.launches.map (fun l => if l.serial = n then { l with saved := false } else l)
    else x.launches.takeWhile older ++ { r.launch with saved := false } :: x.launches.dropWhile older
  s.setQueue r.tenant r.queue { x with launches := ls }

/-- A restore that is cancelled or discarded: the fibres it has not bound leave the launch and its barriers with it (DESIGN CHOICE, log entry
19). -/
def State.restoreEnds (s : State) (r : Restore) : State :=
  let s := if r.started then s else s.restoreLaunch r
  let s := ({ s with restores := s.restores.filter (· ≠ r) } : State).barGone r.todo
  (s.updLaunch r.tenant r.queue r.launch.serial (fun l => { l with left := l.left + r.todo.length })).retire r.tenant r.queue r.launch.serial

/-- A restore command: its record is read, its launch goes to the head of its queue, and it completes once every fibre is bound. A record that
cannot be read ends it under R340. -/
def State.restoreUnit (s : State) (cl ctx : Nat) (c : Cmd) : Host.Outcome State Fault Refusal :=
  match s.restores.find? (fun r => decide (r.ctx = (cl, ctx, c.id))) with
  | none => .next (s.finishCp cl ctx c)
  | some r =>
    if c.ending.isSome then .next ((s.restoreEnds r).finishCp cl ctx c)
    else if r.started = false then
      s.cpResult cl ctx c (do
        let (l, s) ← s.readSections c.who (.copy cl) r.addr r.len (r.len / 16 + 1) 256
        let s := s.restoreLaunch r
        pure { s with restores := s.restores.map (fun u => if u = r then r.read l else u) })
    else if r.todo = [] then .next (({ s with restores := s.restores.filter (· ≠ r) } : State).finishCp cl ctx c)
    else .next s

/-- One unit of a command. -/
def State.cpStep (s : State) (cl ctx : Nat) (before : List Cmd) (c : Cmd) : Host.Outcome State Fault Refusal :=
  if c.miss.isSome ∨ s.cpMay cl before c = false then .next s
  else match c.op with
    | 5 => .next (s.saveUnit cl ctx c)
    | 6 => s.restoreUnit cl ctx c
    | _ => s.copyOne cl ctx (s.cpWordFree cl before c) c

/-- One unit of the first command that can go on. -/
def State.copyUnits (s : State) (cl ctx : Nat) (before : List Cmd) : List Cmd → Host.Outcome State Fault Refusal
  | [] => .next s
  | c :: t =>
    match s.cpStep cl ctx before c with
    | .next u => if u = s then s.copyUnits cl ctx (before ++ [c]) t else .next u
    | r => r

/-- COPY_PAGE: the next unit of a copy context's commands (R338, R339, R347, R348). -/
def execCopyPage (cluster ctx : Nat) (s : State) : Host.Outcome State Fault Refusal :=
  s.copyUnits cluster ctx [] ((s.cmdsOf .cp cluster ctx).filter (fun c => !c.finished))

end Sys2Proof.Machine
end

