-- ==== Sys2Proof/Machine/Evict.lean ====
section
/-! DEFINITION. Evictions (R239–R247), cleaning (R245, R255), and how a tenant is enabled and installed (R213, R248, R251, R252). -/

namespace Sys2Proof.Machine

/-! ### Installing -/

/-- The tenant's own accesses: its supervisor, through the roots of its install. -/
def State.tenantWho (s : State) (t : Nat) : Who :=
  let r := (s.tenantAt t).roots
  { Slot.empty.who 0 0 with
    mode := 1, tenant := BitVec.ofNat 8 t, acct := BitVec.ofNat 8 t, s1 := r.s1root &&& csrMask 0x080, s2 := r.s2root &&& csrMask 0x104 }

/-- The supervisor block of a tenant (R250). -/
def State.superBlock (s : State) (t : Nat) : Except Stop (Nat × State) := do
  let (l, s) ← s.ctxWords (s.tenantWho t) .data (recBlock (s.tenantRec t)) 16
  pure (wordsNat l, s)

/-- PLACE of an installed slot (R253). -/
def installPlace (x : Tenant) (v : Nat) : Word := word (x.roots.placeBase / 16 * 16 % 2 ^ 52 + recLen v * 2 ^ 53)

/-- RBASE, RLEN and PLACE, which an install writes in every slot (R251). -/
def regionCsrs (x : Tenant) (v : Nat) (l : List (Nat × Word)) : List (Nat × Word) :=
  [(0x110, installPlace x v), (0x111, word (recBase v)), (0x112, word (recLen v))].foldl (fun l e => tabPut 0 l e.1 e.2) l

/-- The CSRs that an install writes in a slot that holds no thread: those of R251, the roots (R27) and the handler. -/
def installCsrs (x : Tenant) (v : Nat) (l : List (Nat × Word)) : List (Nat × Word) :=
  [(0x080, x.roots.s1root &&& csrMask 0x080), (0x101, x.roots.htvec), (0x104, x.roots.s2root &&& csrMask 0x104)].foldl
    (fun l e => tabPut 0 l e.1 e.2) (regionCsrs x v l)

/-- A slot cleaned: registers and CSRs below 0x080 are 0 and FULL (R255). Its last issue stays (R118). -/
def Slot.cleaned (sl : Slot) : Slot := { Slot.empty with csr := sl.csr.filter (fun e => decide (0x080 ≤ e.1)), lastIssue := sl.lastIssue }

/-- Writes STATUS.tenant (R131). -/
def Slot.setTenant (sl : Slot) (t : Nat) : Slot := sl.setCsr 0 ((sl.status &&& ~~~(0xFF0000 : Word)) ||| word (t % 256 * 65536))

/-- Installs a slot for a tenant (R251): a thread that it holds keeps its state. Wakes for an older generation reach it no more (R260). -/
def State.installSlot (s : State) (t core slot : Nat) : State :=
  let x := s.tenantAt t
  let v := s.tenantRec t
  let old := s.slotAt core slot
  let sl : Slot :=
    if old.state = .free then { old.cleaned with csr := tabPut 0 (installCsrs x v old.cleaned.csr) 0 (mkStatus t slot false 0 0), gen := x.gen.toNat, owner := some t }
    else { old with csr := regionCsrs x v old.csr, gen := x.gen.toNat, owner := some t }.setTenant t
  ((s.dropPlaces core).setSlot core slot sl).loadPlace core (installPlace x v)

/-- REGION of a core's `ln` context (R226, R251). -/
def State.installRegion (s : State) (t core slot : Nat) : State :=
  let v := s.tenantRec t
  let c := engCtx .ln core slot 0
  s.setEr .ln c.1 c.2 0 (word (recBase v + recLen v * 2 ^ 32)) .full

/-- A transform thread as it is bound in an installed slot 7 (R213); TVEC is the supervisor block's entry for queue 0 (log entry 20). R250
limits the transform and the resident entry to multiples of 4 and gives no consequence: here another one becomes the pc as it stands, and the
fetch raises 0x05 (DESIGN CHOICE, log entry 63). -/
def Slot.transform (sl : Slot) (core b : Nat) : Slot :=
  let sl := ((sl.setCsr 0x004 (align4 (word (bytesAt b 0 8)))).setCsr 0x00A 7).setCsr 0x00B (word core - sl.csrv 0x111)
  { sl with state := .ready, occupant := .transform, pc := word (bytesAt b 64 8), entry := word (bytesAt b 64 8) }.setG 28 (word (bytesAt b 96 8)) .full

/-- A resident fibre as it is bound in an installed slot (R252). -/
def Slot.resident (sl : Slot) (t slot b : Nat) (block : Word) : Slot :=
  let sl := (((sl.setCsr 0x000 (mkStatus t slot false 1 1)).setCsr 0x004 (align4 (word (bytesAt b 0 8)))).setCsr 0x022 15).setCsr 0x00A (word slot)
  { sl with state := .ready, occupant := .resident, pc := word (bytesAt b 88 8) }.setG 1 block .full

/-- Takes a thread out of the bindings that wait. -/
def State.boundNow (s : State) (t key : Nat) : State :=
  let x := s.tenantAt t
  s.setTenant t { x with unbound := x.unbound.filter (fun e => decide (e.1 ≠ key)) }

/-- Binds the transform or resident thread of an installed slot, once the supervisor block can be read: a miss goes to the pager, what holds
the read is waited for, and a block that cannot be read leaves the thread unbound (R35, R213, R252). -/
def State.bindThread (s : State) (t core slot : Nat) : State :=
  let key := core * 16 + slot
  match s.superBlock t with
  | .ok (b, s) =>
    let sl := s.slotAt core slot
    (s.setSlot core slot (if core < 1024 then sl.transform core b else sl.resident t slot b (recBlock (s.tenantRec t)))).boundNow t key
  | .error (.miss m) =>
    let s := s.boundNow t key
    let x := s.tenantAt t
    (s.setTenant t { x with unbound := x.unbound ++ [(key, some m)] }).sendMiss core (some slot) t m
  | .error (.trap _ _) => s.boundNow t key
  | .error _ =>
    let s := s.boundNow t key
    let x := s.tenantAt t
    s.setTenant t { x with unbound := x.unbound ++ [(key, none)] }

/-- The bindings of a tenant that wait, and for whose block no miss is outstanding, are tried again. -/
def State.bindHeld (s : State) (t : Nat) : State :=
  ((s.tenantAt t).unbound.filter (fun e => e.2.isNone)).foldl (fun s e => s.bindThread t (e.1 / 16) (e.1 % 16)) s

/-- The contexts of a core or control slot in an engine: a control slot has one in each copy engine of its die, and any thread one in each
frame engine (R16, R18). -/
def slotCtxs (k : EngKind) (core slot : Nat) : List (Nat × Nat) :=
  match k with
  | .cp => if 1024 ≤ core ∧ core < 1040 then (List.range 16).map (engCtx .cp core slot) else [engCtx .cp core slot 0]
  | .fr => (List.range 4).map (fun d => (d, (engCtx .fr core slot 0).2))
  | _ => [engCtx k core slot 0]

/-- Clears the engine registers and serials of the contexts of a core or control slot (R252, R255, R338). -/
def State.clearContexts (s : State) (core slot : Nat) : State :=
  let keys := (engKinds.map (fun k => (slotCtxs k core slot).map (fun c => ctxKey k c.1 c.2))).flatten
  let s := { s with
    er := s.er.filter (fun e => decide (e.1 / 64 ∉ keys))
    cpSerial := s.cpSerial.filter (fun e => decide (e.1 ∉ keys)) }
  let f := engCtx .fx core slot 0
  let k := ctxKey .fx f.1 f.2
  { s with
    fxSeq := s.fxSeq.filter (fun e => decide (e.1 / 2 ^ 32 ≠ k))
    p2p := s.p2p.filter (fun e => decide (e.1 / 2 ^ 43 ≠ k))
    pod := s.pod.filter (fun e => decide (e.1 / 16 ≠ k))
    fabNet := s.fabNet.filter (fun e => decide (e.1 ≠ f))
    fabNotices := s.fabNotices.filter (fun e => decide (e.1 ≠ f)) }

/-- Unbinds a resident fibre, or gives up its binding, and clears its slot and contexts (R252); the cleaning is charged to its tenant (R256;
log entry 3). -/
def State.unbindResident (s : State) (t : Nat) : State :=
  let x := s.tenantAt t
  let s := s.setTenant t { x with unbound := x.unbound.filter (fun e => decide (e.1 / 16 < 1024)) }
  s.slots.foldl (fun s e =>
    if e.2.occupant = .resident ∧ e.2.owner = some t then
      let s := (s.leaveSlot (e.1 / 16) (e.1 % 16) .dropped).clearContexts (e.1 / 16) (e.1 % 16)
      (s.setSlot (e.1 / 16) (e.1 % 16) (s.slotAt (e.1 / 16) (e.1 % 16)).cleaned).countTimed t 10
    else s) s

/-- Whether a record names a slot that another tenant's resident fibre holds: its tenant is not installed (R252). -/
def State.residentTaken (s : State) (t : Nat) : Bool :=
  let v := s.tenantRec t
  let old := s.slotAt (recResident v).1 (recResident v).2
  recRes v && decide (old.occupant = .resident) && decide (old.owner ≠ some t)

/-- Binds the resident fibre of a tenant whose record sets RES (R252). -/
def State.bindResident (s : State) (t : Nat) : State :=
  let v := s.tenantRec t
  let (core, slot) := recResident v
  if recRes v = false ∨ (s.slotAt core slot).state ≠ .free then s
  else (((s.clearContexts core slot).installSlot t core slot).installRegion t core slot).bindThread t core slot

/-- The identity place table of a region (R253). -/
def State.identityTable (s : State) (t : Nat) : State :=
  let v := s.tenantRec t
  let a := (s.tenantAt t).roots.placeBase / 16 * 16
  (List.range (recLen v)).foldl (fun s i => s.poke (a + 2 * i) 2 (32768 + recBase v + i)) s

/-- Whether an install may write a slot: one under an eviction has been cleaned for this tenant (R251). -/
def State.mayInstall (s : State) (t core slot : Nat) : Bool :=
  match s.evictOver core with
  | none => true
  | some e => decide (e.incoming = some t) && decide (core * 16 + slot ∈ e.cleaned)

/-- Installs slot 7 of a core, and binds its transform thread unless it holds one (R213, R251). -/
def State.installTransform (s : State) (t core : Nat) : State :=
  let free := decide ((s.slotAt core 7).state = .free)
  let s := s.installSlot t core 7
  if free then s.bindThread t core 7 else s

/-- The hypervisor assigns a VF to a new tenant: its reset generation rises (R260). The rule does not say whether a tenant that is installed
again after its switch-out counts as new: here every install of a VF that is not installed raises it (DESIGN CHOICE, log entry 63). -/
def State.assigned (s : State) (t : Nat) : State :=
  let x := s.tenantAt t
  if x.installed then s else s.setTenant t { x with gen := x.gen + 1 }

/-- TENANT_INSTALL (R251): the identity table, every slot of the region that may be written, REGION, the transform threads, and the resident
fibre; the roots of the weight sets loaded with it enter the attestation log (R47, R392). R112 has a root enter as its set is loaded, before the
first copy, and leaves open by which operation: here the roots come with the install (DESIGN CHOICE, log entry 63). -/
def execTenantInstall (tenant : Nat) (r : InstallRoots) (s : State) : Host.Outcome State Fault Refusal :=
  if 128 ≤ tenant then .fault .noSuchUnit
  else
    let v := s.tenantRec tenant
    if recOk v = false ∨ (s.tenantAt tenant).enabled = false then .next s
    else if s.residentTaken tenant then .next (s.setTenant tenant { s.tenantAt tenant with refused := true })
    else
      let s := (s.assigned tenant).setTenant tenant { (s.assigned tenant).tenantAt tenant with roots := r, installed := true, refused := false }
      let s := { s with attest := s.attest ++ r.weightRoots }
      let s := (List.range (recLen v)).foldl (fun s i =>
        let core := recBase v + i
        let s := (List.range 7).foldl (fun s n => if s.mayInstall tenant core n then s.installSlot tenant core n else s) s
        let s := s.installRegion tenant core 0
        if s.mayInstall tenant core 7 then s.installTransform tenant core else s) (s.identityTable tenant)
      .next (s.bindResident tenant)

/-- VF_ENABLE: the tenant may exist from boot step 6 on (R248, R388); one enabled anew has still to be installed. With a host whose mailbox ABI
has no major in common, the attach is refused (R390). -/
def execVfEnable (tenant : Nat) (a : VfAttach) (s : State) : Host.Outcome State Fault Refusal :=
  if 128 ≤ tenant then .fault .noSuchUnit
  else if s.boot % 256 < 6 ∨ a.abiMajor ≠ 1 then .next s
  else
    let x := s.tenantAt tenant
    .next (s.setTenant tenant { x with enabled := true, mailbox := a.mailbox, installed := x.enabled && x.installed })

/-! ### Posting and evaluation -/

/-- The queues with fibres bound in an interval (R240): (tenant, queue), each once. -/
def State.affected (s : State) (base len : Nat) : List (Nat × Nat) :=
  (s.slots.filterMap (fun e => match e.2.occupant with
    | .fibre t q _ _ => if base ≤ e.1 / 16 ∧ e.1 / 16 < base + len then some (t, q) else none
    | _ => none)).eraseDups

/-- EVICTION_POSTING (R239): refused within 12,000 ns of its deadline, or over another eviction's interval. -/
def execEvictionPosting (base len : Nat) (deadline : Word) (incoming : Option Nat) (s : State) : Host.Outcome State Fault Refusal :=
  if 1024 < base + len ∨ len = 0 then .fault .noSuchUnit
  else if deadline.toNat < s.time.toNat + 12000 ∨ s.evicts.any (fun e => !e.done && decide (base < e.base + e.len) && decide (e.base < base + len)) then
    .next s
  else
    let e : Evict :=
      { base := base, len := len, deadline := deadline.toNat, posted := s.time.toNat, incoming := incoming,
        queues := (s.affected base len).map (fun q => (q.1, q.2, .rtc)), evals := 0, cleaned := [], done := false }
    .next { s with evicts := s.evicts ++ [e] }

/-- Timeout of a PCIe request in ns (R190, R387). -/
def State.pcieTimeout (s : State) : Nat := match s.config with | some c => c.pcieTimeoutUs * 1000 | none => Config.pcieTimeoutNs

/-- H of R240: what is left until the timeout of the latest outstanding HOST load or atomic of a queue's fibres. -/
def State.hostWait (s : State) (t q : Nat) : Nat :=
  (s.slots.map (fun e => match e.2.occupant, e.2.wait with
    | .fibre t' q' _ _, .fetch p i => if isFar p = false ∧ t' = t ∧ q' = q ∧ e.2.state = .parked then i + s.pcieTimeout - s.time.toNat else 0
    | .fibre t' q' _ _, .host _ _ _ i => if t' = t ∧ q' = q ∧ e.2.state = .parked then i + s.pcieTimeout - s.time.toNat else 0
    | _, _ => 0)).foldl max 0

/-- T_rtc of a launch in ns as a fraction (R240); none is infinite. -/
def State.timeToFinish (s : State) (t q : Nat) (l : Launch) : Option (Nat × Nat) :=
  if l.left ≠ 0 then some ((s.time.toNat - l.first.getD 0) * (l.total - l.left), l.left)
  else
    let most := ((s.fibresOf t q l.serial).map (fun k => l.expect.toNat - ((s.slotAt (k / 16) (k % 16)).csrv 0x032).toNat)).foldl max 0
    if l.expect = 0 ∨ most = 0 then none else let n := (s.fibresOf t q l.serial).length; some (80 * most * ((l.total + n - 1) / n), 33)

/-- Rule 1 of R241: every running launch can finish by the deadline. -/
def State.canFinish (s : State) (t q deadline : Nat) : Bool :=
  (s.running t q).all (fun l => match s.timeToFinish t q l with
    | none => false
    | some (n, d) => decide ((s.time.toNat + 2000) * 4 * d + 5 * n ≤ deadline * 4 * d))

/-- Rule 2 of R241: the queue can be saved by the deadline, and its save area holds the records. -/
def State.canSave (s : State) (t q deadline : Nat) : Bool :=
  decide (s.time.toNat * 500 + 11 * s.dirtyMax t q + 550 * (s.hostWait t q + 5000) + 1000000 ≤ deadline * 500) &&
    decide (s.saveNeeds t q ≤ (recSave (s.tenantRec t) q).2)

/-- One evaluation of an affected queue (R241). -/
def State.evaluate (s : State) (deadline : Nat) (x : Nat × Nat × EvState) : State :=
  let (t, q, st) := x
  if st = .finished ∨ st = .discard then s
  else if st = .rtc ∧ s.canFinish t q deadline then s
  else if s.canSave t q deadline then (if st = .rtc then (s.evictSet t q .ckpt).startSave t q none else s)
  else s.discardQueue t q

/-- EVICTION_EVALUATION: every affected queue of eviction `n` that has not finished is judged (R241); its cycles are charged with those of
cleaning (R256; log entry 3). -/
def execEvictionEvaluation (n : Nat) (s : State) : Host.Outcome State Fault Refusal :=
  let s := s.evictFinish
  match s.evicts[n]? with
  | none => .next s
  | some e =>
    if e.done then .next s
    else
      let s : State := { s with evicts := s.evicts.set n { e with evals := e.evals + 1 } }
      .next (e.queues.foldl (fun s x => (s.evaluate e.deadline x).countTimed x.1 10) s).evictFinish

/-- FORCED_INSTANT: every affected queue that has not finished is discarded (R242). -/
def execForcedInstant (n : Nat) (s : State) : Host.Outcome State Fault Refusal :=
  match s.evicts[n]? with
  | none => .next s
  | some e =>
    if e.done then .next s
    else .next (e.queues.foldl (fun s x => if x.2.2 = .finished then s else s.discardQueue x.1 x.2.1) s)

/-! ### Cleaning -/

/-- Words of a core's LM that no slice in use holds become 0 and FULL (R43, R245). -/
def State.cleanLm (s : State) (core : Nat) : State :=
  let a := lmBase + core * 524288
  let used := s.slices core
  let keep (b : Nat) : Bool := decide (b < a) || decide (a + 524288 ≤ b) ||
    used.any (fun u => decide (a + u.1 ≤ b) && decide (b < a + u.1 + u.2))
  { s with
    mem := s.mem.filter (fun c => keep c.1)
    pres := s.pres.filter (fun c => keep (8 * c.1))
    lmDirty := s.lmDirty.filter (fun c => keep (8 * c.1)) }

/-- Whether some cores hold a core of a tenant: a slot of it is still installed for the tenant. -/
def State.holdsTenant (s : State) (t lo n : Nat) : Bool :=
  s.slots.any (fun e => decide (lo ≤ e.1 / 16) && decide (e.1 / 16 < lo + n) && decide (e.2.owner = some t))

/-- Removes a tenant's translations from a structure (R255). -/
def State.dropPages (s : State) (k t : Nat) : State :=
  { s with tlb := tabPut [] s.tlb k ((tabGet [] s.tlb k).filter (fun p => decide (p.tenant.toNat ≠ t))) }

/-- What is cleaned of a core beside its slots, once its last outgoing occupant has left, of the tenant `old` if there was one (R255). -/
def State.cleanCore (s : State) (core : Nat) (old : Option Nat) : State :=
  let a := bsBase + core * 1048576
  let s := s.clearContexts core 0
  let s := { s with
    mem := s.mem.filter (fun c => decide (c.1 < a) || decide (a + 1048576 ≤ c.1))
    atc := s.atc.filter (fun e => decide (e.1 ≠ core))
    tlb := s.tlb.filter (fun e => decide (e.1 ≠ core * 2) && decide (e.1 ≠ core * 2 + 1)) }
  let s := s.setMx core .empty
  match old with
  | none => s
  | some t =>
    let s := if s.holdsTenant t (core / 4 * 4) 4 then s else s.dropPages (10000 + core / 4) t
    if s.holdsTenant t (core / 16 * 16) 16 then s else s.dropPages (20000 + core / 16) t

/-- Whether every slot of an eviction's interval has been cleaned: the interval is vacant (R246). -/
def Evict.vacant (e : Evict) : Bool := decide (8 * e.len ≤ e.cleaned.length)

/-- Tenants other than the incoming one whose whole region lies in a vacated interval: they are switched out (R252). -/
def State.switchOut (s : State) (e : Evict) : State :=
  (List.range 128).foldl (fun s t =>
    let v := s.tenantRec t
    if (s.tenantAt t).installed ∧ e.incoming ≠ some t ∧ e.base ≤ recBase v ∧ recBase v + recLen v ≤ e.base + e.len then
      let s := s.unbindResident t
      s.setTenant t { s.tenantAt t with installed := false, unbound := [] }
    else s) s

/-- Marks a slot of an eviction cleaned; the eviction is done when its interval is vacant. -/
def State.markCleaned (s : State) (core slot : Nat) : State :=
  let l := s.evicts.map (fun e =>
    if e.done = false ∧ e.base ≤ core ∧ core < e.base + e.len then
      let e := { e with cleaned := e.cleaned ++ [core * 16 + slot] }
      { e with done := e.vacant }
    else e)
  { s with evicts := l }

/-- Whether the cleaning sequencer may clean a slot now: it holds no fibre; a transform thread leaves after the others. -/
def State.mayClean (s : State) (e : Evict) (core slot : Nat) : Bool :=
  decide (core * 16 + slot ∉ e.cleaned) && decide (slot < 8) &&
    (if slot < 7 then decide ((s.slotAt core slot).state = .free)
     else (List.range 7).all (fun i => decide (core * 16 + i ∈ e.cleaned)))

/-- Undelivered `putr` deliveries for a slot are discarded, and counted to their senders, which go on (R193, R255, R258). -/
def State.dropPuts (s : State) (core slot : Nat) : State :=
  (s.putNet.filter (fun m => decide (m.core = core) && decide (m.slot = slot))).foldl (fun s m =>
    let s := ({ s with putNet := s.putNet.erase m } : State).countEv m.tenant 12 1
    let sl := s.slotAt m.fromCore m.fromSlot
    if sl.state = .parked ∧ sl.wait = .put then s.setSlot m.fromCore m.fromSlot sl.advance else s) s

/-- SLOT_CLEANING (R245, R251, R255): a slot of an evicted interval is cleared and installed for the incoming occupant; with a
core's last slot the core is cleared and its transform thread bound. Its cycles are charged to the outgoing tenant (R256). -/
def execSlotCleaning (core slot : Nat) (s : State) : Host.Outcome State Fault Refusal :=
  match s.evictOver core with
  | none => .next s
  | some e =>
    if s.mayClean e core slot = false then .next s
    else
      let old := (s.slotAt core slot).owner
      let s := if slot = 7 ∧ (s.slotAt core 7).state ≠ .free then s.leaveSlot core 7 .dropped else s
      let s := (((s.dropPuts core slot).setSlot core slot (s.slotAt core slot).cleaned).cleanLm core)
      let s := match old with | some t => s.countTimed t 10 | none => s
      let s := if slot = 7 then s.cleanCore core old else s
      let s := match e.incoming with
        | none => s
        | some t =>
          if (s.tenantAt t).refused ∨ s.residentTaken t then s.setTenant t { s.tenantAt t with refused := true }
          else
            let s := if e.cleaned = [] then (s.identityTable t).bindResident t else s
            let s := (s.installSlot t core slot).installRegion t core 0
            if slot = 7 ∧ (s.tenantAt t).installed then s.installTransform t core else s
      let s := s.markCleaned core slot
      .next (if e.cleaned.length + 1 = 8 * e.len then s.switchOut e else s)

end Sys2Proof.Machine
end

