-- ==== Sys2Proof/Machine/Links.lean ====
section
/-! DEFINITION. The steps of Rhoiq links: training, loss, flits, replay, halving, CODEN (R367–R370). -/

namespace Sys2Proof.Machine

/-- LINK_UP: a link that the configuration enables trains and negotiates 1.0; with no common major it stays in state 0 (R367, R390). -/
def execLinkUp (die link : Nat) (peer : LinkPeer) (s : State) : Host.Outcome State Fault Refusal :=
  if 4 ≤ die ∨ 4 ≤ link then .fault .noSuchUnit
  else
    let on := match s.config with | some c => c.links.getLsbD (die * 4 + link) | none => false
    let k := s.linkAt die link
    if on = false then .next s
    else if peer.major ≠ 1 then .next (s.setLink die link { k with state := 0 })
    else .next (s.setLink die link
      { Link.down with state := 2, peer := { peer with major := 1, minor := 0 }, coden := k.coden, codenIn := k.coden })

/-- Ends the open fabric commands that await a member no route reaches (R362, R370). -/
def State.endUnreachable (s : State) : State :=
  (s.cmds.filter (fun e => decide (e.1 / 2048 / 1024 = 5))).foldl (fun s e =>
    e.2.foldl (fun s c =>
      match s.fxCmd (e.1 / 2048 % 1024) (e.1 % 2048) c.id with
      | none => s
      | some c => match c.fab with
        | none => s
        | some f =>
          if c.open ∧ s.reachable (c.awaited f).2.1 = false then
            s.fxEnd (e.1 / 2048 % 1024) (e.1 % 2048) c 1 0x70 (c.awaited f).1
          else s) s) s

/-- LINK_DOWN: the link leaves state 2; each flit that is not acknowledged takes another route to its destination, and what no route reaches
ends MEMBER-UNREACHABLE (R370). -/
def execLinkDown (die link : Nat) (s : State) : Host.Outcome State Fault Refusal :=
  if 4 ≤ die ∨ 4 ≤ link then .fault .noSuchUnit
  else if (s.linkAt die link).state ≠ 2 then .next s
  else
    let k := s.linkAt die link
    let s := s.setLink die link { k with state := 0, unacked := [] }
    .next ((k.unacked.filter (fun f => f.coden.isNone)).foldl (fun (s : State) f =>
      match s.firstHop f.dst with
      | none => s
      | some (d, l) => s.setLink d l ((s.linkAt d l).send f)) s).endUnreachable

/-- RHOIQ_FLIT: a flit whose CRC holds and that is the next of its channel is taken (R367). One with a bad CRC is dropped and comes again. -/
def execRhoiqFlit (die link : Nat) (f : Flit) (s : State) : Host.Outcome State Fault Refusal :=
  if 4 ≤ die ∨ 4 ≤ link ∨ 4 ≤ f.channel then .fault .noSuchUnit
  else if (s.linkAt die link).state ≠ 2 ∨ f.crcOk = false then .next s
  else .next (s.setLink die link ((s.linkAt die link).take f))

/-- FLIT_REPLAY: the unacknowledged flits of a channel go again, from the tables of the last acknowledged one (R367, R369). -/
def execFlitReplay (die link channel : Nat) (s : State) : Host.Outcome State Fault Refusal :=
  if 4 ≤ die ∨ 4 ≤ link ∨ 4 ≤ channel then .fault .noSuchUnit
  else
    let k := s.linkAt die link
    let l := k.unacked.filter (fun f => decide (f.channel = channel))
    if k.state ≠ 2 ∨ l = [] then .next s
    else .next (l.foldl (fun s f => s.emit (.link die link) (.flit die link f)) (s.setLink die link (k.replay channel)))

/-- EXPONENT_COUNT_HALVING: both directions of a channel halve their counts once 256 flits have passed (R369). -/
def execExponentCountHalving (die link channel : Nat) (s : State) : Host.Outcome State Fault Refusal :=
  if 4 ≤ die ∨ 4 ≤ link ∨ 4 ≤ channel then .fault .noSuchUnit
  else
    let k := s.linkAt die link
    let due (i : Nat) (k : Link) : Link :=
      if 256 ≤ (k.dirAt i).flits then { k with dirs := tabPut .start k.dirs i (k.dirAt i).halve } else k
    .next (s.setLink die link (due (2 * channel + 1) (due (2 * channel) k)))

/-- CODEN_WRITE: a hypervisor write of a link's CODEN (R368, R369). -/
def execCodenWrite (die link : Nat) (coden : BitVec 3) (s : State) : Host.Outcome State Fault Refusal :=
  if 4 ≤ die ∨ 4 ≤ link then .fault .noSuchUnit
  else .next (s.setLink die link ((s.linkAt die link).setCoden coden))

end Sys2Proof.Machine
end

