-- ==== Sys2Proof/Machine/Wake.lean ====
section
/-! DEFINITION. How waits end: presence and phase wakes (R65, R117, R183, R190, R191), replies (R120, R186, R187), `wait`
events (R173, R214), the pager (R35, R36, R399), `putr` deliveries (R194), and the acceptance and completion of engine commands
(R20, R21). -/

namespace Sys2Proof.Machine

/-- A parked instruction goes on: it is performed at once, and its issue was counted before (R117; DEDUCED, log entry 40). One of the
bit-buffer issues again (R217). -/
def Slot.wakes (sl : Slot) : Slot :=
  match sl.wait with
  | .input _ => { sl with state := .ready, wait := .none, fetched := none }
  | _ => { sl with state := .ready, resuming := true }

/-- Wakes a slot. The word that an instruction of the bit-buffer has waited for is read now, in its turn (R65, R217). -/
def State.wakeSlot (s : State) (core slot : Nat) : State :=
  let sl := s.slotAt core slot
  s.setSlot core slot (match sl.wait with
    | .input p => { sl.wakes with words := (p, word (s.peek p 8), s.presAt p) :: sl.words }
    | _ => sl.wakes)

/-! ### What a slot waits for -/

/-- Whether the commands a slot waits for have all completed (R174, R341, R361). -/
def State.commandsDone (s : State) (core slot : Nat) (k : Option EngKind) (ctx : Nat) (id : Option Nat) : Bool :=
  match k with
  | none => !s.busy core slot
  | some _ => !(tabGet [] s.cmds ctx).any (fun c => c.ending.isSome && !c.finished && (match id with | some i => c.id = i | none => true))

/-- The phase test of `waitc` (R191): VOID, or FULL with another phase. -/
def State.phaseDone (s : State) (phys : Nat) (b : Bool) : Bool :=
  match s.presAt phys with
  | .void => true
  | .empty => false
  | .full => decide (bit (word (s.peek phys 8)) 56 ≠ b)

/-- Whether the accesses that `tlbinv` waits for have been performed (R33, R177). -/
def State.tlbDone (s : State) (l : List (Nat × Nat)) : Bool :=
  l.all (fun e => let sl := s.slotAt (e.1 / 16) (e.1 % 16); decide (sl.lastIssue ≠ some e.2) || !sl.outstanding)

/-- Whether a step of the matrix engine that a slot waits in is over: it is neither performed nor held for it (R327, R334). -/
def State.stepOver (s : State) (core slot : Nat) : Bool :=
  let x := s.mxAt core
  (match x.running with | some t => decide (t.who.slot ≠ slot) | none => true) &&
    (match x.held with | some t => decide (t.who.slot ≠ slot) | none => true)

/-- Whether what a slot waits for has occurred; replies and `wait` events have steps of their own. A waiter on a word waits its turn
(R65). -/
def State.waitOver (s : State) (core slot : Nat) : Bool :=
  let sl := s.slotAt core slot
  match sl.wait with
  | .reg r => decide (sl.presOf r ≠ .empty)
  | .word p u => untilOk u (s.presAt p) && !s.queuedBefore sl.seq p
  | .words l => l.all (fun p => decide (s.presAt p ≠ .empty) && !s.queuedBefore sl.seq p)
  | .input p => decide (s.presAt p ≠ .empty) && !s.queuedBefore sl.seq p
  | .phase p b => decide (sl.reply = .flipped ∨ sl.reply = .voided) || s.phaseDone p b
  | .barrier k b => decide (sl.reply = .flipped) || decide ((s.barAt k).phase ≠ b)
  | .barrierIdle k => (s.barAt k).arrived.isEmpty
  | .podPhase c i b => decide (sl.reply = .flipped) || decide ((tabGet (false, 0) s.pod (c * 16 + i)).1 ≠ b)
  | .refresh _ b => !s.inRefresh b
  | .mxStep => s.stepOver core slot
  | .tlb l => s.tlbDone l
  | .frame _ (.drop c) => decide (c ∉ s.dropping)
  | .frame _ (.refresh b) => !s.inRefresh b
  | .frame _ .turn => !s.frBefore (sl.who core slot) sl.seq
  | .frTurn => !s.frBefore (sl.who core slot) sl.seq
  | .stream k i c n => decide ((s.streamOf k i c core slot).length < n)
  | .mxRuns => (s.mxAt core).running.isNone
  | .engReg k => decide ((tabGet (0, Presence.full) s.er k).2 ≠ .empty)
  | .commands k c i => s.commandsDone core slot k c i
  | .mxHeld => (s.mxAt core).running.isNone && (match (s.mxAt core).held with | some h => h.who.slot = slot | none => true)
  | .ready p _ _ _ => decide (s.presAt p ≠ .empty) && !s.queuedBefore sl.seq p
  | .drop c => decide (c ∉ s.dropping)
  | _ => false

/-- Whether a parked slot may go on; a pre-empted one stays as it is, unless its request has left for its home (R179). -/
def State.canWake (s : State) (core slot : Nat) : Bool :=
  let sl := s.slotAt core slot
  decide (sl.state = .parked) && (!sl.preempted || sl.outstanding) && s.waitOver core slot

/-- The event of `wait` (R173): a delivery; the queue event, in the transform slot; a time. -/
def State.queueEvent (s : State) (sl : Slot) : Bool :=
  let q := sl.csrv 0x058
  match s.translate (sl.who s.curCore 7) .data .read (word (fld q 3 49 * 8)) with
  | .ok (_, phys, _) => decide (fld q 52 12 ≠ 0) && decide (s.presAt phys = .full) && decide (fld q 52 12 ≤ s.peek phys 8)
  | .error _ => false

/-- The queue event of a slot of a core. -/
def State.queueEventAt (s : State) (core slot : Nat) : Bool :=
  slot = 7 && coreKind core = .compute && ({ s with curCore := core } : State).queueEvent (s.slotAt core 7)

/-- Whether a `wait` has come to its end. -/
def State.eventOver (s : State) (core slot : Nat) (mask time : Word) : Bool :=
  (bit mask 0 && (s.slotAt core slot).delivered) || (bit mask 1 && s.queueEventAt core slot) || (bit mask 2 && decide (time ≤ s.time))

/-- PARK_WAKE: a parked instruction whose awaited state has occurred goes on (R65); a fabric command that waits on its source
or destination is tried again. -/
def execParkWake (a : Agent) (s : State) : Host.Outcome State Fault Refusal :=
  match a with
  | .fibre core slot =>
    if slotExists core slot = false then .fault .noSuchUnit
    else if s.canWake core slot then .next (s.wakeSlot core slot) else .next s
  | .engine .fx die ctx => .next ((s.cmdsOf .fx die ctx).foldl (fun s c => s.fxProgress die ctx c.id) s)
  | .engine _ _ _ => .next s

/-- WAIT_WAKE: an event ends a `wait` (R173). -/
def execWaitWake (core slot : Nat) (s : State) : Host.Outcome State Fault Refusal :=
  if slotExists core slot = false then .fault .noSuchUnit
  else
    let sl := s.slotAt core slot
    match sl.state, sl.wait with
    | .parked, .event m t _ => if !sl.preempted && s.eventOver core slot m t then .next (s.wakeSlot core slot) else .next s
    | _, _ => .next s

/-- TRANSFORM_RESTART: the queue event of a halted transform thread; it restarts at the transform entry (R214). -/
def execTransformRestart (core : Nat) (s : State) : Host.Outcome State Fault Refusal :=
  if 1024 ≤ core then .fault .noSuchUnit
  else
    let sl := s.slotAt core 7
    if sl.state = .parked ∧ sl.wait = .queueEvent ∧ s.queueEventAt core 7 then .next (s.setSlot core 7 (sl.jump sl.entry)) else .next s

/-! ### Replies -/

/-- The far address whose reply a slot waits for. -/
def Wait.farPhys : Wait → Option Nat
  | .far _ p => .some p
  | .fetch p _ => if isFar p then .some p else .none
  | _ => .none

/-- The time of issue of the PCIe request that a slot waits for. -/
def Wait.hostIssued : Wait → Option Nat
  | .host _ _ _ i => .some i
  | .fetch p i => if isFar p then .none else .some i
  | _ => .none

/-- A reply reaches a slot: it belongs to the access that the slot waits for. -/
def Slot.answered (sl : Slot) (r : Reply) : Slot :=
  let of (va : Word) : List Acc := sl.kept.map (fun a => if a.va = va then { a with reply := r } else a)
  { sl.wakes with
    reply := r
    kept := match sl.wait with
      | .far va _ => of va
      | .host va _ _ _ => of va
      | .fetch _ _ => sl.kept.map (fun a => { a with reply := r })
      | _ => sl.kept }

/-- MEMORY_REPLY: the data of a FAR access arrive; a tag that fails quarantines the page (R49, R51). -/
def execMemoryReply (core slot : Nat) (tagOk : Bool) (s : State) : Host.Outcome State Fault Refusal :=
  if slotExists core slot = false then .fault .noSuchUnit
  else
    let sl := s.slotAt core slot
    match sl.state, sl.wait.farPhys with
    | .parked, some phys =>
      let ok := tagOk && decide ((phys / 4096 * 4096) ∉ s.badTags)
      let s := s.setSlot core slot (sl.answered (.far ok))
      .next (if ok then s else s.quarantined phys)
    | _, _ => .next s

/-- A PCIe request of a thread ends. -/
def State.hostReply (s : State) (core slot : Nat) (r : Reply) : State := s.setSlot core slot ((s.slotAt core slot).answered r)

/-- PUTR_DELIVERY: the `n`-th delivery on its way reaches its core, and its sender goes on (R193, R194). -/
def execPutrDelivery (n : Nat) (s : State) : Host.Outcome State Fault Refusal :=
  match s.putNet[n]? with
  | none => .next s
  | some m =>
    let s := { s with putNet := s.putNet.eraseIdx n }
    let s := s.deliver m.tenant m.core m.slot m.reg m.value m.presence
    let sl := s.slotAt m.fromCore m.fromSlot
    .next (if sl.state = .parked ∧ sl.wait = .put then s.setSlot m.fromCore m.fromSlot sl.advance else s)

/-! ### The pager -/

/-- The size, as a power of 2, of the page that a miss lies in: that of its leaf where its tables give one by now, else 64 KiB (R27; DEDUCED,
log entry 66). -/
def State.missBits (s : State) (m : Miss) : Nat :=
  let w : Who := { Slot.empty.who 0 0 with mode := if m.tenant = 0xFF then 3 else 1, tenant := m.tenant, s1 := m.roots.1, s2 := m.roots.2 }
  match s.walkPage w m.access m.va with
  | .ok p => p.bits
  | .error _ => 16

/-- Whether two misses lie in one page of 2^`bits` bytes of one tenant: the pager merges them (R36). -/
def Miss.same (a : Miss) (bits : Nat) (b : Miss) : Bool := decide (a.tenant = b.tenant) && decide (a.va.toNat / 2 ^ bits = b.va.toNat / 2 ^ bits)

/-- Whether a slot waits on the pager: asleep, or with its frame command held (R35, R270). -/
def Slot.onPager (sl : Slot) : Bool :=
  decide (sl.state = .asleep) || (decide (sl.state = .parked) && (match sl.wait with
    | .frame _ .miss => true
    | .frame _ .btab => true
    | _ => false))

/-- The miss of the supervisor block that a thread's binding waits on. -/
def State.bindMiss (s : State) (key : Nat) : Option Miss :=
  s.tenants.findSome? (fun e => (e.2.unbound.find? (fun u => decide (u.1 = key))).bind (·.2))

/-- Whether a chain that is being unwound belongs to a frame context. -/
def Unwind.at (x : Unwind) (ctx : Nat) : Bool := decide ((engCtx .fr x.who.core x.who.slot 0).2 = ctx)

/-- The miss that an agent waits on. Copy engine 64 stands for the saves of an eviction, by tenant·8 + queue; a launch engine's
agent names the tenant and the queue, and a frame engine's the context of a chain that is being unwound. -/
def State.missOf (s : State) (a : Agent) : Option Miss :=
  match a with
  | .fibre core slot =>
    let sl := s.slotAt core slot
    if sl.onPager then sl.miss else s.bindMiss (core * 16 + slot)
  | .engine .mx core _ => (s.mxAt core).running.bind (·.miss)
  | .engine .mk die ctx => (s.prodOf die ctx).bind (·.miss)
  | .engine .ln t q => ((s.queueAt t q).launches.find? (fun l => l.miss.isSome)).bind (·.miss)
  | .engine .fr _ ctx => (s.unwinds.find? (fun x => x.at ctx && x.miss.isSome)).bind (·.miss)
  | .engine .cp cl ctx =>
    if cl = 64 then ((s.saves.find? (fun v => v.tenant * 8 + v.queue = ctx && v.ctx.isNone && v.miss.isSome)).bind (·.miss))
    else ((s.missed .cp cl ctx).bind (·.miss)).or
      ((s.saves.find? (fun v => (v.ctx.map (fun c => (c.1, c.2.1))) = some (cl, ctx) && v.miss.isSome)).bind (·.miss))
  | .engine k i c => (s.missed k i c).bind (·.miss)

/-- Whether a miss is the one that a wake is for. -/
def Miss.hit (m : Miss) (bits : Nat) : Option Miss → Bool
  | some n => m.same bits n
  | none => false

/-- What is left of a miss that a wake may end. -/
def Miss.clear (m : Miss) (bits : Nat) (x : Option Miss) : Option Miss := if m.hit bits x then none else x

/-- A slot as its page's miss ends: a sleeping thread reissues, and a held frame command goes on (R35, R270). -/
def Slot.pageHere (sl : Slot) (m : Miss) (bits : Nat) : Slot :=
  if m.hit bits sl.miss = false ∨ sl.onPager = false then sl
  else if sl.state = .parked then { sl.wakes with miss := none }
  else if sl.preempted then sl
  else { sl with state := .ready, miss := none }

/-- Every waiter on a page goes on: threads reissue, and commands, saves, completions, chains and bindings try their access again
(R35, R36). -/
def State.wakePage (s : State) (m : Miss) : State :=
  let n := s.missBits m
  { s with
    slots := s.slots.map (fun e => (e.1, e.2.pageHere m n))
    cmds := s.cmds.map (fun e => (e.1, e.2.map (fun c => { c with miss := m.clear n c.miss })))
    mkp := s.mkp.map (fun e => (e.1, e.2.map (fun p => { p with miss := m.clear n p.miss })))
    mx := s.mx.map (fun e => (e.1, { e.2 with running := e.2.running.map (fun t => { t with miss := m.clear n t.miss }) }))
    saves := s.saves.map (fun v => { v with miss := m.clear n v.miss })
    queues := s.queues.map (fun e => (e.1, { e.2 with launches := e.2.launches.map (fun l => { l with miss := m.clear n l.miss }) }))
    unwinds := s.unwinds.map (fun x => { x with miss := m.clear n x.miss })
    tenants := s.tenants.map (fun e => (e.1, { e.2 with unbound := e.2.unbound.map (fun u => (u.1, m.clear n u.2)) })) }

/-- The tenant generation to which the wake of an agent's miss is addressed (R36, R260). -/
def State.genOf (s : State) (a : Agent) (m : Miss) : Nat :=
  match a with
  | .fibre core slot => (s.slotAt core slot).gen
  | .engine _ _ _ => (s.tenantAt m.tenant.toNat).gen.toNat

/-- PAGER_WAKE: a wake of an older tenant generation is dropped (R35, R36, R260). -/
def execPagerWake (a : Agent) (gen : Nat) (s : State) : Host.Outcome State Fault Refusal :=
  match s.missOf a with
  | none => .next s
  | some m => if s.genOf a m = gen then .next (s.wakePage m) else .next s

/-- A fault of a slot that does not execute now; one in mode H is reported (R136). -/
def State.raiseAt (s : State) (core slot code : Nat) (eval : Word) : State :=
  let sl := s.slotAt core slot
  let t := s.setSlot core slot ({ sl with miss := none }.raise code eval)
  if sl.mode = 3 then t.emit (coreSource core) (.report code sl.pc.toNat eval.toNat) else t

/-- A copy command whose access fails for good (R340): a completion word fails, and is not updated again (R399); the page that was declined is
left as it is (R396). -/
def State.copyFails (s : State) (cl ctx : Nat) (c : Cmd) (m : Miss) (code : Nat) : State :=
  s.setCp cl ctx (if m.access = .readWrite ∧ reg c.regs 7 ≠ 0 ∧ m.va = reg c.regs 7 then { c.end 1 0x62 0 with miss := none, regs := c.regs.set 7 0 }
    else (c.decline m).end 1 code 0)

/-- The save whose write the pager answers for a copy agent. -/
def State.saveMissed (s : State) (inst ctx : Nat) : Option Save :=
  s.saves.find? (fun v => v.miss.isSome &&
    (if inst = 64 then v.ctx.isNone && decide (v.tenant * 8 + v.queue = ctx) else decide (v.ctx.map (fun c => (c.1, c.2.1)) = some (inst, ctx))))

/-- The access that an engine command waits on fails with a code (R310, R327, R340, R347, R362, R378, R399): its page is declined, or a
PCIe request of it fails. -/
def State.engineFails (s : State) (k : EngKind) (inst ctx code : Nat) (m : Option Miss) : Host.Outcome State Fault Refusal :=
  match k with
  | .mx => match (s.mxAt inst).running with
    | some st => match (m.map (·.va)).or (s.hostWord inst st) with
      | some va => .next ((s.stepFault inst st code va).stepsWait ((s.tileRow inst st).map (·.1)))
      | none => .next s
    | none => .next s
  | .mk => match s.prodOf inst ctx with
    | some p => .next (if mkNch p.regs < p.chunk then s.setProd inst ctx none else s.mkFail inst ctx { p with miss := none } code)
    | none => .next s
  | .ln => match (s.queueAt inst ctx).launches.find? (fun l => l.miss.isSome) with
    | some l => .next (s.finishLaunch inst ctx l true)
    | none => .next s
  | .cp =>
    match s.saveMissed inst ctx with
    | some v => .next (s.saveFails v code)
    | none => match m, s.missed .cp inst ctx with
      | some m, some c => .next (s.copyFails inst ctx c m code)
      | _, _ => match (s.cmdsOf .cp inst ctx).find? (fun c => !c.finished && decide (c.op = 2)) with
        | some c => .next (s.setCp inst ctx (c.end 1 code 0))
        | none => .next s
  | .fx => match (s.cmdsOf .fx inst ctx).find? (fun c => c.miss.isSome || (m.isNone && c.open)) with
    | some c => match c.fab, m with
      | some f, some m => .next (s.fxDecline inst ctx c f m code)
      | some f, none => .next (s.fxEnd inst ctx c 6 code f.rank)
      | none, _ => .next s
    | none => .next s
  | .at => match s.active .at inst ctx with
    | some c =>
      let d := match m with | some m => c.decline m | none => c
      if c.ending.isSome then .next (s.setActive .at inst ctx d)
      else s.atResult inst ctx d (.error (.trap code ((m.map (·.va)).getD 0)))
    | none => .next s
  | .fr => match s.unwinds.find? (fun x => x.at ctx && x.miss.isSome) with
    | some x => .next ({ s with unwinds := s.unwinds.erase x }.retireHeld x.tenant x.queue)
    | none => .next s

/-- The pager declines the miss of a slot: a sleeping thread takes the fault, but for a pre-empted one, which reissues on restore (R36); so does
the thread of a held frame command, where a block table that is declined raises 0x02 with EVAL 8 (R273); a thread whose supervisor block is
declined stays unbound. -/
def State.slotDeclined (s : State) (core slot : Nat) (m : Miss) (code : Nat) : State :=
  let sl := s.slotAt core slot
  if sl.onPager = false then s.tenants.foldl (fun s e => s.boundNow e.1 (core * 16 + slot)) s
  else if sl.state = .asleep ∧ sl.preempted then s
  else
    let c := s.frCtx core slot
    match sl.wait with
    | .frame _ .btab => (s.raiseAt core slot 0x02 8).frIdle c
    | .frame _ _ => (s.raiseAt core slot code m.va).frIdle c
    | _ => s.raiseAt core slot code m.va

/-- PAGER_DECLINE: 0x07, or 0x06 for a permission failure; an engine's access fails (R35). -/
def execPagerDecline (a : Agent) (perm : Bool) (s : State) : Host.Outcome State Fault Refusal :=
  let code := if perm then 0x06 else 0x07
  match s.missOf a with
  | none => .next s
  | some m => match a with
    | .fibre core slot => .next (s.slotDeclined core slot m code)
    | .engine k i c => s.engineFails k i c code (some m)

/-- MISS_MESSAGE: a miss reaches the pager; for a host page it issues a page request under a free index (R34, R35, R260). The record holds
the PASID, which the tenant's number names (log entry 56). -/
def execMissMessage (a : Agent) (s : State) : Host.Outcome State Fault Refusal :=
  match s.missOf a with
  | none => .next s
  | some m =>
    let t := m.tenant.toNat
    if m.stage ≠ 3 ∨ s.pris.any (fun p => p.agent = a && p.va = m.va) then .next s
    else
      let used := (s.pris.filter (fun p => decide (p.tenant = t))).map (·.index)
      match (List.range 512).find? (fun i => decide (i ∉ used)) with
      | none => .next s
      | some i =>
        let p : Pri := { tenant := t, pasid := t, index := i, gen := (s.tenantAt t).gen, issued := s.time.toNat, agent := a, va := m.va }
        .next (({ s with pris := s.pris ++ [p] } : State).emit .host (.pri t t i))

/-! ### Engine commands -/

/-- ENGINE_COMMAND_ACCEPT: a queue has space again; the parked command is accepted with its registers as they stand (R20). -/
def execEngineCommandAccept (core slot : Nat) (s : State) : Host.Outcome State Fault Refusal :=
  if slotExists core slot = false then .fault .noSuchUnit
  else
    let sl := s.slotAt core slot
    match sl.state, sl.wait with
    | .parked, .accept k i c =>
      let depth := match k with | .cp => Config.cpDepth | .fx => Config.fxDepth | _ => Config.atDepth
      if !sl.preempted && decide (s.pending k i c < depth) then .next (s.wakeSlot core slot) else .next s
    | _, _ => .next s

/-- STAT of a command that completes, by engine. -/
def State.statOf (s : State) (k : EngKind) (inst ctx : Nat) (c : Cmd) : Word :=
  match k with
  | .cp => cpStat c
  | .fx => fxStat c
  | .at => atStat (s.erp .at inst ctx 12).1 (s.atCtx inst ctx)
  | _ => (s.erp k inst ctx (engStat k)).1

/-- ENGINE_COMMAND_COMPLETE: finished commands leave their context, copies and fabric commands in any order; when none is left, STAT is FULL
(R21). -/
def execEngineCommandComplete (kind : EngKind) (inst ctx : Nat) (s : State) : Host.Outcome State Fault Refusal :=
  let l := s.cmdsOf kind inst ctx
  let free := kind = .fx ∨ kind = .cp
  let done := if free then l.filter (·.finished) else l.takeWhile (·.finished)
  match done.getLast? with
  | none => .next s
  | some c =>
    let rest := if free then l.filter (fun c => !c.finished) else l.dropWhile (·.finished)
    let s := s.setCmds kind inst ctx rest
    .next (if rest = [] then s.statFull kind inst ctx (s.statOf kind inst ctx c) else s)

end Sys2Proof.Machine
end

