-- ==== Sys2Proof/Machine/Host.lean ====
section
/-! DEFINITION. The world outside the cores: the host port (R384–R386), PCIe completions (R186, R187), page requests and resets
of functions (R260), boot, freeze, attestation, power (R387–R393), memory errors, the tier engine and refresh (R46, R48–R53). -/

namespace Sys2Proof.Machine

/-! ### Host accesses (R384, R385) -/

/-- Whether a host access to a VF's BAR0 at an offset is one to its mailbox area. -/
def State.barOk (s : State) (t offset : Nat) : Bool :=
  decide (t < 128) && (s.tenantAt t).enabled && decide (offset < 65536) && offset % 8 = 0

/-- HOST_MAILBOX_WRITE: data stored, presence unchanged. -/
def execHostMailboxWrite (tenant offset : Nat) (value : Word) (s : State) : Host.Outcome State Fault Refusal :=
  if s.barOk tenant offset = false ∨ 0x8000 ≤ offset then .next (s.emit .host .unsupported)
  else .next (s.poke ((s.tenantAt tenant).mailbox + offset) 8 value.toNat)

/-- HOST_ALIAS_WRITE: data and FULL, in one release. -/
def execHostAliasWrite (tenant offset : Nat) (value : Word) (s : State) : Host.Outcome State Fault Refusal :=
  if s.barOk tenant offset = false ∨ offset < 0x8000 then .next (s.emit .host .unsupported)
  else .next (s.pokeWord ((s.tenantAt tenant).mailbox + (offset - 0x8000)) value .full)

/-- A presence code (R124). -/
def presCode : Presence → Nat
  | .empty => 0 | .full => 1 | .void => 2

/-- HOST_ALIAS_READ: the presence code of a word; below the alias, the data. -/
def execHostAliasRead (tenant offset : Nat) (s : State) : Host.Outcome State Fault Refusal :=
  if s.barOk tenant offset = false then .next (s.emit .host .unsupported)
  else
    let a := (s.tenantAt tenant).mailbox + offset % 0x8000
    .next (s.emit .host (.hostData (if 0x8000 ≤ offset then word (presCode (s.presAt a)) else word (s.peek a 8))))

/-- UNSUPPORTED_REQUEST: a register access of a width other than 8 bytes, or an AtomicOp to a BAR (R384). -/
def execUnsupportedRequest (_atomic : Bool) (s : State) : Host.Outcome State Fault Refusal := .next (s.emit .host .unsupported)

/-! ### PCIe requests of the device (R186, R187) -/

/-- PCIE_COMPLETION: a thread's request ends with an outcome; a failed read of an engine fails its command with 0x21. -/
def execPcieCompletion (a : Agent) (outcome : PcieOutcome) (s : State) : Host.Outcome State Fault Refusal :=
  match a with
  | .fibre core slot =>
    if slotExists core slot = false then .fault .noSuchUnit
    else match (s.slotAt core slot).state, (s.slotAt core slot).wait.hostIssued with
      | .parked, some _ => .next (s.hostReply core slot (.host outcome))
      | _, _ => .next s
  | .engine k i c => if outcome = .success then .next s else s.engineFails k i c 0x21 none

/-- COMPLETION_TIMEOUT: no completion within the timeout of R190. -/
def execCompletionTimeout (a : Agent) (s : State) : Host.Outcome State Fault Refusal :=
  match a with
  | .fibre core slot =>
    if slotExists core slot = false then .fault .noSuchUnit
    else match (s.slotAt core slot).state, (s.slotAt core slot).wait.hostIssued with
      | .parked, some i => if i + s.pcieTimeout ≤ s.time.toNat then .next (s.hostReply core slot .timeout) else .next s
      | _, _ => .next s
  | .engine k i c => s.engineFails k i c 0x22 none

/-- HOST_WRITE_ERROR_REPORT: the host's error for a posted write reaches the hypervisor (R187). -/
def execHostWriteErrorReport (addr : Word) (s : State) : Host.Outcome State Fault Refusal := .next (s.emit .host (.report 0 addr.toNat 0))

/-! ### Page requests and function resets (R260) -/

/-- PRI response timeout in ns (R387). -/
def State.priTimeout (s : State) : Nat := match s.config with | some c => c.priTimeoutUs * 1000 | none => Config.priTimeoutNs

/-- PRI_RESPONSE: matched against its record; one of an older generation is dropped and reported, and reaches nobody. -/
def execPriResponse (tenant index : Nat) (ok : Bool) (s : State) : Host.Outcome State Fault Refusal :=
  match s.pris.find? (fun p => decide (p.tenant = tenant) && decide (p.index = index)) with
  | none => .next s
  | some p =>
    let s := { s with pris := s.pris.filter (· ≠ p) }
    if p.gen ≠ (s.tenantAt tenant).gen then .next (s.emit .host (.report 0 index tenant))
    else if ok = false then execPagerDecline p.agent false s
    else
      let page := match s.walkPage (match p.agent with
          | .fibre core slot => (s.slotAt core slot).who core slot
          | .engine k i c => (((s.missed k i c).or (s.active k i c)).map (·.who)).getD (s.tenantWho tenant)) .read p.va with
        | .ok g => some ((g.base - hostBase) / 65536)
        | .error _ => none
      let s := match page with
        | some g => { s with atsOk := (tenant, g) :: s.atsOk }
        | none => s
      match s.missOf p.agent with
      | some m => .next (s.wakePage m)
      | none => .next s

/-- PRI_RESPONSE_TIMEOUT: an outstanding record is freed. -/
def execPriResponseTimeout (tenant index : Nat) (s : State) : Host.Outcome State Fault Refusal :=
  .next { s with pris := s.pris.filter (fun p => !(p.tenant = tenant && p.index = index && decide (p.issued + s.priTimeout ≤ s.time.toNat))) }

/-- The reset generation of a VF rises, and with it that of the tenant's slots, those among them whose thread is still to be bound: wakes for
the old one are dropped (R260). -/
def State.resetVf (s : State) (t : Nat) : State :=
  let x := s.tenantAt t
  let renew (e : Nat × Slot) : Slot :=
    if (e.2.tenant.toNat = t ∧ e.2.state ≠ .free) ∨ x.unbound.any (fun u => decide (u.1 = e.1)) then { e.2 with gen := (x.gen + 1).toNat } else e.2
  { s with slots := s.slots.map (fun (e : Nat × Slot) => (e.1, renew e)) }.setTenant t { x with gen := x.gen + 1 }

/-- A tenant's far-tier key is destroyed: the tag of a sector written under it matches no more (R392, R51; log entry 55). -/
def State.destroyKey (s : State) (t : Nat) : State :=
  let l := (s.farKeys.filter (fun e => decide (e.2 = t + 1))).map (fun e => 4096 * e.1)
  { s with farKeys := s.farKeys.filter (fun e => decide (e.2 ≠ t + 1)), badTags := l.filter (fun a => decide (a ∉ s.badTags)) ++ s.badTags }

/-- FUNCTION_LEVEL_RESET (R252, R259, R260, R392). -/
def execFunctionLevelReset (tenant : Nat) (s : State) : Host.Outcome State Fault Refusal :=
  if 128 ≤ tenant then .fault .noSuchUnit
  else
    let s := { s with
      evc := s.evc.filter (fun e => decide (e.1 / 16 ≠ tenant))
      atsOk := s.atsOk.filter (fun e => decide (e.1 ≠ tenant)) }
    .next (((s.resetVf tenant).unbindResident tenant).destroyKey tenant)

/-- VF_DISABLE: the generation rises, and the tenant no longer exists (R248, R260). -/
def execVfDisable (tenant : Nat) (s : State) : Host.Outcome State Fault Refusal :=
  if 128 ≤ tenant then .fault .noSuchUnit
  else
    let s := s.resetVf tenant
    .next (s.setTenant tenant { s.tenantAt tenant with enabled := false })

/-- DOE_REQUEST: signed measurements (R392); in recovery only the PF answers, with the step that failed (R388). -/
def execDoeRequest (fn : Nat) (s : State) : Host.Outcome State Fault Refusal :=
  if 129 ≤ fn then .fault .noSuchUnit
  else if fn = 0 ∧ s.boot % 256 < 2 then .next (s.emit .host (.recovery (s.boot % 256 + 1)))
  else if fn = 0 ∨ (s.tenantAt (fn - 1)).enabled then .next (s.emit .host (.measurements fn s.attest)) else .next s

/-! ### Boot, freeze, power (R387–R393) -/

/-- Whether no range of a list meets another, and no port stands twice in it. -/
def rangesApart : List (Nat × Nat × Nat) → Bool
  | [] => true
  | r :: t => t.all (fun q => decide (r.1 ≠ q.1) && (decide (r.2.2 < q.2.1) || decide (q.2.2 < r.2.1))) && rangesApart t

/-- Whether the ranges of the enabled tier ports are disjoint and together cover the far tier (R387). -/
def portsOk (c : ConfigRecord) : Bool :=
  let l := c.portRanges.filter (fun r => decide (r.1 < 8) && c.ports.getLsbD r.1)
  l.all (fun r => decide (r.2.1 ≤ r.2.2) && decide (r.2.2 < 2 ^ 27)) && rangesApart l &&
    (l.map (fun r => r.2.2 + 1 - r.2.1)).foldl (· + ·) 0 = 2 ^ 27

/-- Whether a configuration record keeps its limits (R387, R390). -/
def configOk (c : ConfigRecord) : Bool :=
  c.signatureOk && c.major = 1 && decide (50 ≤ c.pcieTimeoutUs) && decide (c.pcieTimeoutUs ≤ 64000) && decide (1000 ≤ c.priTimeoutUs) &&
    decide (c.priTimeoutUs ≤ 4000000) && decide (c.packageIndex < 256) && c.routes.all (fun r => decide (r.1 < 256) && decide (r.2.length ≤ 4)) &&
    decide ((c.routes.map (·.1)).Nodup) &&
    decide (1200 ≤ c.powerLimit) && decide (c.powerLimit ≤ 2000) && portsOk c

/-- Enabled links train (R388, step 5): each is in state 1 until LINK_UP. -/
def State.trainLinks (s : State) (c : ConfigRecord) : State :=
  (List.range 16).foldl (fun s i =>
    if c.links.getLsbD i then { s with links := tabPut .down s.links i { tabGet .down s.links i with state := 1 } } else s) s

/-- A slot in which hypervisor firmware starts, in mode H. -/
def firmwareSlot (pc root : Word) : Slot :=
  (({ Slot.empty with state := .ready, occupant := .hypervisor, pc := align4 pc } : Slot).setCsr 0x000 (mkStatus 0xFF 0 false 0 3)).setCsr 0x180
    (root &&& csrMask 0x080)

/-- The hypervisor firmware starts on the control cores (R388, step 6). Neither its slot nor its entry nor its page table is stated: it starts
in slot 0, at free values (DESIGN CHOICE, log entry 34). -/
def State.startFirmware (s : State) : State :=
  (List.range 16).foldl (fun s i =>
    let a := s.draw
    let b := a.2.draw
    b.2.setSlot (1024 + i) 0 (firmwareSlot a.1 b.1)) s

/-- COLD_RESET (R388): everything is as at reset, then the boot steps; a failure at step 1 or 2 leaves the package in recovery. -/
def execColdReset (firmware : Option (BitVec 256)) (record : ConfigRecord) (s : State) : Host.Outcome State Fault Refusal :=
  let r := { State.reset with agenda := s.agenda, drawn := s.drawn, out := s.out, cycle := s.cycle }
  match firmware with
  | none => .next r
  | some f =>
    let r := { r with attest := [f], boot := 1 }
    if configOk record = false then .next r
    else
      let r := { r with attest := [f, record.digest], config := some record, packageIndex := record.packageIndex, boot := 6 }
      .next (r.trainLinks record).startFirmware

/-- FREEZE_INPUT: every clock stops (R391). -/
def execFreezeInput (s : State) : Host.Outcome State Fault Refusal := .next { s with frozen := true }
/-- FREEZE_REGISTER_WRITE (R391). -/
def execFreezeRegisterWrite (s : State) : Host.Outcome State Fault Refusal := .next { s with frozen := true }

/-! ### Scan (R389, R391) -/

/-- Every source of a package, by rising number. -/
def sources : List Source :=
  (List.range 1024).map .compute ++ (List.range 16).map (fun i => .control (i / 4) (i % 4)) ++ (List.range 64).map .pager ++
    (List.range 4).map .launch ++ (List.range 4).map .frame ++ (List.range 4).map .fabric ++ (List.range 4).map .mask ++
    (List.range 4).map .tier ++ (List.range 4).map .cleaning ++ (List.range 64).map .copy ++ (List.range 256).map .attention ++
    (List.range 16).map (fun i => .link (i / 4) (i % 4)) ++ [.host]

/-- A piece of the scan: a slot with its registers and CSRs, a CSR that no slot holds, by index and tenant or cluster, bytes and presence of LM,
an engine register, a link's registers, the boot status, the attestation log. -/
inductive Scanned where
  | csr (index n : Nat) (v : Word)
  | link (k : Link)
  | boot (status : Nat)
  | slot (core n : Nat) (sl : Slot)
  | byte (c : Host.Cell)
  | presence (word : Nat) (p : Presence)
  | reg (key : Nat) (v : Word × Presence)
  | log (l : List (BitVec 256))
  deriving DecidableEq, Repr

/-- The slots of a core. -/
def State.scanSlots (s : State) (core : Nat) : List Scanned :=
  (s.slots.filter (fun e => decide (e.1 / 16 = core))).map (fun e => .slot core (e.1 % 16) e.2)

/-- The registers of an engine instance. -/
def State.scanRegs (s : State) (k : EngKind) (inst : Nat) : List Scanned :=
  (s.er.filter (fun e => decide (e.1 / 64 / 2048 = engCode k * 1024 + inst))).map (fun e => .reg e.1 e.2)

/-- The CSRs of the package: TIME, WSPHASE, the event counters, those of R254 and the reset generations. -/
def State.scanPackage (s : State) : List Scanned :=
  [.csr 0x030 0 s.time, .csr 0x034 0 (s.wsphase.setWidth 64)] ++ s.evc.map (fun e => .csr (0x040 + e.1 % 16) (e.1 / 16) e.2) ++
    s.pcsr.map (fun e => .csr e.1 0 e.2) ++ s.tck.map (fun e => .csr 0x115 e.1 (e.2.setWidth 64)) ++
    s.tccol.map (fun e => .csr 0x116 e.1 (e.2.setWidth 64)) ++ s.dropping.map (fun c => .csr 0x117 c 1) ++
    s.tenants.map (fun e => .csr 0x118 e.1 (e.2.gen.setWidth 64))

/-- What scan reads of a source (R391): what is at its default is not listed. -/
def State.scanOf (s : State) : Source → List Scanned
  | .compute c =>
    let a := lmBase + c * 524288
    s.scanSlots c ++ (s.mem.filter (fun e => decide (a ≤ e.1) && decide (e.1 < a + 524288))).map .byte ++
      (s.pres.filter (fun e => decide (a ≤ 8 * e.1) && decide (8 * e.1 < a + 524288))).map (fun e => .presence e.1 e.2) ++ s.scanRegs .mx c ++
      [.csr 0x060 0 (s.mxAt c).mxdone]
  | .control d n => s.scanSlots (1024 + 4 * d + n)
  | .pager c => s.scanSlots (1040 + c)
  | .launch d => s.scanRegs .ln d
  | .frame d => s.scanRegs .fr d
  | .fabric d => s.scanRegs .fx d
  | .mask d => s.scanRegs .mk d
  | .copy c => s.scanRegs .cp c
  | .attention q => s.scanRegs .at q
  | .link d l => [.link (tabGet .down s.links (4 * d + l))]
  | .host => s.scanPackage ++ [.boot s.boot, .log s.attest]
  | _ => []

/-- The read-out of a frozen package, ordered by source number (R391). -/
def State.scan (s : State) : List (Nat × List Scanned) :=
  if s.frozen then sources.map (fun x => (x.number, s.scanOf x)) else []

/-- Whether an event stands before another in a log: by time, package and source (R389). -/
def Event.before (a b : Event) : Bool :=
  decide (a.time.toNat < b.time.toNat) || (a.time = b.time && (decide (a.package < b.package) ||
    (a.package = b.package && decide (a.source < b.source))))

/-- Puts an event at its place, behind those that it does not precede. -/
def Event.insert (x : Event) : List Event → List Event
  | [] => [x]
  | y :: t => if x.before y then x :: y :: t else y :: x.insert t

/-- What the package has shown, ordered by time, package and source (R389). -/
def State.log (s : State) : List Event := s.out.foldl (fun l x => x.insert l) []

/-! ### Clock and temperature (R393) -/

/-- CLOCK_THROTTLE: the core clock steps down by 100 MHz (R393; log entry 12). -/
def execClockThrottle (s : State) : Host.Outcome State Fault Refusal :=
  .next { s with clockMHz := max Config.minClockMHz (s.clockMHz - 100) }

/-- OVER_TEMPERATURE: boot status and PF vector 7 (R393). -/
def execOverTemperature (s : State) : Host.Outcome State Fault Refusal :=
  .next (({ s with boot := s.boot % 256 + 256, thermal := some (s.thermal.getD s.time.toNat) } : State).emit .host (.msix 0 7))

/-- THERMAL_FREEZE: 10 µs after the over-temperature event (R393). -/
def execThermalFreeze (s : State) : Host.Outcome State Fault Refusal :=
  match s.thermal with
  | some t => if t + 10000 ≤ s.time.toNat then .next { s with frozen := true } else .next s
  | none => .next s

/-! ### Memory (R43, R46, R48–R53) -/

/-- A memory with `n` bytes from `a` at 0. -/
def clearMem (m : List Host.Cell) (a n : Nat) : List Host.Cell := m.filter (fun c => decide (c.1 < a) || decide (a + n ≤ c.1))

/-- A memory with `n` bytes copied from `a` to `b`. -/
def copyMem (m : List Host.Cell) (a b n : Nat) : List Host.Cell :=
  (m.filter (fun c => decide (a ≤ c.1) && decide (c.1 < a + n))).foldl (fun l c => tabPut 0 l (c.1 - a + b) c.2) (clearMem m b n)

/-- A leaf that points to another place (R48): target type and location. -/
def leafMoved (e : Word) (tgt loc : Nat) : Word :=
  (e &&& ~~~(word (7 * 32) ||| word ((2 ^ 32 - 1) * 2 ^ 20))) ||| word (tgt * 32 + loc % 2 ^ 32 * 2 ^ 20)

/-- Removes every cached page that holds a byte of a physical page of `n` bytes, as `tlbinv` does. -/
def State.dropBase (s : State) (base n : Nat) : State :=
  let out (p : Page) : Bool := decide (p.base + 2 ^ p.bits ≤ base) || decide (base + n ≤ p.base)
  { s with tlb := (s.tlb.map (fun e => (e.1, e.2.filter out))).filter (fun e => decide (e.2 ≠ [])) }

/-- Whether every word of a near page of `n` bytes is FULL (R43). -/
def State.pageFull (s : State) (a n : Nat) : Bool := s.pres.all (fun e => decide (e.1 < a / 8) || decide ((a + n) / 8 ≤ e.1))

/-- The tier engine makes a near page resident: every word FULL (R43), its TOUCH home to be set afresh (R39), and, as it is rewritten
whole, no poison and no failed hash left (R47, R53). -/
def State.fillPage (s : State) (a n : Nat) : State :=
  let out (x : Nat) : Bool := decide (x < a) || decide (a + n ≤ x)
  { s with
    pres := s.pres.filter (fun e => out (8 * e.1))
    touch := s.touch.filter (fun e => out e.1)
    poison := s.poison.filter out
    badHash := s.badHash.filter (fun e => out e.1) }

/-- The tier engine rewrites a far page: no poison, no quarantine and no failed tag or hash is left (R47, R51, R52). -/
def State.rewriteFar (s : State) (b n : Nat) : State :=
  let out (x : Nat) : Bool := decide (x < b) || decide (b + n ≤ x)
  { s with
    poison := s.poison.filter out
    quarantine := s.quarantine.filter out
    badTags := s.badTags.filter out
    badHash := s.badHash.filter (fun e => out e.1) }

/-- Whether a page of `n` bytes has nothing that stops an access to it (R51–R53): the tier engine is no exception. -/
def State.sound (s : State) (a n : Nat) : Bool :=
  let out (x : Nat) : Bool := decide (x < a) || decide (a + n ≤ x)
  s.poison.all out && s.quarantine.all out

/-- Failed hash checks go with a page that moves from `a` to `b` (R47). -/
def State.carryHash (s : State) (a b n : Nat) : State :=
  { s with badHash := s.badHash ++ ((s.badHash.filter (fun e => decide (a ≤ e.1) && decide (e.1 < a + n))).map (fun e => (e.1 - a + b, e.2))) }

/-- An access that meets a page as it moves from `a` to `b` is performed at the new place (R48). -/
def Acc.moved (x : Acc) (a b n tgt : Nat) : Acc :=
  if a ≤ x.phys ∧ x.phys < a + n then
    { x with phys := x.phys - a + b, page := { x.page with tgt := tgt, base := x.page.base - a + b }, reply := .none }
  else x

/-- The physical places that a wait names. -/
def Wait.places : Wait → List Nat
  | .far _ p => [p]
  | .fetch p _ => [p]
  | .word p _ => [p]
  | .words l => l
  | .input p => [p]
  | .phase p _ => [p]
  | .ready p _ _ _ => [p]
  | _ => []

/-- A slot as a page moves: what it has issued goes to the new place, and a wait at the old place is taken up afresh (R48). -/
def Slot.moved (sl : Slot) (a b n tgt : Nat) : Slot :=
  let t := { sl with kept := sl.kept.map (fun x => x.moved a b n tgt) }
  if sl.state = .parked ∧ sl.wait.places.any (fun p => decide (a ≤ p) && decide (p < a + n)) then t.wakes else t

/-- The tier engine has moved a page of `n` bytes from `a` to `b`: the leaf points to the new place, cached translations are gone, and
accesses go on there (R48). The bytes moved are counted to the tenant whose access caused the move (R258). -/
def State.moved (s : State) (a b n tgt leaf tenant : Nat) : State :=
  let s := s.dropBase a n
  let loc := if tgt = 0 then b / 65536 else (b - farBase) / 65536
  let s := { s with slots := s.slots.map (fun (e : Nat × Slot) => (e.1, e.2.moved a b n tgt)) }
  (s.poke leaf 8 (leafMoved (word (s.peek leaf 8)) tgt loc).toNat).countEv tenant 6 n

/-- Whether an address begins a page of 2^`bits` bytes, of a size that a leaf has (R27), in near memory. -/
def nearPage (a bits : Nat) : Bool := (bits = 16 || bits = 21 || bits = 30) && a % 2 ^ bits = 0 && isNear a && isNear (a + 2 ^ bits - 1)
/-- The same in the far tier. -/
def farPage (b bits : Nat) : Bool := (bits = 16 || bits = 21 || bits = 30) && b % 2 ^ bits = 0 && isFar b

/-- TIER_MIGRATION: one move of the tier engine (R43, R48, R51). A page that an access could not read, being poisoned or in quarantine,
does not move. -/
def execTierMigration (m : Migration) (s : State) : Host.Outcome State Fault Refusal :=
  match m with
  | .zero p bits =>
    let a := p * 65536
    if nearPage a bits = false then .fault .noSuchUnit
    else .next (({ s with mem := clearMem s.mem a (2 ^ bits) } : State).fillPage a (2 ^ bits))
  | .promote p f leaf bits tenant tagOk =>
    let a := p * 65536
    let b := farBase + f * 65536
    let n := 2 ^ bits
    if nearPage a bits = false ∨ farPage b bits = false ∨ isNear leaf = false then .fault .noSuchUnit
    else if s.sound b n = false then .next s
    else if tagOk = false ∨ s.badTags.any (fun x => decide (b ≤ x) && decide (x < b + n)) then
      .next (s.quarantined (((s.badTags.find? (fun x => decide (b ≤ x) && decide (x < b + n))).getD b)))
    else .next (((({ s with mem := copyMem s.mem b a n } : State).fillPage a n).carryHash b a n).moved b a n 0 leaf tenant)
  | .demote p f leaf bits tenant =>
    let a := p * 65536
    let b := farBase + f * 65536
    let n := 2 ^ bits
    if nearPage a bits = false ∨ farPage b bits = false ∨ isNear leaf = false then .fault .noSuchUnit
    else if s.pageFull a n = false ∨ s.sound a n = false then .next s
    else
      let v := (List.range (n / 4096)).foldl (fun l i => tabPut 0 l (b / 4096 + i) (tabGet 0 l (b / 4096 + i) + 1)) s.versions
      let keys := if tenant < 128 then (List.range (n / 4096)).foldl (fun l i => tabPut 0 l (b / 4096 + i) (tenant + 1)) s.farKeys else s.farKeys
      .next (((({ s with mem := copyMem s.mem a b n, versions := v, farKeys := keys } : State).rewriteFar b n).carryHash a b n).moved a b n 1 leaf tenant)

/-- Where an error of memory is reported from: the tier engine beside the near DRAM or the tier port, the core of an LM line. -/
def State.errorSource (s : State) (phys : Nat) : Source :=
  if isNear phys then .tier (phys / 2 ^ 37) else if isFar phys then .tier (s.farDie ((phys - farBase) / 65536))
  else if isLm phys then .compute ((phys - lmBase) / 524288) else .host

/-- UNCORRECTABLE_ERROR: a line, or a far page that no replica repairs, is poisoned and reported; what a replica or ECC repairs is counted
(R52, R53), and a tag that fails is found at the next read (R51). -/
def execUncorrectableError (phys : Nat) (e : ErrorSite) (s : State) : Host.Outcome State Fault Refusal :=
  match e with
  | .line => .next (({ s with poison := (phys / 128 * 128) :: s.poison } : State).emit (s.errorSource phys) (.report 0x08 (phys / 128 * 128) 0))
  | .farPage replica leaf =>
    if replica then .next { s with refetched := s.refetched + 1 }
    else .next (({ s with poison := (phys / 65536 * 65536 + 1) :: s.poison } : State).emit (s.errorSource phys) (.report 0x08 (phys / 65536 * 65536) leaf))
  | .corrected => .next { s with softErrors := s.softErrors + 1 }
  | .farTag => .next (if isFar phys ∧ (phys / 4096 * 4096) ∉ s.badTags then { s with badTags := (phys / 4096 * 4096) :: s.badTags } else s)

/-- REFRESH_WINDOW_END: the reads that a bank's window stalled complete (R46). -/
def execRefreshWindowEnd (die bank : Nat) (s : State) : Host.Outcome State Fault Refusal :=
  if 4 ≤ die ∨ 64 ≤ bank then .fault .noSuchUnit
  else if s.inRefresh bank then .next s
  else .next { s with slots := s.slots.map (fun (e : Nat × Slot) => (e.1,
    if e.2.state = .parked ∧ e.2.wait = .refresh die bank ∧ e.2.preempted = false then e.2.wakes else e.2)) }

end Sys2Proof.Machine
end

