-- ==== Sys2Proof/Machine/MemInstr.lean ====
section
/-! DEFINITION. Scalar memory instructions: loads and stores (R178–R181), presence operations (R182, R183), atomics
(R184–R187), fences (R188), barriers (R189, R190), completion words (R191) and remote register writes (R193). -/

namespace Sys2Proof.Machine

/-! ### Plain loads and stores -/

/-- The effective address of format RM (R178): the offset counts units of 2^`w` bytes. -/
def Slot.ea (sl : Slot) (a : BitVec 5) (o : BitVec 9) (w : Nat) : Word := sl.gv a + (o.signExtend 64 <<< w)

/-- The low `n` bytes of a load, sign- or zero-extended (R180). -/
def loaded (signed : Bool) (n v : Nat) : Word := if signed then BitVec.ofInt 64 (sfield v (8 * n)) else word v

/-- `ld` (R180). -/
def execLd (d a : BitVec 5) (o : BitVec 9) (_s : BitVec 3) (w : BitVec 2) (x _q : BitVec 1) (s : State) :
    Host.Outcome State Fault Refusal :=
  run s do
    let sl ← s.me.gate [.g a]
    let n := 2 ^ w.toNat
    let (v, s) ← (s.setMe sl).threadRead (sl.ea a o w.toNat) n
    pure (s.setMe (s.me.wrG d (loaded (x = 1) n v)).advance)

/-- `st` (R181). -/
def execSt (d a : BitVec 5) (o : BitVec 9) (_s : BitVec 3) (w : BitVec 2) (_q : BitVec 1) (s : State) :
    Host.Outcome State Fault Refusal :=
  run s do
    let sl ← s.me.gate [.g a, .g d]
    let n := 2 ^ w.toNat
    let s ← (s.setMe sl).threadWrite (sl.ea a o w.toNat) n ((sl.gv d).toNat % 2 ^ (8 * n))
    pure (s.setMe s.me.advance)

/-! ### Presence loads and stores (R182) -/

/-- What `lds`, `ldt` and `vldsync` find in a word: they wait while it is EMPTY; none is VOID. A target without presence is
read as FULL (R44). -/
def State.syncRead (s : State) (va : Word) (n : Nat) : Except Stop (Option Nat × State) := do
  let (p, phys, s) ← s.reached (s.req .read n) va
  if hasPres phys then s.waitWord phys .notEmpty
  if hasPres phys ∧ s.presAt phys = .void then pure (none, s)
  else
    let r := s.fetchBytes p phys n
    pure (some r.1, r.2)

/-- The thread's write of a loaded word; a VOID one gives 0 and V. -/
def State.wrLoaded (s : State) (d : BitVec 5) (v : Option Nat) : State :=
  match v with
  | none => s.setMe (s.me.setV.wrG d 0).advance
  | some v => s.setMe (s.me.wrG d (word v)).advance

/-- `lds`. -/
def execLds (d a : BitVec 5) (o : BitVec 9) (_s : BitVec 3) (s : State) : Host.Outcome State Fault Refusal :=
  run s do
    let sl ← s.me.gate [.g a]
    let (v, s) ← (s.setMe sl).syncRead (sl.ea a o 3) 8
    pure (s.wrLoaded d v)

/-- `ldc`: reads and sets EMPTY, in one step. -/
def execLdc (d a : BitVec 5) (o : BitVec 9) (_s : BitVec 3) (s : State) : Host.Outcome State Fault Refusal :=
  run s do
    let sl ← s.me.gate [.g a]
    let s := s.setMe sl
    let (p, phys, s) ← s.reached { s.req .readWrite 8 with pres := true } (sl.ea a o 3)
    s.waitWord phys .notEmpty
    if s.presAt phys = .void then pure (s.wrLoaded d none)
    else
      let r := s.fetchBytes p phys 8
      pure ((r.2.pokeWord phys (word (s.peek phys 8)) .empty).wrLoaded d (some r.1))

/-- The code that `ldq` returns. -/
def presCodeOf : Presence → Word
  | .empty => 0
  | .full => 1
  | .void => 2

/-- `ldq`: the presence code; FULL at a target without presence (R44). -/
def execLdq (d a : BitVec 5) (o : BitVec 9) (_s : BitVec 3) (s : State) : Host.Outcome State Fault Refusal :=
  run s do
    let sl ← s.me.gate [.g a]
    let s := s.setMe sl
    let r := s.req .read 8
    let (x, s) ← s.reach r (sl.ea a o 3)
    if hasPres x.phys then s.landed r x [x]
    pure (s.setMe (s.me.wrG d (presCodeOf (if hasPres x.phys then s.presAt x.phys else .full))).advance)

/-- `ldt`: a tag that differs from TAGX faults, and nothing is performed. -/
def execLdt (d a : BitVec 5) (o : BitVec 9) (_s : BitVec 3) (s : State) : Host.Outcome State Fault Refusal :=
  run s do
    let sl ← s.me.gate [.g a]
    let (v, s) ← (s.setMe sl).syncRead (sl.ea a o 3) 8
    match v with
    | none => pure (s.wrLoaded d none)
    | some v =>
      if v % 65536 ≠ (sl.csrv 0x00C).toNat % 65536 then throw (.trap 0x0B (word (v % 65536)))
      pure (s.wrLoaded d (some v))

/-- The stores `stf`, `stv` and `ste`: data and state in one store. -/
def presStore (d a : BitVec 5) (o : BitVec 9) (p : Presence) (s : State) : Host.Outcome State Fault Refusal :=
  run s do
    let sl ← s.me.gate [.g a, .g d]
    let s := s.setMe sl
    let (_, phys, s) ← s.reached { s.req .write 8 with pres := true } (sl.ea a o 3)
    pure ((s.pokeWord phys (sl.gv d) p).setMe s.me.advance)

/-- `stf`. -/
def execStf (d a : BitVec 5) (o : BitVec 9) (_s : BitVec 3) (s : State) : Host.Outcome State Fault Refusal :=
  presStore d a o .full s

/-- `stw`: waits while the word is FULL; a VOID word is not written and sets V. -/
def execStw (d a : BitVec 5) (o : BitVec 9) (_s : BitVec 3) (s : State) : Host.Outcome State Fault Refusal :=
  run s do
    let sl ← s.me.gate [.g a, .g d]
    let s := s.setMe sl
    let (_, phys, s) ← s.reached { s.req .write 8 with pres := true } (sl.ea a o 3)
    s.waitWord phys .notFull
    if s.presAt phys = .void then pure (s.setMe s.me.setV.advance)
    else pure ((s.pokeWord phys (sl.gv d) .full).setMe s.me.advance)

/-- `stv`. -/
def execStv (d a : BitVec 5) (o : BitVec 9) (_s : BitVec 3) (s : State) : Host.Outcome State Fault Refusal :=
  presStore d a o .void s

/-- `ste`. -/
def execSte (d a : BitVec 5) (o : BitVec 9) (_s : BitVec 3) (s : State) : Host.Outcome State Fault Refusal :=
  presStore d a o .empty s

/-! ### Atomics (R184–R186) -/

/-- What an atomic of `n` bytes does where it finds `old`: it stores the new value, none where a `cas` does not match; a far sector is
then written (R50). -/
def State.amoAt (s : State) (phys n old : Nat) (new : Nat → Option Nat) : State :=
  match new old with
  | none => s
  | some v => (s.poke phys n v).versioned s.me.acct phys

/-- A PCIe AtomicOp waits for its completion; the old value that the host returns is a free value (R186). -/
def State.hostAtomic (s : State) (x : Acc) (q : HostReq) : Except Stop (Word × State) :=
  match x.reply with
  | .host .success => pure s.draw
  | .host .unsupported => throw (.trap 0x20 x.va)
  | .host .abort => throw (.trap 0x21 x.va)
  | .timeout => throw (.trap 0x22 x.va)
  | _ => throw (.hold (.host x.va (x.phys - hostBase) q s.time.toNat) [x])

/-- An atomic of `n` bytes; `aop` gives the PCIe AtomicOp that it becomes at a HOST page (R54), if there is one. -/
def amo (n : Nat) (aop : Option (Slot → HostReq)) (gates : List Src) (d a : BitVec 5) (new : Slot → Nat → Option Nat) (res : Nat → Word)
    (s : State) : Host.Outcome State Fault Refusal :=
  run s do
    let sl ← s.me.gate gates
    let s := s.setMe sl
    let r := { s.req .readWrite n with atomic := if aop.isSome then 2 else 1 }
    let (x, s) ← s.reach r (sl.gv a)
    s.landed r x [x]
    match aop, x.page.tgt with
    | some q, 5 => do
      let (old, s) ← s.hostAtomic x (q sl)
      pure (s.setMe (s.me.wrG d old).advance)
    | _, _ => do
      if hasPres x.phys then s.waitWord x.phys .notEmpty
      if hasPres x.phys ∧ s.presAt x.phys = .void then pure (s.wrLoaded d none)
      else
        let (old, s) := s.fetchBytes x.page x.phys n
        pure ((s.amoAt x.phys n old (new sl)).setMe (s.me.wrG d (res old)).advance)

/-- An 8-byte atomic with operand gB that always stores. -/
def amo8 (aop : Option (Word → HostReq)) (d a b : BitVec 5) (f : Word → Word → Word) (s : State) : Host.Outcome State Fault Refusal :=
  amo 8 (aop.map (fun q sl => q (sl.gv b))) [.g a, .g b] d a (fun sl old => some (f (word old) (sl.gv b)).toNat) word s

/-- `amo.add`. -/
def execAmoAdd (d a b : BitVec 5) (_s _o : BitVec 3) (s : State) : Host.Outcome State Fault Refusal :=
  amo8 (some .fetchAdd) d a b (fun x y => x + y) s
/-- `amo.and`. -/
def execAmoAnd (d a b : BitVec 5) (_s _o : BitVec 3) (s : State) : Host.Outcome State Fault Refusal :=
  amo8 none d a b (fun x y => x &&& y) s
/-- `amo.or`. -/
def execAmoOr (d a b : BitVec 5) (_s _o : BitVec 3) (s : State) : Host.Outcome State Fault Refusal :=
  amo8 none d a b (fun x y => x ||| y) s
/-- `amo.xor`. -/
def execAmoXor (d a b : BitVec 5) (_s _o : BitVec 3) (s : State) : Host.Outcome State Fault Refusal :=
  amo8 none d a b (fun x y => x ^^^ y) s
/-- `amo.min`. -/
def execAmoMin (d a b : BitVec 5) (_s _o : BitVec 3) (s : State) : Host.Outcome State Fault Refusal :=
  amo8 none d a b (fun x y => if x.slt y then x else y) s
/-- `amo.max`. -/
def execAmoMax (d a b : BitVec 5) (_s _o : BitVec 3) (s : State) : Host.Outcome State Fault Refusal :=
  amo8 none d a b (fun x y => if x.slt y then y else x) s
/-- `amo.minu`. -/
def execAmoMinu (d a b : BitVec 5) (_s _o : BitVec 3) (s : State) : Host.Outcome State Fault Refusal :=
  amo8 none d a b (fun x y => if x < y then x else y) s
/-- `amo.maxu`. -/
def execAmoMaxu (d a b : BitVec 5) (_s _o : BitVec 3) (s : State) : Host.Outcome State Fault Refusal :=
  amo8 none d a b (fun x y => if x < y then y else x) s
/-- `amo.swap`. -/
def execAmoSwap (d a b : BitVec 5) (_s _o : BitVec 3) (s : State) : Host.Outcome State Fault Refusal :=
  amo8 (some .swap) d a b (fun _ y => y) s
/-- `amo.cas`: compares with the incoming gD, which is a source. -/
def execAmoCas (d a b : BitVec 5) (_s _o : BitVec 3) (s : State) : Host.Outcome State Fault Refusal :=
  amo 8 (some (fun sl => .cas (sl.gv d) (sl.gv b))) [.g a, .g b, .g d] d a
    (fun sl old => if word old = sl.gv d then some (sl.gv b).toNat else none) word s
/-- `amo.fadd`: RNE, subnormals kept, no flag (R185). -/
def execAmoFadd (d a b : BitVec 5) (_s _o : BitVec 3) (s : State) : Host.Outcome State Fault Refusal :=
  amo 4 none [.g a, .g b] d a
    (fun sl old => some (rne32 false (addExact 0 (num (f32 old)) (num ((sl.gv b).setWidth 32)))).toNat) word s
/-- `amo.add.w`. -/
def execAmoAddW (d a b : BitVec 5) (_s _o : BitVec 3) (s : State) : Host.Outcome State Fault Refusal :=
  amo 4 none [.g a, .g b] d a (fun sl old => some ((old + (sl.gv b).toNat) % 2 ^ 32)) (loaded true 4) s

/-! ### Fences (R63, R188) -/

/-- `fence`. Every earlier access of the thread has its reply already (R120); only the host's acceptance of posted stores is
waited for, with PW at scope `sys`, by a zero-length read behind them (R187). -/
def execFence (e : BitVec 1) (s : BitVec 3) (k : BitVec 4) (st : State) : Host.Outcome State Fault Refusal :=
  run st (
    if k.getLsbD 2 = true ∧ (k.extractLsb' 0 2 ≠ 0 ∨ e = 1) ∧ s = 6 ∧ st.me.hostStores = true then
      match st.me.reply with
      | .host .success => pure (st.setMe ({ st.me with hostStores := false } : Slot).advance)
      | .host _ => throw (.trap 0x21 0)
      | .timeout => throw (.trap 0x22 0)
      | _ => throw (.park (.host 0 0 .flush st.time.toNat))
    else pure (st.setMe st.me.advance))

/-! ### Hardware barriers (R189, R190) -/

/-- One arrival of the executing thread at a barrier below level 5: the phase bit as it stood, and the barrier's key. It
waits while the barrier belongs to another group. -/
def State.barArrive (s : State) (level id : Nat) : Except Stop (Bool × Nat × State) :=
  let k := barKey level s.curCore id
  let b := s.barAt k
  let g := (barGroup s.me).getD (0xFF, none, 3)
  if b.arrived ≠ [] ∧ b.owner ≠ some g then throw (.park (.barrierIdle k))
  else
    let b' : Barrier := { b with arrived := b.arrived ++ [barIdent s.me s.curCore s.curSlot], owner := some g }
    pure (b.phase, k, ({ s with barriers := tabPut .idle s.barriers k b' } : State).barCheck k)

/-- Key of the fabric context that carries the executing thread's pod barriers. -/
def State.podCtx (s : State) : Nat := ctxKey .fx (s.myCtx .fx).1 (s.myCtx .fx).2

/-- Whether the thread comes back from the end of a barrier phase. -/
def Slot.phaseOver (sl : Slot) : Bool :=
  sl.resuming && (match sl.wait with | .barrier _ _ => true | .podPhase _ _ _ => true | _ => false)

/-- `bar`: arrives and waits for the phase to complete. -/
def execBar (n : BitVec 4) (l : BitVec 3) (s : State) : Host.Outcome State Fault Refusal :=
  run s (
    if l = 5 then
      if s.me.phaseOver then pure (s.podDone n.toNat s.me)
      else do
        let ph := (s.podBit n.toNat).1
        let s ← s.podArrive n.toNat
        pure (s.parkMe (.podPhase s.podCtx n.toNat ph))
    else
      if s.me.phaseOver then pure (s.setMe s.me.advance)
      else do
        let (ph, k, s) ← s.barArrive l.toNat n.toNat
        pure (if (s.barAt k).phase ≠ ph then s.setMe s.me.advance else s.parkMe (.barrier k ph)))

/-- A phase bit as a register value. -/
def bitWord (b : Bool) : Word := if b then 1 else 0

/-- `bar.arrive`: arrives and returns the phase bit of the arrival. -/
def execBarArrive (b : BitVec 5) (n : BitVec 4) (l : BitVec 3) (s : State) : Host.Outcome State Fault Refusal :=
  run s (
    if l = 5 then do
      let ph := (s.podBit n.toNat).1
      let s ← s.podArrive n.toNat
      pure (s.setMe (s.me.wrG b (bitWord ph)).advance)
    else do
      let (ph, _, s) ← s.barArrive l.toNat n.toNat
      pure (s.setMe (s.me.wrG b (bitWord ph)).advance))

/-- `bar.wait`: waits until the phase differs from a[0]. -/
def execBarWait (a : BitVec 5) (n : BitVec 4) (l : BitVec 3) (s : State) : Host.Outcome State Fault Refusal :=
  run s do
    let sl ← s.me.gate [.g a]
    let b := bit (sl.gv a) 0
    if l = 5 then
      if s.me.phaseOver ∨ (s.podBit n.toNat).1 ≠ b then pure (s.podDone n.toNat sl)
      else throw (.park (.podPhase s.podCtx n.toNat b))
    else
      let k := barKey l.toNat s.curCore n.toNat
      if s.me.phaseOver ∨ (s.barAt k).phase ≠ b then pure (s.setMe sl.advance)
      else throw (.park (.barrier k b))

/-! ### Completion words (R191) -/

/-- Finds a completion word for the executing thread: its page must lie in NEAR or LM memory, and any other target, the weight store too,
is 0x62. -/
def State.cwPlace (s : State) (acc : Access) (va : Word) : Except Stop (Nat × State) := do
  let r := { s.req acc 8 with copies := true }
  let (x, s) ← s.reach r va
  if hasPres x.phys = false then throw (.trap 0x62 va)
  s.landed r x [x]
  pure (x.phys, s)

/-- Finds a FULL completion word with its reserved bits 0, and its value. -/
def State.cwRead (s : State) (va : Word) : Except Stop (Nat × Word × State) := do
  let (phys, s) ← s.cwPlace .readWrite va
  let v := word (s.peek phys 8)
  if s.presAt phys ≠ .full ∨ fld v 57 7 ≠ 0 then throw (.trap 0x62 va)
  pure (phys, v, s)

/-- `arrive`. -/
def execArrive (a : BitVec 5) (s : State) : Host.Outcome State Fault Refusal :=
  run s do
    let sl ← s.me.gate [.g a]
    let (phys, v, s) ← (s.setMe sl).cwRead (sl.gv a)
    match cwArrive v with
    | none => throw (.trap 0x62 (sl.gv a))
    | some x => let t := s.cwPut phys v x; pure (t.setMe t.me.advance)

/-- `expect`. -/
def execExpect (a b : BitVec 5) (s : State) : Host.Outcome State Fault Refusal :=
  run s do
    let sl ← s.me.gate [.g a, .g b]
    let (phys, v, s) ← (s.setMe sl).cwRead (sl.gv a)
    match cwExpect v (sl.gv b).toNat with
    | none => throw (.trap 0x62 (sl.gv a))
    | some x => let t := s.cwPut phys v x; pure (t.setMe t.me.advance)

/-- The thread comes back from a wait for a phase that has flipped. -/
def Slot.flipped (sl : Slot) : Bool := sl.resuming && decide (sl.reply = .flipped)

/-- The thread comes back from a wait for a completion word that has become VOID. -/
def Slot.sawVoid (sl : Slot) : Bool := sl.resuming && decide (sl.reply = .voided)

/-- `waitc`: presence comes before the value; a VOID word completes it with V; a flip or a VOID that came while it was parked
completes it, whatever the word holds by now (R23, R191). -/
def execWaitc (a b : BitVec 5) (s : State) : Host.Outcome State Fault Refusal :=
  run s do
    let sl ← s.me.gate [.g a, .g b]
    if sl.flipped then return s.setMe sl.advance
    if sl.sawVoid then return s.setMe sl.setV.advance
    let (phys, s) ← (s.setMe sl).cwPlace .read (sl.gv a)
    let v := word (s.peek phys 8)
    match s.presAt phys with
    | .empty => throw (.trap 0x62 (sl.gv a))
    | .void => pure (s.setMe s.me.setV.advance)
    | .full =>
      if fld v 57 7 ≠ 0 then throw (.trap 0x62 (sl.gv a))
      if bit v 56 ≠ bit (sl.gv b) 0 then pure (s.setMe s.me.advance)
      else throw (.park (.phase phys (bit (sl.gv b) 0)))

/-- `cwinit`. -/
def execCwinit (a b : BitVec 5) (s : State) : Host.Outcome State Fault Refusal :=
  run s do
    let sl ← s.me.gate [.g a, .g b]
    let (phys, s) ← (s.setMe sl).cwPlace .readWrite (sl.gv a)
    let n := (sl.gv b).toNat
    if 65535 < n then throw (.trap 0x62 (sl.gv a))
    let v := cwMake (bit (word (s.peek phys 8)) 56) 0 n n
    pure ((s.pokeWord phys v .full).setMe s.me.advance)

/-! ### Remote register writes (R193) -/

/-- `putr`: the delivery goes on its way and the thread waits until the target core accepts it. -/
def putr (val : Slot → VWord) (src : Src) (b : BitVec 5) (t : Src) (slot : Nat) (s : State) : Host.Outcome State Fault Refusal :=
  run s do
    let sl ← s.me.gate [src, .g b]
    let s := s.setMe sl
    let (core, s) := s.placeOf s.curCore (sl.csrv 0x110) (sl.csrv 0x111) (sl.csrv 0x112) (sl.gv b)
    match core with
    | none => throw (.trap 0x1A (sl.gv b))
    | some core =>
      let m : PutMsg :=
        { fromCore := s.curCore, fromSlot := s.curSlot, tenant := sl.acct.toNat, core := core, slot := slot, reg := t,
          value := val sl, presence := if sl.presOf src = .void then .void else .full }
      pure (({ s with putNet := s.putNet ++ [m] } : State).parkMe .put)

/-- `putr.g`. -/
def execPutrG (a b t : BitVec 5) (slot : BitVec 3) (s : State) : Host.Outcome State Fault Refusal :=
  putr (fun sl => (sl.gv a).setWidth 1024) (.g a) b (.g t) slot.toNat s
/-- `putr.v`. -/
def execPutrV (a : BitVec 4) (b : BitVec 5) (t : BitVec 4) (slot : BitVec 3) (s : State) : Host.Outcome State Fault Refusal :=
  putr (fun sl => sl.vv a) (.v a) b (.v t) slot.toNat s

end Sys2Proof.Machine
end

