-- ==== Sys2Proof/Machine/Scalar.lean ====
section
/-! DEFINITION. Scalar instructions: integer arithmetic (R155–R158), branches and jumps (R159–R161), FP32 arithmetic and
conversion (R163–R167), and the Philox generator (R168). -/

namespace Sys2Proof.Machine

/-! ### Forms (R154) -/

/-- gD := f(gA, gB). -/
def aluRR (d a b : BitVec 5) (f : Word → Word → Word) (s : State) : Host.Outcome State Fault Refusal :=
  runSlot s do
    let sl ← s.me.gate [.g a, .g b]
    pure (sl.wrG d (f (sl.gv a) (sl.gv b))).advance

/-- gD := f(gA). -/
def aluR (d a : BitVec 5) (f : Word → Word) (s : State) : Host.Outcome State Fault Refusal :=
  runSlot s do
    let sl ← s.me.gate [.g a]
    pure (sl.wrG d (f (sl.gv a))).advance

/-- gD := f(gD, gA, gB), with gD a source. -/
def aluDRR (d a b : BitVec 5) (f : Word → Word → Word → Word) (s : State) : Host.Outcome State Fault Refusal :=
  runSlot s do
    let sl ← s.me.gate [.g d, .g a, .g b]
    pure (sl.wrG d (f (sl.gv d) (sl.gv a) (sl.gv b))).advance

/-- The 64-bit sign extension of a word's low 32 bits. -/
def sext32 (x : Word) : Word := (x.extractLsb' 0 32).signExtend 64

/-- 1 or 0. -/
def boolWord (b : Bool) : Word := if b then 1 else 0

/-! ### Integer register operations (R155, R156) -/

/-- `add`. -/
def execAdd (d a b : BitVec 5) (s : State) : Host.Outcome State Fault Refusal := aluRR d a b (fun x y => x + y) s
/-- `sub`. -/
def execSub (d a b : BitVec 5) (s : State) : Host.Outcome State Fault Refusal := aluRR d a b (fun x y => x - y) s
/-- `and`. -/
def execAnd (d a b : BitVec 5) (s : State) : Host.Outcome State Fault Refusal := aluRR d a b (fun x y => x &&& y) s
/-- `or`. -/
def execOr (d a b : BitVec 5) (s : State) : Host.Outcome State Fault Refusal := aluRR d a b (fun x y => x ||| y) s
/-- `xor`. -/
def execXor (d a b : BitVec 5) (s : State) : Host.Outcome State Fault Refusal := aluRR d a b (fun x y => x ^^^ y) s
/-- `sll`: by b[5:0]. -/
def execSll (d a b : BitVec 5) (s : State) : Host.Outcome State Fault Refusal := aluRR d a b (fun x y => x <<< (y.toNat % 64)) s
/-- `srl`. -/
def execSrl (d a b : BitVec 5) (s : State) : Host.Outcome State Fault Refusal := aluRR d a b (fun x y => x >>> (y.toNat % 64)) s
/-- `sra`. -/
def execSra (d a b : BitVec 5) (s : State) : Host.Outcome State Fault Refusal :=
  aluRR d a b (fun x y => x.sshiftRight (y.toNat % 64)) s
/-- `slt`. -/
def execSlt (d a b : BitVec 5) (s : State) : Host.Outcome State Fault Refusal := aluRR d a b (fun x y => boolWord (x.slt y)) s
/-- `sltu`. -/
def execSltu (d a b : BitVec 5) (s : State) : Host.Outcome State Fault Refusal :=
  aluRR d a b (fun x y => boolWord (decide (x < y))) s
/-- `min`. -/
def execMin (d a b : BitVec 5) (s : State) : Host.Outcome State Fault Refusal :=
  aluRR d a b (fun x y => if x.slt y then x else y) s
/-- `max`. -/
def execMax (d a b : BitVec 5) (s : State) : Host.Outcome State Fault Refusal :=
  aluRR d a b (fun x y => if x.slt y then y else x) s
/-- `minu`. -/
def execMinu (d a b : BitVec 5) (s : State) : Host.Outcome State Fault Refusal := aluRR d a b (fun x y => if x < y then x else y) s
/-- `maxu`. -/
def execMaxu (d a b : BitVec 5) (s : State) : Host.Outcome State Fault Refusal := aluRR d a b (fun x y => if x < y then y else x) s

/-- The number of one bits among the low `n` bits. -/
def popCount (x : Nat) : Nat → Nat
  | 0 => 0
  | n + 1 => (if x.testBit n then 1 else 0) + popCount x n

/-- The number of trailing zero bits within `n` bits from bit `i` on. -/
def trailingZeros (x i : Nat) : Nat → Nat
  | 0 => 0
  | n + 1 => if x.testBit i then 0 else 1 + trailingZeros x (i + 1) n

/-- The number of leading zero bits of an `n`-bit value. -/
def leadingZeros (x : Nat) : Nat → Nat
  | 0 => 0
  | n + 1 => if x.testBit n then 0 else 1 + leadingZeros x n

/-- `clz`. -/
def execClz (d a : BitVec 5) (s : State) : Host.Outcome State Fault Refusal := aluR d a (fun x => word (leadingZeros x.toNat 64)) s
/-- `ctz`. -/
def execCtz (d a : BitVec 5) (s : State) : Host.Outcome State Fault Refusal := aluR d a (fun x => word (trailingZeros x.toNat 0 64)) s
/-- `popc`. -/
def execPopc (d a : BitVec 5) (s : State) : Host.Outcome State Fault Refusal := aluR d a (fun x => word (popCount x.toNat 64)) s

/-- Length field n of R156, where 0 means 64, cut to what lies within the register at position p. -/
def fieldLen (b : Word) : Nat := min (if fld b 6 6 = 0 then 64 else fld b 6 6) (64 - fld b 0 6)

/-- `bext`. -/
def execBext (d a b : BitVec 5) (s : State) : Host.Outcome State Fault Refusal :=
  aluRR d a b (fun x y => word (fld x (fld y 0 6) (fieldLen y))) s
/-- `bins`. -/
def execBins (d a b : BitVec 5) (s : State) : Host.Outcome State Fault Refusal :=
  aluDRR d a b (fun old x y =>
    let m : Word := word (2 ^ fieldLen y - 1) <<< fld y 0 6
    (old &&& ~~~m) ||| ((x <<< fld y 0 6) &&& m)) s
/-- `csel`. -/
def execCsel (d a b : BitVec 5) (s : State) : Host.Outcome State Fault Refusal :=
  aluDRR d a b (fun old x y => if old ≠ 0 then x else y) s

/-- `add.w`. -/
def execAddW (d a b : BitVec 5) (s : State) : Host.Outcome State Fault Refusal := aluRR d a b (fun x y => sext32 (x + y)) s
/-- `sub.w`. -/
def execSubW (d a b : BitVec 5) (s : State) : Host.Outcome State Fault Refusal := aluRR d a b (fun x y => sext32 (x - y)) s
/-- `sll.w`: by b[4:0]. -/
def execSllW (d a b : BitVec 5) (s : State) : Host.Outcome State Fault Refusal :=
  aluRR d a b (fun x y => sext32 (x <<< (y.toNat % 32))) s
/-- `srl.w`. -/
def execSrlW (d a b : BitVec 5) (s : State) : Host.Outcome State Fault Refusal :=
  aluRR d a b (fun x y => sext32 (word (x.toNat % 2 ^ 32) >>> (y.toNat % 32))) s
/-- `sra.w`. -/
def execSraW (d a b : BitVec 5) (s : State) : Host.Outcome State Fault Refusal :=
  aluRR d a b (fun x y => (sext32 x).sshiftRight (y.toNat % 32)) s

/-! ### Multiply and divide (R157) -/

/-- `mul`. -/
def execMul (d a b : BitVec 5) (s : State) : Host.Outcome State Fault Refusal := aluRR d a b (fun x y => x * y) s
/-- `mulh`. -/
def execMulh (d a b : BitVec 5) (s : State) : Host.Outcome State Fault Refusal :=
  aluRR d a b (fun x y => BitVec.ofInt 64 (x.toInt * y.toInt / 2 ^ 64)) s
/-- `mulhu`. -/
def execMulhu (d a b : BitVec 5) (s : State) : Host.Outcome State Fault Refusal :=
  aluRR d a b (fun x y => word (x.toNat * y.toNat / 2 ^ 64)) s
/-- `div`. -/
def execDiv (d a b : BitVec 5) (s : State) : Host.Outcome State Fault Refusal :=
  aluRR d a b (fun x y => if y = 0 then BitVec.allOnes 64 else BitVec.ofInt 64 (x.toInt.tdiv y.toInt)) s
/-- `divu`. -/
def execDivu (d a b : BitVec 5) (s : State) : Host.Outcome State Fault Refusal :=
  aluRR d a b (fun x y => if y = 0 then BitVec.allOnes 64 else word (x.toNat / y.toNat)) s
/-- `rem`. -/
def execRem (d a b : BitVec 5) (s : State) : Host.Outcome State Fault Refusal :=
  aluRR d a b (fun x y => if y = 0 then x else BitVec.ofInt 64 (x.toInt.tmod y.toInt)) s
/-- `remu`. -/
def execRemu (d a b : BitVec 5) (s : State) : Host.Outcome State Fault Refusal :=
  aluRR d a b (fun x y => if y = 0 then x else word (x.toNat % y.toNat)) s
/-- `mul.w`. -/
def execMulW (d a b : BitVec 5) (s : State) : Host.Outcome State Fault Refusal := aluRR d a b (fun x y => sext32 (x * y)) s

/-! ### Immediate forms (R158) -/

/-- `addi`. -/
def execAddi (d a : BitVec 5) (i : BitVec 16) (s : State) : Host.Outcome State Fault Refusal :=
  aluR d a (fun x => x + i.signExtend 64) s
/-- `andi`. -/
def execAndi (d a : BitVec 5) (i : BitVec 16) (s : State) : Host.Outcome State Fault Refusal :=
  aluR d a (fun x => x &&& i.setWidth 64) s
/-- `ori`. -/
def execOri (d a : BitVec 5) (i : BitVec 16) (s : State) : Host.Outcome State Fault Refusal :=
  aluR d a (fun x => x ||| i.setWidth 64) s
/-- `xori`. -/
def execXori (d a : BitVec 5) (i : BitVec 16) (s : State) : Host.Outcome State Fault Refusal :=
  aluR d a (fun x => x ^^^ i.setWidth 64) s
/-- `slli`. -/
def execSlli (d a : BitVec 5) (n : BitVec 6) (s : State) : Host.Outcome State Fault Refusal := aluR d a (fun x => x <<< n.toNat) s
/-- `srli`. -/
def execSrli (d a : BitVec 5) (n : BitVec 6) (s : State) : Host.Outcome State Fault Refusal := aluR d a (fun x => x >>> n.toNat) s
/-- `srai`. -/
def execSrai (d a : BitVec 5) (n : BitVec 6) (s : State) : Host.Outcome State Fault Refusal :=
  aluR d a (fun x => x.sshiftRight n.toNat) s
/-- `lui`. -/
def execLui (d : BitVec 5) (i : BitVec 21) (s : State) : Host.Outcome State Fault Refusal :=
  .next (s.setMe (s.me.wrG d (i.signExtend 64 <<< 16)).advance)
/-- `addpc`: pc is the address of the instruction itself. -/
def execAddpc (d : BitVec 5) (i : BitVec 21) (s : State) : Host.Outcome State Fault Refusal :=
  .next (s.setMe (s.me.wrG d (s.me.pc + (i.signExtend 64 <<< 2))).advance)
/-- `slti`. -/
def execSlti (d a : BitVec 5) (i : BitVec 16) (s : State) : Host.Outcome State Fault Refusal :=
  aluR d a (fun x => boolWord (x.slt (i.signExtend 64))) s

/-! ### Branches and jumps (R159–R161) -/

/-- The target of a displacement of `n` bits, in words. -/
def Slot.target {n : Nat} (sl : Slot) (d : BitVec n) : Word := sl.pc + (d.signExtend 64 <<< 2)

/-- Goes to the target if `t` holds, else on. -/
def Slot.branch (sl : Slot) (d : BitVec 12) (t : Bool) : Slot := if t then sl.jump (sl.target d) else sl.advance

/-- A branch that compares registers. -/
def branchIf (a b : BitVec 5) (d : BitVec 12) (f : Word → Word → Bool) (s : State) : Host.Outcome State Fault Refusal :=
  runSlot s do
    let sl ← s.me.gate [.g a, .g b]
    pure (sl.branch d (f (sl.gv a) (sl.gv b)))

/-- `b.eq`. -/
def execBEq (a b : BitVec 5) (d : BitVec 12) (s : State) : Host.Outcome State Fault Refusal := branchIf a b d (fun x y => decide (x = y)) s
/-- `b.ne`. -/
def execBNe (a b : BitVec 5) (d : BitVec 12) (s : State) : Host.Outcome State Fault Refusal := branchIf a b d (fun x y => decide (x ≠ y)) s
/-- `b.lt`. -/
def execBLt (a b : BitVec 5) (d : BitVec 12) (s : State) : Host.Outcome State Fault Refusal := branchIf a b d (fun x y => x.slt y) s
/-- `b.ge`. -/
def execBGe (a b : BitVec 5) (d : BitVec 12) (s : State) : Host.Outcome State Fault Refusal := branchIf a b d (fun x y => !x.slt y) s
/-- `b.ltu`. -/
def execBLtu (a b : BitVec 5) (d : BitVec 12) (s : State) : Host.Outcome State Fault Refusal := branchIf a b d (fun x y => decide (x < y)) s
/-- `b.geu`. -/
def execBGeu (a b : BitVec 5) (d : BitVec 12) (s : State) : Host.Outcome State Fault Refusal := branchIf a b d (fun x y => decide (y ≤ x)) s
/-- `b.vs`. -/
def execBVs (d : BitVec 12) (s : State) : Host.Outcome State Fault Refusal := .next (s.setMe (s.me.branch d s.me.flagV))
/-- `b.vc`. -/
def execBVc (d : BitVec 12) (s : State) : Host.Outcome State Fault Refusal := .next (s.setMe (s.me.branch d (!s.me.flagV)))

/-- `j`. -/
def execJ (d : BitVec 25) (s : State) : Host.Outcome State Fault Refusal := .next (s.setMe (s.me.jump (s.me.target d)))
/-- `jal`: g31 := pc + 4. -/
def execJal (d : BitVec 25) (s : State) : Host.Outcome State Fault Refusal :=
  .next (s.setMe ((s.me.wrG 31 (s.me.pc + 4)).jump (s.me.target d)))
/-- `jalr`: the target is computed before d is written. -/
def execJalr (d a : BitVec 5) (i : BitVec 16) (s : State) : Host.Outcome State Fault Refusal :=
  runSlot s do
    let sl ← s.me.gate [.g a]
    pure ((sl.wrG d (sl.pc + 4)).jump (align4 (sl.gv a + (i.signExtend 64 <<< 2))))

/-! ### Scalar floating point (R163–R167) -/

/-- The FP32 value of a register (R163). -/
def lowF (x : Word) : F32 := x.extractLsb' 0 32

/-- The end of a scalar floating instruction: its flags or its fault, then its result. -/
def Slot.fpEnd (sl : Slot) (d : BitVec 5) (r : Word × Fl) : Except Stop Slot := do
  let sl ← sl.fpDone [(0, r.2)]
  pure (sl.wrG d r.1).advance

/-- A correctly rounded FP32 result (R145, R150, R152). -/
def Slot.rounded (sl : Slot) (x : Exact) : Word × Fl := let r := Fmt.f32.result sl.rm sl.fzo x; (word r.1, r.2)

/-- An FP32 operation on gA and gB. -/
def fpRR (d a b : BitVec 5) (f : Slot → F32 → F32 → Word × Fl) (s : State) : Host.Outcome State Fault Refusal :=
  runSlot s do
    let sl ← s.me.gate [.g a, .g b]
    sl.fpEnd d (f sl (lowF (sl.gv a)) (lowF (sl.gv b)))

/-- An FP32 operation on gA. -/
def fpR (d a : BitVec 5) (f : Slot → F32 → Word × Fl) (s : State) : Host.Outcome State Fault Refusal :=
  runSlot s do
    let sl ← s.me.gate [.g a]
    sl.fpEnd d (f sl (lowF (sl.gv a)))

/-- `fadd`. -/
def execFadd (d a b : BitVec 5) (s : State) : Host.Outcome State Fault Refusal :=
  fpRR d a b (fun sl x y => sl.rounded (addExact sl.rm (num x) (num y))) s
/-- `fsub`. -/
def execFsub (d a b : BitVec 5) (s : State) : Host.Outcome State Fault Refusal :=
  fpRR d a b (fun sl x y => sl.rounded (addExact sl.rm (num x) (num y).neg)) s
/-- `fmul`. -/
def execFmul (d a b : BitVec 5) (s : State) : Host.Outcome State Fault Refusal :=
  fpRR d a b (fun sl x y => sl.rounded (mulExact (num x) (num y))) s
/-- `fdiv`. -/
def execFdiv (d a b : BitVec 5) (s : State) : Host.Outcome State Fault Refusal :=
  fpRR d a b (fun sl x y => sl.rounded (divExact (num x) (num y))) s
/-- `fsqrt`. -/
def execFsqrt (d a : BitVec 5) (s : State) : Host.Outcome State Fault Refusal :=
  fpR d a (fun sl x => sl.rounded (sqrtExact (num x))) s
/-- `fexp2`. -/
def execFexp2 (d a : BitVec 5) (s : State) : Host.Outcome State Fault Refusal :=
  fpR d a (fun sl x => sl.rounded (exp2Num (num x))) s
/-- `frcp`. -/
def execFrcp (d a : BitVec 5) (s : State) : Host.Outcome State Fault Refusal :=
  fpR d a (fun sl x => sl.rounded (divExact (.fin false 1 0) (num x))) s

/-- `fmin`. -/
def execFmin (d a b : BitVec 5) (s : State) : Host.Outcome State Fault Refusal :=
  fpRR d a b (fun sl x y => let r := flushTiny sl.fzo (fminmax false x y); (r.1.setWidth 64, r.2)) s
/-- `fmax`. -/
def execFmax (d a b : BitVec 5) (s : State) : Host.Outcome State Fault Refusal :=
  fpRR d a b (fun sl x y => let r := flushTiny sl.fzo (fminmax true x y); (r.1.setWidth 64, r.2)) s

/-- A comparison of two values of which none is NaN: their sign as an order. -/
def numLess (x y : Num) : Bool :=
  match x, y with
  | .inf a, .inf b => a && !b
  | .inf a, .fin _ _ _ => a
  | .fin _ _ _, .inf b => !b
  | .fin a m e, .fin b n g => decide (scaled a m e (min e g) < scaled b n g (min e g))
  | _, _ => false

/-- Whether two values are equal; the zeros are, a NaN never is. -/
def numEq (x y : Num) : Bool := !x.isNan && !y.isNan && !numLess x y && !numLess y x

/-- The comparisons (R165), with NV. -/
def fcmpEq (x y : Num) : Bool × Fl := (numEq x y, nvIf (x.isSig || y.isSig))
/-- Less than. -/
def fcmpLt (x y : Num) : Bool × Fl := (numLess x y, nvIf (x.isNan || y.isNan))
/-- Less than or equal. -/
def fcmpLe (x y : Num) : Bool × Fl := (numLess x y || numEq x y, nvIf (x.isNan || y.isNan))

/-- `feq`. -/
def execFeq (d a b : BitVec 5) (s : State) : Host.Outcome State Fault Refusal :=
  fpRR d a b (fun _ x y => let r := fcmpEq (num x) (num y); (boolWord r.1, r.2)) s
/-- `flt`. -/
def execFlt (d a b : BitVec 5) (s : State) : Host.Outcome State Fault Refusal :=
  fpRR d a b (fun _ x y => let r := fcmpLt (num x) (num y); (boolWord r.1, r.2)) s
/-- `fle`. -/
def execFle (d a b : BitVec 5) (s : State) : Host.Outcome State Fault Refusal :=
  fpRR d a b (fun _ x y => let r := fcmpLe (num x) (num y); (boolWord r.1, r.2)) s

/-- The class bit of an FP32 pattern (R165). -/
def fclassBit (x : F32) : Nat :=
  let s := x.getLsbD 31
  let e := x.toNat / 2 ^ 23 % 256
  let m := x.toNat % 2 ^ 23
  if e = 255 then (if m = 0 then (if s then 0 else 7) else if m < 2 ^ 22 then 8 else 9)
  else if e = 0 then (if m = 0 then (if s then 3 else 4) else if s then 2 else 5)
  else if s then 1 else 6

/-- `fclass`. -/
def execFclass (d a : BitVec 5) (s : State) : Host.Outcome State Fault Refusal :=
  aluR d a (fun x => word (2 ^ fclassBit (lowF x))) s

/-- The floating format of a code of R163, and its width in bits; none is an integer. -/
def scalarFmt (c : Nat) : Option (Fmt × Nat) :=
  match c with
  | 0 => some (.f32, 32)
  | 1 => some (.bf16, 16)
  | 2 => some (.f16, 16)
  | 3 => some (.e5m2, 8)
  | 4 => some (.e4m3, 8)
  | _ => none

/-- The integer value of a register in format 5, 6 or 7. -/
def scalarInt (c : Nat) (x : Word) : Int :=
  match c with
  | 5 => x.toInt
  | 6 => (x.extractLsb' 0 32).toInt
  | _ => ((x.toNat % 2 ^ 32 : Nat) : Int)

/-- The range of an integer format. -/
def intRange (c : Nat) : Int × Int :=
  match c with
  | 5 => (-(2 ^ 63), 2 ^ 63 - 1)
  | 6 => (-(2 ^ 31), 2 ^ 31 - 1)
  | _ => (0, 2 ^ 32 - 1)

/-- A value clamped to a range. -/
def clampInt (lo hi x : Int) : Int := if x < lo then lo else if hi < x then hi else x

/-- The conversion of `fcvt` (R166). -/
def Slot.fcvt (sl : Slot) (f t : Nat) (x : Word) : Word × Fl :=
  let r := intRange t
  match scalarFmt f, scalarFmt t with
  | some (p, w), some (q, _) =>
    let o := q.conv (if t = 0 then sl.rm else 0) (sl.fzo && t = 0) (p.decodeFlush (sl.fzi && decide (3 ≤ f)) (x.toNat % 2 ^ w))
    (word o.1, o.2)
  | some (p, w), none =>
    let o := toInt r.1 r.2 (p.decodeFlush (sl.fzi && decide (3 ≤ f)) (x.toNat % 2 ^ w))
    (BitVec.ofInt 64 o.1, o.2)
  | none, some (q, _) =>
    let o := q.conv (if t = 0 then sl.rm else 0) (sl.fzo && t = 0) (ofInt (scalarInt f x))
    (word o.1, o.2)
  | none, none => (BitVec.ofInt 64 (clampInt r.1 r.2 (scalarInt f x)), 0)

/-- `fcvt`. -/
def execFcvt (d a : BitVec 5) (f t : BitVec 3) (s : State) : Host.Outcome State Fault Refusal :=
  runSlot s do
    let sl ← s.me.gate [.g a]
    sl.fpEnd d (sl.fcvt f.toNat t.toNat (sl.gv a))

/-- A fused operation on three registers (R167). -/
def fpRRR (d a b c : BitVec 5) (f : Slot → Num → Num → Num → Exact) (s : State) : Host.Outcome State Fault Refusal :=
  runSlot s do
    let sl ← s.me.gate [.g a, .g b, .g c]
    sl.fpEnd d (sl.rounded (f sl (num (lowF (sl.gv a))) (num (lowF (sl.gv b))) (num (lowF (sl.gv c)))))

/-- `ffma`. -/
def execFfma (d a b c : BitVec 5) (s : State) : Host.Outcome State Fault Refusal :=
  fpRRR d a b c (fun sl x y z => fmaExact sl.rm x y z) s
/-- `ffms`. -/
def execFfms (d a b c : BitVec 5) (s : State) : Host.Outcome State Fault Refusal :=
  fpRRR d a b c (fun sl x y z => fmaExact sl.rm x y z.neg) s
/-- `fnma`. -/
def execFnma (d a b c : BitVec 5) (s : State) : Host.Outcome State Fault Refusal :=
  fpRRR d a b c (fun sl x y z => fmaExact sl.rm x.neg y z) s

/-! ### Philox-4×32-10 (R168) -/

/-- `n` rounds on (x0, x1, x2, x3) under (k0, k1). -/
def philox : Nat → BitVec 32 × BitVec 32 × BitVec 32 × BitVec 32 → BitVec 32 → BitVec 32 →
    BitVec 32 × BitVec 32 × BitVec 32 × BitVec 32
  | 0, x, _, _ => x
  | n + 1, (x0, x1, x2, x3), k0, k1 =>
    let p : Word := 0xD2511F53 * x0.setWidth 64
    let q : Word := 0xCD9E8D57 * x2.setWidth 64
    philox n (q.extractLsb' 32 32 ^^^ x1 ^^^ k0, q.extractLsb' 0 32, p.extractLsb' 32 32 ^^^ x3 ^^^ k1, p.extractLsb' 0 32)
      (k0 + 0x9E3779B9) (k1 + 0xBB67AE85)

/-- The ten rounds on key a and counter (b, 0). -/
def philox10 (a b : Word) : BitVec 32 × BitVec 32 × BitVec 32 × BitVec 32 :=
  philox 10 (b.extractLsb' 0 32, b.extractLsb' 32 32, 0, 0) (a.extractLsb' 0 32) (a.extractLsb' 32 32)

/-- `rnd.lo`. -/
def execRndLo (d a b : BitVec 5) (s : State) : Host.Outcome State Fault Refusal :=
  aluRR d a b (fun x y => let r := philox10 x y; r.2.1 ++ r.1) s
/-- `rnd.hi`. -/
def execRndHi (d a b : BitVec 5) (s : State) : Host.Outcome State Fault Refusal :=
  aluRR d a b (fun x y => let r := philox10 x y; r.2.2.2 ++ r.2.2.1) s

end Sys2Proof.Machine
end

