-- ==== Sys2Proof/Machine/Transform.lean ====
section
/-! DEFINITION. The bit-buffer of the transform slot and its instructions (R213–R224). -/

namespace Sys2Proof.Machine

/-- R83, check 4: slot 7 of a compute core only. -/
def State.needSlot7 (s : State) (i : Instr) : Except Stop Unit :=
  if coreKind s.curCore ≠ .compute ∨ s.curSlot ≠ 7 then throw (.trap 0x04 ((encode i).setWidth 64)) else pure ()

/-- Whether a physical address lies in the LM of the executing core. -/
def State.ownLm (s : State) (phys : Nat) : Bool :=
  decide (lmBase + s.curCore * 524288 ≤ phys) && decide (phys < lmBase + (s.curCore + 1) * 524288)

/-- An access of the bit-buffer or to the queue word: it must lie in the core's own LM (R214, R218). -/
def State.ownAccess (s : State) (acc : Access) (n : Nat) (va : Word) : Except Stop (Nat × State) := do
  let (a, s) ← s.reach (s.req acc n) va
  if s.ownLm a.phys = false then throw (.trap 0x06 va)
  pure (a.phys, s)

/-! ### The state of the bit-buffer (R216) -/

def Slot.iaddr (sl : Slot) : Nat := fld (sl.csrv 0x050) 0 52
def Slot.ipos (sl : Slot) : Nat := fld (sl.csrv 0x051) 0 32
def Slot.ilen (sl : Slot) : Nat := fld (sl.csrv 0x051) 32 32
def Slot.oaddr (sl : Slot) : Nat := fld (sl.csrv 0x052) 0 52
def Slot.onum (sl : Slot) : Nat := fld (sl.csrv 0x052) 52 6
/-- The pending bits, those above n − 1 taken as 0. -/
def Slot.oacc (sl : Slot) : Nat := fld (sl.csrv 0x053) 0 sl.onum

/-- IPOS := p. -/
def Slot.setIpos (sl : Slot) (p : Nat) : Slot := sl.setCsr 0x051 (word (sl.ilen * 2 ^ 32 + p % 2 ^ 32))

/-- OADDR, n and OACC. -/
def Slot.setOut (sl : Slot) (oaddr n acc : Nat) : Slot :=
  (sl.setCsr 0x052 (word (n * 2 ^ 52 + oaddr % 2 ^ 52))).setCsr 0x053 (word acc)

/-- IPOS goes to `p`, or to ILEN with V where the stream ends before it (R221, R222). -/
def Slot.toPos (sl : Slot) (p : Nat) : Slot := if sl.ilen < p then (sl.setIpos sl.ilen).setV else sl.setIpos p

/-! ### Streams (R217, R218) -/

/-- The input word at `phys` as `lds.pkg` reads it: one that has been read for this instruction, or what memory holds; none while it is EMPTY
or others reached it before (R65, R217). -/
def State.inWord (s : State) (phys : Nat) : Option (Word × Presence) :=
  match s.me.words.find? (fun e => decide (e.1 = phys)) with
  | some e => some e.2
  | none =>
    if s.presAt phys = .empty ∨ s.queuedBefore s.seq phys then none else some (word (s.peek phys 8), s.presAt phys)

/-- Reads `k` input words from word `i` on: while one must be waited for the instruction is parked, with the words before it read, and
reissues once it has come; a VOID one gives 0 bits and V. -/
def State.inWords (s : State) (i : Nat) : Nat → Except Stop (Nat × Bool × State)
  | 0 => pure (0, false, s)
  | k + 1 => do
    let (phys, s) ← s.ownAccess .read 8 (word (s.me.iaddr + 8 * i))
    match s.inWord phys with
    | none => throw (.read (.input phys) s.me.words)
    | some (x, p) => do
      let (rest, v, s) ← (s.setMe { s.me with words := (phys, x, p) :: s.me.words }).inWords (i + 1) k
      pure ((if p = .void then 0 else x.toNat) + 2 ^ 64 * rest, v || decide (p = .void), s)

/-- Stream bits p … p + n − 1, with V noted for a VOID word; bits from ILEN on are 0 and no word is read for them. -/
def State.streamBits (s : State) (p n : Nat) : Except Stop (Nat × State) :=
  let last := min (p + n) s.me.ilen
  if last ≤ p then pure (0, s)
  else do
    let (w, v, s) ← s.inWords (p / 64) ((last - 1) / 64 + 1 - p / 64)
    pure ((w >>> (p % 64)) % 2 ^ (last - p), if v then s.setMe s.me.setV else s)

/-- The checks of R218 on an output word. -/
def State.outPlace (s : State) (va : Word) : Except Stop (Nat × State) := s.ownAccess .write 8 va

/-! ### Instructions (R219–R223) -/

/-- `bs.attach`. -/
def execBsAttach (a b : BitVec 5) (s : State) : Host.Outcome State Fault Refusal :=
  run s do
    s.needSlot7 (.bsAttach a b)
    let sl ← s.me.gate [.g a, .g b]
    if (sl.gv a).toNat % 8 ≠ 0 then throw (.trap 0x05 (sl.gv a))
    let sl := (sl.setCsr 0x050 (word (fld (sl.gv a) 0 52))).setCsr 0x051 (sl.gv b <<< 32)
    pure (s.setMe sl.advance)

/-- `bs.oattach`. -/
def execBsOattach (a : BitVec 5) (s : State) : Host.Outcome State Fault Refusal :=
  run s do
    s.needSlot7 (.bsOattach a)
    let sl ← s.me.gate [.g a]
    if (sl.gv a).toNat % 8 ≠ 0 then throw (.trap 0x05 (sl.gv a))
    pure (s.setMe (sl.setOut (sl.gv a).toNat 0 0).advance)

/-- `bs.get`. -/
def execBsGet (b : BitVec 5) (n : BitVec 10) (s : State) : Host.Outcome State Fault Refusal :=
  run s do
    s.needSlot7 (.bsGet b n)
    let p := s.me.ipos
    let (v, s) ← s.streamBits p n.toNat
    pure (s.setMe ((s.me.toPos (p + n.toNat)).wrG b (word v)).advance)

/-- `bs.peek`. -/
def execBsPeek (b : BitVec 5) (n : BitVec 10) (s : State) : Host.Outcome State Fault Refusal :=
  run s do
    s.needSlot7 (.bsPeek b n)
    let (v, s) ← s.streamBits s.me.ipos n.toNat
    let sl := if s.me.ilen < s.me.ipos + n.toNat then s.me.setV else s.me
    pure (s.setMe (sl.wrG b (word v)).advance)

/-- `bs.skip`. -/
def execBsSkip (a : BitVec 5) (n : BitVec 10) (s : State) : Host.Outcome State Fault Refusal :=
  run s do
    s.needSlot7 (.bsSkip a n)
    let sl ← s.me.gate [.g a]
    pure (s.setMe (sl.toPos (sl.ipos + (sl.gv a).toNat + n.toNat)).advance)

/-- `bs.vlc`: a code whose entry gives length 0, or one above m, is invalid and keeps IPOS. -/
def execBsVlc (a b : BitVec 5) (m : BitVec 10) (s : State) : Host.Outcome State Fault Refusal :=
  run s do
    s.needSlot7 (.bsVlc a b m)
    let sl ← s.me.gate [.g a]
    if (sl.gv a).toNat % 4 ≠ 0 then throw (.trap 0x05 (sl.gv a))
    let p := sl.ipos
    let (w, s) ← (s.setMe sl).streamBits p m.toNat
    let (phys, s) ← s.ownAccess .read 4 (sl.gv a + word (4 * w))
    let e := s.peek phys 4
    let l := e / 65536 % 32
    if l = 0 ∨ m.toNat < l then pure (s.setMe (s.me.setV.wrG b (BitVec.allOnes 64)).advance)
    else pure (s.setMe ((s.me.toPos (p + l)).wrG b (word (e % 65536))).advance)

/-- `bs.put`: a full word of 64 bits is written. -/
def execBsPut (a : BitVec 5) (k : BitVec 10) (s : State) : Host.Outcome State Fault Refusal :=
  run s do
    s.needSlot7 (.bsPut a k)
    let sl ← s.me.gate [.g a]
    let acc := sl.oacc + (sl.gv a).toNat % 2 ^ k.toNat * 2 ^ sl.onum
    let n := sl.onum + k.toNat
    if n < 64 then pure (s.setMe (sl.setOut sl.oaddr n acc).advance)
    else
      let (phys, s) ← (s.setMe sl).outPlace (word sl.oaddr)
      let s := s.pokeWord phys (word acc) .full
      pure (s.setMe (s.me.setOut (sl.oaddr + 8) (n - 64) (acc / 2 ^ 64)).advance)

/-- `bs.flush`: both addresses are checked before either word is written. -/
def execBsFlush (a : BitVec 5) (s : State) : Host.Outcome State Fault Refusal :=
  run s do
    s.needSlot7 (.bsFlush a)
    let sl ← s.me.gate [.g a]
    let s := s.setMe sl
    let (p1, s) ← if sl.onum = 0 then pure (0, s) else s.outPlace (word sl.oaddr)
    let (p2, s) ← if a = 0 then pure (0, s) else s.outPlace (sl.gv a)
    let s := if sl.onum = 0 then s
      else
        let s := s.pokeWord p1 (word sl.oacc) .full
        s.setMe (s.me.setOut (sl.oaddr + 8) 0 0)
    let s := if a = 0 then s else s.pokeWord p2 (word (8 * sl.oaddr + sl.onum)) .full
    pure (s.setMe s.me.advance)

end Sys2Proof.Machine
end

