-- ==== Sys2Proof/Machine/SystemInstr.lean ====
section
/-! DEFINITION. The system major (R169–R177) but for its CSR instructions, and the faults that come before an instruction:
illegal words (R82) and the cycle budget (R134). -/

namespace Sys2Proof.Machine

/-- `trap`. -/
def execTrap (n : BitVec 10) (s : State) : Host.Outcome State Fault Refusal := run s (.error (.trap 0x0F (n.setWidth 64)))

/-- `ebreak`. -/
def execEbreak (s : State) : Host.Outcome State Fault Refusal := run s (.error (.trap 0x0E 0))

/-- `eret` (R171). -/
def execEret (s : State) : Host.Outcome State Fault Refusal :=
  run s do
    s.needS .eret
    pure (s.setMe s.me.eret)

/-- The address of the queue word must pass its checks as `wait` or `halt` issues (R214); a threshold of 0 disables it. -/
def State.queueCheck (s : State) : Except Stop State :=
  let q := s.me.csrv 0x058
  if fld q 52 12 = 0 then pure s
  else do
    let (_, s) ← s.ownAccess .read 8 (word (fld q 3 49 * 8))
    pure s

/-- Whether the executing slot is a transform slot. -/
def State.transformSlot (s : State) : Bool := decide (coreKind s.curCore = .compute) && decide (s.curSlot = 7)

/-- Whether the thread comes back from a `wait` whose event has occurred. -/
def Slot.waited (sl : Slot) : Bool := sl.resuming && (match sl.wait with | .event _ _ _ => true | _ => false)

/-- Whether the sources of the `wait` were VOID as it issued. -/
def Slot.waitVoid (sl : Slot) : Bool := match sl.wait with | .event _ _ v => v | _ => false

/-- The end of a `wait` by its event: V is what its sources were as it issued, and the edge is used up (R154, R173). -/
def Slot.waitEnds (sl : Slot) : Slot := ({ if sl.waitVoid then sl.setV else sl with delivered := false } : Slot).advance

/-- `wait` (R173): both registers are read as it issues, and an event that comes later ends it with nothing read again. -/
def execWait (a b : BitVec 5) (s : State) : Host.Outcome State Fault Refusal :=
  run s do
    if s.me.waited then return s.setMe s.me.waitEnds
    let sl ← s.me.gate [.g a, .g b]
    let m := sl.gv a
    let s := s.setMe sl
    let queue := s.transformSlot && bit m 1
    let s ← if s.transformSlot then s.queueCheck else pure s
    if (bit m 0 || queue || bit m 2) = false ∨ s.eventOver s.curCore s.curSlot m (sl.gv b) = true then
      pure (s.setMe s.me.advance)
    else throw (.park (.event m (sl.gv b) (decide (s.me.presOf (.g a) = .void) || decide (s.me.presOf (.g b) = .void))))

/-- `halt` (R174): waits for the thread's engine commands; then the thread retires and its slot is FREE. In slot 7 it waits
for the queue event instead and restarts at the transform entry (R214). -/
def execHalt (s : State) : Host.Outcome State Fault Refusal :=
  run s do
    let s ← if s.transformSlot then s.queueCheck else pure s
    if s.busy s.curCore s.curSlot then throw (.park (.commands none 0 none))
    if s.transformSlot then
      pure (if s.queueEvent s.me then s.setMe (s.me.jump s.me.entry) else s.parkMe .queueEvent)
    else pure (s.leaveSlot s.curCore s.curSlot .halt)

/-- `yield` (R175): the slot gives up its next own turn. -/
def execYield (s : State) : Host.Outcome State Fault Refusal :=
  .next (s.setMe { s.me.advance with yielded := true })

/-- Whether `tlbinv` removes a cached page (R177). -/
def invalidates (k : Nat) (tenant : BitVec 8) (a : Word) (p : Page) : Bool :=
  match k with
  | 0 => p.covers tenant a.toNat
  | 1 => decide (p.tenant = tenant)
  | 2 => decide (p.tenant = a.setWidth 8)
  | _ => true

/-- The slots with an access under way that uses a translation which `gone` names, with the cycle in which each issued (R33). -/
def State.users (s : State) (gone : Page → Bool) : List (Nat × Nat) :=
  s.slots.filterMap (fun e =>
    if e.1 ≠ s.curCore * 16 + s.curSlot ∧ e.2.outstanding ∧ e.2.kept.any (fun a => gone a.page) then e.2.lastIssue.map (fun c => (e.1, c)) else none)

/-- The thread comes back from the wait for the uses of what its `tlbinv` removed. -/
def Slot.invalidated (sl : Slot) : Bool := sl.resuming && (match sl.wait with | .tlb _ => true | _ => false)

/-- Whether the tables of a removed translation's tenant still map its virtual address of the byte at `a` to it. -/
def State.stillMaps (s : State) (p : Page) (a : Nat) : Bool :=
  let r := (s.tenantAt p.tenant.toNat).roots
  let hyp := decide (p.tenant = 0xFF)
  let w : Who := { s.who with
    mode := if hyp then 3 else 1, tenant := p.tenant, s1 := if hyp then s.me.csrv 0x180 else r.s1root, s2 := r.s2root }
  match s.walkPage w .read (word (p.vpage * 2 ^ p.bits + (a - p.base))) with
  | .ok q => decide (q.base ≤ a) && decide (a < q.base + 2 ^ q.bits)
  | .error _ => false

/-- The hypervisor has unmapped a quarantined page once it removes a cached translation that its tables no longer give (R51; log entry
50). -/
def State.unmapped (s : State) (gone : List Page) : State :=
  if s.me.mode ≠ 3 then s
  else { s with quarantine := s.quarantine.filter (fun a =>
    !gone.any (fun p => decide (p.base ≤ a) && decide (a < p.base + 2 ^ p.bits) && !s.stillMaps p a)) }

/-- `tlbinv`: it completes once every access that used a removed translation has been performed (R33). -/
def execTlbinv (a : BitVec 5) (k : BitVec 2) (s : State) : Host.Outcome State Fault Refusal :=
  run s do
    s.needS (.tlbinv a k)
    if 2 ≤ k.toNat then s.needH (.tlbinv a k)
    let sl ← s.me.gate [.g a]
    if sl.invalidated then return s.setMe sl.advance
    let gone := invalidates k.toNat sl.tenant (sl.gv a)
    let tlb := (s.tlb.map (fun (e : Nat × List Page) => (e.1, e.2.filter (fun p => !gone p)))).filter (fun e => decide (e.2 ≠ []))
    let t := (({ s with tlb := tlb } : State).setMe sl).unmapped ((s.tlb.map (·.2)).flatten.filter gone)
    pure (if s.users gone = [] then t.setMe sl.advance else t.parkMe (.tlb (s.users gone)))

/-- `rempty.g`: the value is kept and not read (R176). -/
def execRemptyG (b : BitVec 5) (s : State) : Host.Outcome State Fault Refusal :=
  .next (s.setMe (s.me.setG b (s.me.gp b).1 .empty).advance)

/-- `rempty.v`. -/
def execRemptyV (v : BitVec 4) (s : State) : Host.Outcome State Fault Refusal :=
  .next (s.setMe (s.me.setVr v (s.me.vp v).1 .empty).advance)

/-- A word that is no instruction (R82): its fault, with nothing read. An immediate of the bit-buffer out of range faults in slot 7 of a
compute core; elsewhere the slot is the fault, as it is checked before (R83). -/
def execIllegalInstruction (r : Reject) (s : State) : Host.Outcome State Fault Refusal :=
  match r with
  | .immediate w => run s (.error (.trap (if s.transformSlot then 0x02 else 0x04) (w.setWidth 64)))
  | .reserved w => run s (.error (.trap 0x01 (w.setWidth 64)))
  | .nonzeroField e => run s (.error (.trap 0x02 e))

/-- Fault 0x0D at an issue in mode U that the budget does not allow (R134); EVAL is ISSUED. -/
def execCycleBudgetFault (s : State) : Host.Outcome State Fault Refusal := run s (.error (.trap 0x0D (s.me.csrv 0x032)))

end Sys2Proof.Machine
end

