-- ==== Sys2Proof/Machine/Operands.lean ====
section
/-! DEFINITION. The operand forms of vector instructions: elements, governing and selecting masks (R122, R123, R125, R195,
R196), and the element accesses of vector memory instructions (R209–R212). -/

namespace Sys2Proof.Machine

/-! ### Elements (R122, R195) -/

/-- Element `j` of `w` bits. -/
def elem (v : VWord) (w j : Nat) : Nat := (v.toNat >>> (w * j)) % 2 ^ w

/-- The register with element `j` of `w` bits replaced. -/
def setElem (v : VWord) (w j x : Nat) : VWord :=
  (v &&& ~~~(BitVec.ofNat 1024 (2 ^ w - 1) <<< (w * j))) ||| (BitVec.ofNat 1024 (x % 2 ^ w) <<< (w * j))

/-- The register with the listed elements replaced; the others are kept. -/
def overlay (w : Nat) (v : VWord) (l : List (Nat × Nat)) : VWord := l.foldl (fun v e => setElem v w e.1 e.2) v

/-- The element width of an ew code. -/
def ewBits (e : BitVec 2) : Nat := 8 * 2 ^ e.toNat

/-- The active elements of `w` bits, in ascending order. -/
def actives (w : Nat) (m : BitVec 32) : List Nat := (List.range (1024 / w)).filter (fun j => m.getLsbD (j * w / 32))

/-- An element as a signed value. -/
def selem (v : VWord) (w j : Nat) : Int := sfield (elem v w j) w

/-- A signed value as an element code. -/
def codeOf (w : Nat) (x : Int) : Nat := (x % (2 ^ w : Nat)).toNat

/-- The destination as a source: it is one when a governing mask other than k0 stands (R125). -/
def destV (d : BitVec 4) (k : BitVec 3) : List Src := if k = 0 then [] else [.v d]

/-- A governed vector result: `f` gives each active element, the inactive ones keep the destination's (R195). -/
def governed (w : Nat) (srcs : List Src) (d : BitVec 4) (k : BitVec 3) (f : Slot → Nat → Nat) (s : State) :
    Host.Outcome State Fault Refusal :=
  runSlot s do
    let sl ← s.me.gate (srcs ++ [.k k] ++ destV d k)
    pure (sl.wrV d (overlay w (sl.vv d) ((actives w (sl.kv k)).map (fun j => (j, f sl j))))).advance

/-- A governed floating result, with the flags of its active elements (R150). -/
def governedFp (w : Nat) (srcs : List Src) (d : BitVec 4) (k : BitVec 3) (f : Slot → Nat → Nat × Fl) (s : State) :
    Host.Outcome State Fault Refusal :=
  runSlot s do
    let sl ← s.me.gate (srcs ++ [.k k] ++ destV d k)
    let r := (actives w (sl.kv k)).map (fun j => (j, f sl j))
    let t ← sl.fpDone (r.map (fun (e : Nat × Nat × Fl) => (e.1, e.2.2)))
    pure (t.wrV d (overlay w (sl.vv d) (r.map (fun (e : Nat × Nat × Fl) => (e.1, e.2.1))))).advance

/-- A mask result under a governing mask: bits that it does not select are kept (R201, R202). -/
def mergeMask (old m r : BitVec 32) : BitVec 32 := (old &&& ~~~m) ||| (r &&& m)

/-- The mask of the lanes whose elements all hold. -/
def laneMask (w : Nat) (holds : Nat → Bool) : BitVec 32 :=
  BitVec.ofNat 32 ((List.range 32).foldl (fun a i =>
    if (List.range (32 / w)).all (fun n => holds (i * (32 / w) + n)) then a + 2 ^ i else a) 0)

/-- A compare into a mask register. -/
def maskCompare (w : Nat) (d : BitVec 3) (a b : BitVec 4) (k : BitVec 3) (f : Slot → Nat → Bool × Fl) (s : State) :
    Host.Outcome State Fault Refusal :=
  runSlot s do
    let sl ← s.me.gate ([.v a, .v b, .k k] ++ (if k = 0 then [] else [.k d]))
    let t ← sl.fpDone ((actives w (sl.kv k)).map (fun j => (j, (f sl j).2)))
    pure (t.wrK d (mergeMask (sl.kv d) (sl.kv k) (laneMask w (fun j => (f sl j).1)))).advance

/-- A result in lane 0 with lanes 1–31 0 (R204). -/
def lane0 (x : Nat) : VWord := BitVec.ofNat 1024 (x % 2 ^ 32)

/-! ### Vector memory (R209–R212) -/

/-- An element's access, issued: its number and the access. -/
structure ElemAt where
  j : Nat
  acc : Acc

/-- The checks of R25 for each active element in turn, before any is performed (R212). -/
def State.accessAll (s : State) (acc : Access) (n : Nat) : List (Nat × Word) → Except Stop (List ElemAt × State)
  | [] => pure ([], s)
  | (j, va) :: t => do
    let (a, s) ← s.reach (s.req acc n) va
    let (l, s) ← s.accessAll acc n t
    pure ({ j := j, acc := a } :: l, s)

/-- Waits for the one reply of the instruction (R120): every element's access is issued, and each FAR and HOST one has a reply of its own.
The lowest element whose access fails decides (R187). -/
def State.landedAll (s : State) (acc : Access) (n : Nat) (all : List Acc) : List ElemAt → Except Stop Unit
  | [] => pure ()
  | e :: t => do
    s.landed (s.req acc n) e.acc all
    s.landedAll acc n all t

/-- Each element's access up to the point at which all are performed. -/
def State.reachAll (s : State) (acc : Access) (n : Nat) (l : List (Nat × Word)) : Except Stop (List ElemAt × State) := do
  let (es, s) ← s.accessAll acc n l
  s.landedAll acc n (es.map ElemAt.acc) es
  pure (es, s)

/-- Reads each element in turn. -/
def State.readAll (s : State) (n : Nat) : List ElemAt → List (Nat × Nat) × State
  | [] => ([], s)
  | e :: t =>
    let r := s.fetchBytes e.acc.page e.acc.phys n
    let u := r.2.readAll n t
    ((e.j, r.1) :: u.1, u.2)

/-- Stores each element in turn; of two that name one word the later remains (R211). -/
def State.writeAll (s : State) (n : Nat) (f : Nat → Nat) (l : List ElemAt) : State :=
  l.foldl (fun s e =>
    let s := s.putBytes s.who e.acc.page e.acc.phys n (f e.j)
    if e.acc.page.tgt = 5 then s.setMe { s.me with hostStores := true } else s) s

/-- A vector load of the active elements at the addresses `f` gives. -/
def vectorLoad (w : Nat) (srcs : List Src) (d : BitVec 4) (k : BitVec 3) (pre : Slot → List Nat → Except Stop Unit)
    (f : Slot → Nat → Word) (s : State) : Host.Outcome State Fault Refusal :=
  run s do
    let sl ← s.me.gate (srcs ++ [.k k] ++ destV d k)
    let act := actives w (sl.kv k)
    pre sl act
    let (l, s) ← (s.setMe sl).reachAll .read (w / 8) (act.map (fun j => (j, f sl j)))
    let r := s.readAll (w / 8) l
    pure (r.2.setMe (r.2.me.wrV d (overlay w (sl.vv d) r.1)).advance)

/-- A vector store of the active elements of vd. -/
def vectorStore (w : Nat) (srcs : List Src) (d : BitVec 4) (k : BitVec 3) (pre : Slot → List Nat → Except Stop Unit)
    (f : Slot → Nat → Word) (s : State) : Host.Outcome State Fault Refusal :=
  run s do
    let sl ← s.me.gate (srcs ++ [.k k, .v d])
    let act := actives w (sl.kv k)
    pre sl act
    let (l, s) ← (s.setMe sl).reachAll .write (w / 8) (act.map (fun j => (j, f sl j)))
    let s := s.writeAll (w / 8) (elem (sl.vv d) w) l
    pure (s.setMe s.me.advance)

/-- The alignment of a contiguous form, tested when an element is active (R209). -/
def blockAligned (a : BitVec 5) (sl : Slot) (act : List Nat) : Except Stop Unit :=
  if act ≠ [] ∧ (sl.gv a).toNat % 128 ≠ 0 then throw (.trap 0x05 (sl.gv a)) else pure ()

/-- No test of its own. -/
def noTest (_ : Slot) (_ : List Nat) : Except Stop Unit := pure ()

/-- The address of element `j` of a contiguous form. -/
def contigAddr (a : BitVec 5) (w : Nat) (sl : Slot) (j : Nat) : Word := sl.gv a + word (j * (w / 8))
/-- The address of element `j` of a strided form. -/
def strideAddr (a b : BitVec 5) (sl : Slot) (j : Nat) : Word := sl.gv a + word j * sl.gv b
/-- The address of element `j` of an indexed form. -/
def indexAddr (a : BitVec 5) (i : BitVec 4) (sl : Slot) (j : Nat) : Word := sl.gv a + word (4 * elem (sl.vv i) 32 j)

/-- `vldsync` waits while the word of an active element is EMPTY, with one place among the waiters for all its words (R65, R210). -/
def State.syncAll (s : State) (l : List ElemAt) : Except Stop Unit :=
  let ws := ((l.map (fun e => e.acc.phys)).filter hasPres).map (fun a => a / 8 * 8)
  if ws.any (fun a => decide (s.presAt a = .empty) || s.queuedBefore s.myPlace a) then throw (.park (.words ws.eraseDups)) else pure ()

/-- Whether an element's word is VOID. -/
def State.elemVoid (s : State) (e : ElemAt) : Bool := hasPres e.acc.phys && decide (s.presAt e.acc.phys = .void)

end Sys2Proof.Machine
end

