-- ==== Sys2Proof/Machine/Vector.lean ====
section
/-! DEFINITION. Vector instructions (R195–R212). -/

namespace Sys2Proof.Machine

/-! ### Integer operations (R198) -/

/-- A governed integer operation: `f` takes the element width and the two elements. -/
def vint (d a b : BitVec 4) (k : BitVec 3) (e : BitVec 2) (f : Nat → Nat → Nat → Nat) (s : State) :
    Host.Outcome State Fault Refusal :=
  governed (ewBits e) [.v a, .v b] d k (fun sl j => f (ewBits e) (elem (sl.vv a) (ewBits e) j) (elem (sl.vv b) (ewBits e) j)) s

/-- `vadd`. -/
def execVadd (d a b : BitVec 4) (k : BitVec 3) (e : BitVec 2) (s : State) : Host.Outcome State Fault Refusal :=
  vint d a b k e (fun w x y => (x + y) % 2 ^ w) s
/-- `vsub`. -/
def execVsub (d a b : BitVec 4) (k : BitVec 3) (e : BitVec 2) (s : State) : Host.Outcome State Fault Refusal :=
  vint d a b k e (fun w x y => (x + 2 ^ w - y) % 2 ^ w) s
/-- `vmul`. -/
def execVmul (d a b : BitVec 4) (k : BitVec 3) (e : BitVec 2) (s : State) : Host.Outcome State Fault Refusal :=
  vint d a b k e (fun w x y => x * y % 2 ^ w) s
/-- `vmulh`. -/
def execVmulh (d a b : BitVec 4) (k : BitVec 3) (e : BitVec 2) (s : State) : Host.Outcome State Fault Refusal :=
  vint d a b k e (fun w x y => codeOf w (sfield x w * sfield y w / (2 ^ w : Nat))) s
/-- `vand`. -/
def execVand (d a b : BitVec 4) (k : BitVec 3) (e : BitVec 2) (s : State) : Host.Outcome State Fault Refusal :=
  vint d a b k e (fun _ x y => x &&& y) s
/-- `vor`. -/
def execVor (d a b : BitVec 4) (k : BitVec 3) (e : BitVec 2) (s : State) : Host.Outcome State Fault Refusal :=
  vint d a b k e (fun _ x y => x ||| y) s
/-- `vxor`. -/
def execVxor (d a b : BitVec 4) (k : BitVec 3) (e : BitVec 2) (s : State) : Host.Outcome State Fault Refusal :=
  vint d a b k e (fun _ x y => x ^^^ y) s
/-- `vsll`: by b mod w. -/
def execVsll (d a b : BitVec 4) (k : BitVec 3) (e : BitVec 2) (s : State) : Host.Outcome State Fault Refusal :=
  vint d a b k e (fun w x y => (x <<< (y % w)) % 2 ^ w) s
/-- `vsrl`. -/
def execVsrl (d a b : BitVec 4) (k : BitVec 3) (e : BitVec 2) (s : State) : Host.Outcome State Fault Refusal :=
  vint d a b k e (fun w x y => x >>> (y % w)) s
/-- `vsra`. -/
def execVsra (d a b : BitVec 4) (k : BitVec 3) (e : BitVec 2) (s : State) : Host.Outcome State Fault Refusal :=
  vint d a b k e (fun w x y => codeOf w (sfield x w / (2 ^ (y % w) : Nat))) s
/-- `vmin`. -/
def execVmin (d a b : BitVec 4) (k : BitVec 3) (e : BitVec 2) (s : State) : Host.Outcome State Fault Refusal :=
  vint d a b k e (fun w x y => if sfield x w < sfield y w then x else y) s
/-- `vmax`. -/
def execVmax (d a b : BitVec 4) (k : BitVec 3) (e : BitVec 2) (s : State) : Host.Outcome State Fault Refusal :=
  vint d a b k e (fun w x y => if sfield x w < sfield y w then y else x) s
/-- `vminu`. -/
def execVminu (d a b : BitVec 4) (k : BitVec 3) (e : BitVec 2) (s : State) : Host.Outcome State Fault Refusal :=
  vint d a b k e (fun _ x y => min x y) s
/-- `vmaxu`. -/
def execVmaxu (d a b : BitVec 4) (k : BitVec 3) (e : BitVec 2) (s : State) : Host.Outcome State Fault Refusal :=
  vint d a b k e (fun _ x y => max x y) s

/-- A signed value clamped to `w` bits, as a code. -/
def satCode (w : Nat) (x : Int) : Nat := codeOf w (clampInt (-((2 ^ (w - 1) : Nat) : Int)) (((2 ^ (w - 1) : Nat) : Int) - 1) x)

/-- `vadds`. -/
def execVadds (d a b : BitVec 4) (k : BitVec 3) (e : BitVec 2) (s : State) : Host.Outcome State Fault Refusal :=
  vint d a b k e (fun w x y => satCode w (sfield x w + sfield y w)) s
/-- `vsubs`. -/
def execVsubs (d a b : BitVec 4) (k : BitVec 3) (e : BitVec 2) (s : State) : Host.Outcome State Fault Refusal :=
  vint d a b k e (fun w x y => satCode w (sfield x w - sfield y w)) s

/-! ### Floating operations (R199, R200) -/

/-- The format of an ew code: 2 is FP32, 1 is BF16. -/
def vfmt (e : BitVec 2) : Fmt := if e = 2 then .f32 else .bf16

/-- Rounds an exact result once (R199): FP32 under RM with FZO, BF16 under RNE. -/
def Slot.vround (sl : Slot) (e : BitVec 2) (x : Exact) : Nat × Fl :=
  if e = 2 then Fmt.f32.result sl.rm sl.fzo x else Fmt.bf16.result 0 false x

/-- The mode of an exact zero sum. -/
def Slot.vrm (sl : Slot) (e : BitVec 2) : Nat := if e = 2 then sl.rm else 0

/-- The value of element `j`. -/
def vnum (e : BitVec 2) (v : VWord) (j : Nat) : Num := (vfmt e).decode (elem v (ewBits e) j)

/-- A governed operation on two values. -/
def vfp2 (d a b : BitVec 4) (k : BitVec 3) (e : BitVec 2) (f : Nat → Num → Num → Exact) (s : State) :
    Host.Outcome State Fault Refusal :=
  governedFp (ewBits e) [.v a, .v b] d k (fun sl j => sl.vround e (f (sl.vrm e) (vnum e (sl.vv a) j) (vnum e (sl.vv b) j))) s

/-- A governed operation on one value. -/
def vfp1 (d a : BitVec 4) (k : BitVec 3) (e : BitVec 2) (f : Num → Exact) (s : State) : Host.Outcome State Fault Refusal :=
  governedFp (ewBits e) [.v a] d k (fun sl j => sl.vround e (f (vnum e (sl.vv a) j))) s

/-- `vfadd`. -/
def execVfadd (d a b : BitVec 4) (k : BitVec 3) (e : BitVec 2) (s : State) : Host.Outcome State Fault Refusal :=
  vfp2 d a b k e addExact s
/-- `vfsub`. -/
def execVfsub (d a b : BitVec 4) (k : BitVec 3) (e : BitVec 2) (s : State) : Host.Outcome State Fault Refusal :=
  vfp2 d a b k e (fun rm x y => addExact rm x y.neg) s
/-- `vfmul`. -/
def execVfmul (d a b : BitVec 4) (k : BitVec 3) (e : BitVec 2) (s : State) : Host.Outcome State Fault Refusal :=
  vfp2 d a b k e (fun _ x y => mulExact x y) s
/-- `vfdiv`. -/
def execVfdiv (d a b : BitVec 4) (k : BitVec 3) (e : BitVec 2) (s : State) : Host.Outcome State Fault Refusal :=
  vfp2 d a b k e (fun _ x y => divExact x y) s
/-- `vfsqrt`. -/
def execVfsqrt (d a : BitVec 4) (k : BitVec 3) (e : BitVec 2) (s : State) : Host.Outcome State Fault Refusal :=
  vfp1 d a k e sqrtExact s
/-- `vfexp2`. -/
def execVfexp2 (d a : BitVec 4) (k : BitVec 3) (e : BitVec 2) (s : State) : Host.Outcome State Fault Refusal :=
  vfp1 d a k e exp2Num s
/-- `vfrcp`. -/
def execVfrcp (d a : BitVec 4) (k : BitVec 3) (e : BitVec 2) (s : State) : Host.Outcome State Fault Refusal :=
  vfp1 d a k e (divExact (.fin false 1 0)) s

/-- An element as an FP32 pattern of the same value: a BF16 code is the upper half of one. -/
def velemF (e : BitVec 2) (v : VWord) (j : Nat) : F32 := f32 (elem v (ewBits e) j * 2 ^ (32 - ewBits e))

/-- `vfmin` and `vfmax` (R165). -/
def vfmm (greater : Bool) (d a b : BitVec 4) (k : BitVec 3) (e : BitVec 2) (s : State) : Host.Outcome State Fault Refusal :=
  governedFp (ewBits e) [.v a, .v b] d k (fun sl j =>
    let r := flushTiny (sl.fzo && e = 2) (fminmax greater (velemF e (sl.vv a) j) (velemF e (sl.vv b) j))
    (r.1.toNat / 2 ^ (32 - ewBits e), r.2)) s

/-- `vfmin`. -/
def execVfmin (d a b : BitVec 4) (k : BitVec 3) (e : BitVec 2) (s : State) : Host.Outcome State Fault Refusal :=
  vfmm false d a b k e s
/-- `vfmax`. -/
def execVfmax (d a b : BitVec 4) (k : BitVec 3) (e : BitVec 2) (s : State) : Host.Outcome State Fault Refusal :=
  vfmm true d a b k e s

/-- `vfabs`. -/
def execVfabs (d a : BitVec 4) (k : BitVec 3) (e : BitVec 2) (s : State) : Host.Outcome State Fault Refusal :=
  governed (ewBits e) [.v a] d k (fun sl j => elem (sl.vv a) (ewBits e) j % 2 ^ (ewBits e - 1)) s
/-- `vfneg`. -/
def execVfneg (d a : BitVec 4) (k : BitVec 3) (e : BitVec 2) (s : State) : Host.Outcome State Fault Refusal :=
  governed (ewBits e) [.v a] d k (fun sl j => elem (sl.vv a) (ewBits e) j ^^^ 2 ^ (ewBits e - 1)) s

/-- A governed fused operation on FP32 elements. -/
def vfp3 (d a b c : BitVec 4) (k : BitVec 3) (f : Nat → Num → Num → Num → Exact) (s : State) : Host.Outcome State Fault Refusal :=
  governedFp 32 [.v a, .v b, .v c] d k
    (fun sl j => sl.vround 2 (f sl.rm (vnum 2 (sl.vv a) j) (vnum 2 (sl.vv b) j) (vnum 2 (sl.vv c) j))) s

/-- `vfma`. -/
def execVfma (d a b c : BitVec 4) (k : BitVec 3) (s : State) : Host.Outcome State Fault Refusal := vfp3 d a b c k fmaExact s
/-- `vfms`. -/
def execVfms (d a b c : BitVec 4) (k : BitVec 3) (s : State) : Host.Outcome State Fault Refusal :=
  vfp3 d a b c k (fun rm x y z => fmaExact rm x y z.neg) s
/-- `vfnma`. -/
def execVfnma (d a b c : BitVec 4) (k : BitVec 3) (s : State) : Host.Outcome State Fault Refusal :=
  vfp3 d a b c k (fun rm x y z => fmaExact rm x.neg y z) s

/-! ### Compares (R201) -/

/-- An integer compare: `f` takes the width and the two elements. -/
def vcmp (d : BitVec 3) (a b : BitVec 4) (k : BitVec 3) (e : BitVec 2) (f : Nat → Nat → Nat → Bool) (s : State) :
    Host.Outcome State Fault Refusal :=
  maskCompare (ewBits e) d a b k (fun sl j => (f (ewBits e) (elem (sl.vv a) (ewBits e) j) (elem (sl.vv b) (ewBits e) j), 0)) s

/-- `vcmp.eq`. -/
def execVcmpEq (d : BitVec 3) (a b : BitVec 4) (k : BitVec 3) (e : BitVec 2) (s : State) : Host.Outcome State Fault Refusal :=
  vcmp d a b k e (fun _ x y => decide (x = y)) s
/-- `vcmp.ne`. -/
def execVcmpNe (d : BitVec 3) (a b : BitVec 4) (k : BitVec 3) (e : BitVec 2) (s : State) : Host.Outcome State Fault Refusal :=
  vcmp d a b k e (fun _ x y => decide (x ≠ y)) s
/-- `vcmp.lt`. -/
def execVcmpLt (d : BitVec 3) (a b : BitVec 4) (k : BitVec 3) (e : BitVec 2) (s : State) : Host.Outcome State Fault Refusal :=
  vcmp d a b k e (fun w x y => decide (sfield x w < sfield y w)) s
/-- `vcmp.ge`. -/
def execVcmpGe (d : BitVec 3) (a b : BitVec 4) (k : BitVec 3) (e : BitVec 2) (s : State) : Host.Outcome State Fault Refusal :=
  vcmp d a b k e (fun w x y => decide (sfield y w ≤ sfield x w)) s
/-- `vcmp.ltu`. -/
def execVcmpLtu (d : BitVec 3) (a b : BitVec 4) (k : BitVec 3) (e : BitVec 2) (s : State) : Host.Outcome State Fault Refusal :=
  vcmp d a b k e (fun _ x y => decide (x < y)) s
/-- `vcmp.geu`. -/
def execVcmpGeu (d : BitVec 3) (a b : BitVec 4) (k : BitVec 3) (e : BitVec 2) (s : State) : Host.Outcome State Fault Refusal :=
  vcmp d a b k e (fun _ x y => decide (y ≤ x)) s

/-- A floating compare. -/
def vfcmp (d : BitVec 3) (a b : BitVec 4) (k : BitVec 3) (e : BitVec 2) (f : Num → Num → Bool × Fl) (s : State) :
    Host.Outcome State Fault Refusal :=
  maskCompare (ewBits e) d a b k (fun sl j => f (vnum e (sl.vv a) j) (vnum e (sl.vv b) j)) s

/-- `vfcmp.eq`. -/
def execVfcmpEq (d : BitVec 3) (a b : BitVec 4) (k : BitVec 3) (e : BitVec 2) (s : State) : Host.Outcome State Fault Refusal :=
  vfcmp d a b k e fcmpEq s
/-- `vfcmp.lt`. -/
def execVfcmpLt (d : BitVec 3) (a b : BitVec 4) (k : BitVec 3) (e : BitVec 2) (s : State) : Host.Outcome State Fault Refusal :=
  vfcmp d a b k e fcmpLt s
/-- `vfcmp.le`. -/
def execVfcmpLe (d : BitVec 3) (a b : BitVec 4) (k : BitVec 3) (e : BitVec 2) (s : State) : Host.Outcome State Fault Refusal :=
  vfcmp d a b k e fcmpLe s
/-- `vfcmp.un`. -/
def execVfcmpUn (d : BitVec 3) (a b : BitVec 4) (k : BitVec 3) (e : BitVec 2) (s : State) : Host.Outcome State Fault Refusal :=
  vfcmp d a b k e (fun x y => (x.isNan || y.isNan, nvIf (x.isSig || y.isSig))) s

/-! ### Selection and mask registers (R202) -/

/-- `vsel.w`: km selects, and all 32 lanes are written. -/
def execVsel (d a b : BitVec 4) (k : BitVec 3) (s : State) : Host.Outcome State Fault Refusal :=
  runSlot s do
    let sl ← s.me.gate [.v a, .v b, .k k]
    pure (sl.wrV d (overlay 32 (sl.vv b) ((actives 32 (sl.kv k)).map (fun j => (j, elem (sl.vv a) 32 j))))).advance

/-- A mask-register operation: km governs bit by bit. -/
def kop (d : BitVec 3) (srcs : List Src) (k : BitVec 3) (f : Slot → BitVec 32) (s : State) : Host.Outcome State Fault Refusal :=
  runSlot s do
    let sl ← s.me.gate (srcs ++ [.k k] ++ (if k = 0 then [] else [.k d]))
    pure (sl.wrK d (mergeMask (sl.kv d) (sl.kv k) (f sl))).advance

/-- `kand`. -/
def execKand (d a b k : BitVec 3) (s : State) : Host.Outcome State Fault Refusal :=
  kop d [.k a, .k b] k (fun sl => sl.kv a &&& sl.kv b) s
/-- `kor`. -/
def execKor (d a b k : BitVec 3) (s : State) : Host.Outcome State Fault Refusal :=
  kop d [.k a, .k b] k (fun sl => sl.kv a ||| sl.kv b) s
/-- `kxor`. -/
def execKxor (d a b k : BitVec 3) (s : State) : Host.Outcome State Fault Refusal :=
  kop d [.k a, .k b] k (fun sl => sl.kv a ^^^ sl.kv b) s
/-- `knot`. -/
def execKnot (d a k : BitVec 3) (s : State) : Host.Outcome State Fault Refusal := kop d [.k a] k (fun sl => ~~~sl.kv a) s

/-! ### Lane moves (R203) -/

/-- `vbcast`. -/
def execVbcast (d : BitVec 4) (g : BitVec 5) (k : BitVec 3) (s : State) : Host.Outcome State Fault Refusal :=
  governed 32 [.g g] d k (fun sl _ => (sl.gv g).toNat % 2 ^ 32) s
/-- `vext`. -/
def execVext (g : BitVec 5) (a : BitVec 4) (l : BitVec 5) (s : State) : Host.Outcome State Fault Refusal :=
  runSlot s do
    let sl ← s.me.gate [.v a]
    pure (sl.wrG g (word (elem (sl.vv a) 32 l.toNat))).advance
/-- `vins`: vd is read even under k0. -/
def execVins (d : BitVec 4) (g l : BitVec 5) (s : State) : Host.Outcome State Fault Refusal :=
  runSlot s do
    let sl ← s.me.gate [.g g, .v d]
    pure (sl.wrV d (setElem (sl.vv d) 32 l.toNat ((sl.gv g).toNat % 2 ^ 32))).advance
/-- `kpopc`. -/
def execKpopc (g : BitVec 5) (a k : BitVec 3) (s : State) : Host.Outcome State Fault Refusal :=
  runSlot s do
    let sl ← s.me.gate [.k a, .k k]
    pure (sl.wrG g (word (popCount (sl.kv a &&& sl.kv k).toNat 32))).advance
/-- `kfirst`. -/
def execKfirst (g : BitVec 5) (a k : BitVec 3) (s : State) : Host.Outcome State Fault Refusal :=
  runSlot s do
    let sl ← s.me.gate [.k a, .k k]
    pure (sl.wrG g (word (trailingZeros (sl.kv a &&& sl.kv k).toNat 0 32))).advance

/-! ### Permutation, reductions, top-k and scan (R204–R207) -/

/-- `vperm`. -/
def execVperm (d a b : BitVec 4) (k : BitVec 3) (e : BitVec 2) (s : State) : Host.Outcome State Fault Refusal :=
  governed (ewBits e) [.v a, .v b] d k
    (fun sl j => elem (sl.vv a) (ewBits e) (elem (sl.vv b) (ewBits e) j % (1024 / ewBits e))) s

/-- A reduction of the selected elements into lane 0. -/
def reduce (w : Nat) (d a : BitVec 4) (k : BitVec 3) (f : List Int → Int) (s : State) : Host.Outcome State Fault Refusal :=
  runSlot s do
    let sl ← s.me.gate [.v a, .k k]
    pure (sl.wrV d (lane0 (codeOf 32 (f ((actives w (sl.kv k)).map (selem (sl.vv a) w)))))).advance

/-- `vredadd`. -/
def execVredadd (d a : BitVec 4) (k : BitVec 3) (e : BitVec 2) (s : State) : Host.Outcome State Fault Refusal :=
  reduce (ewBits e) d a k (fun l => l.foldl (· + ·) 0) s
/-- `vredmax`: with none selected the least value of the width. -/
def execVredmax (d a : BitVec 4) (k : BitVec 3) (e : BitVec 2) (s : State) : Host.Outcome State Fault Refusal :=
  reduce (ewBits e) d a k (fun l => l.foldl max (-((2 ^ (ewBits e - 1) : Nat) : Int))) s
/-- `vredmin`. -/
def execVredmin (d a : BitVec 4) (k : BitVec 3) (e : BitVec 2) (s : State) : Host.Outcome State Fault Refusal :=
  reduce (ewBits e) d a k (fun l => l.foldl min (((2 ^ (ewBits e - 1) : Nat) : Int) - 1)) s

/-- A node of the tree of R205: its value and the lowest selected lane that feeds it. -/
abbrev TreeNode := Option (F32 × Nat)

/-- One level of the tree: neighbours are added; the flags of each addition, by its lowest lane. -/
def treeLevel (add : F32 → F32 → F32 × Fl) : List TreeNode → List TreeNode × List (Nat × Fl)
  | x :: y :: t =>
    let r := treeLevel add t
    match x, y with
    | some (p, i), some (q, _) => let z := add p q; (some (z.1, i) :: r.1, (i, z.2) :: r.2)
    | some p, none => (some p :: r.1, r.2)
    | none, q => (q :: r.1, r.2)
  | l => (l, [])

/-- `n` levels of the tree, with the flags of every addition in the tree's order. -/
def treeSum (add : F32 → F32 → F32 × Fl) : Nat → List TreeNode → List TreeNode × List (Nat × Fl)
  | 0, l => (l, [])
  | n + 1, l =>
    let r := treeLevel add l
    let u := treeSum add n r.1
    (u.1, r.2 ++ u.2)

/-- `vfredadd.f32` (R205). A single selected lane passes with no addition: the model neither flushes it under FZO nor sets a flag for it, though
R150 speaks of every FP32 result (the model's choice, DEDUCED; log entry 42). -/
def execVfredadd (d a : BitVec 4) (k : BitVec 3) (s : State) : Host.Outcome State Fault Refusal :=
  runSlot s do
    let sl ← s.me.gate [.v a, .k k]
    let leaves := (List.range 32).map (fun i => if (sl.kv k).getLsbD i then some (f32 (elem (sl.vv a) 32 i), i) else none)
    let r := treeSum (fun x y => let z := Fmt.f32.result sl.rm sl.fzo (addExact sl.rm (num x) (num y)); (f32 z.1, z.2)) 5 leaves
    let t ← sl.fpDone r.2
    pure (t.wrV d (lane0 (match r.1.getD 0 none with | some p => p.1.toNat | none => 0))).advance

/-- A NaN that the device produces is the canonical one (R139). -/
def quieted (x : F32) : F32 := if (num x).isNan then f32 (Fmt.f32.nanCode false) else x

/-- `vfredmax.f32`: −∞ if no lane is selected. The flags of a flushed result count to the lowest selected lane. -/
def execVfredmax (d a : BitVec 4) (k : BitVec 3) (s : State) : Host.Outcome State Fault Refusal :=
  runSlot s do
    let sl ← s.me.gate [.v a, .k k]
    let l := (actives 32 (sl.kv k)).map (fun j => (j, f32 (elem (sl.vv a) 32 j)))
    let r : Nat × F32 × Fl := match l with
      | [] => (0, f32 (Fmt.f32.infCode true), 0)
      | e :: u => (e.1, flushTiny sl.fzo ((u.foldl (fun m (x : Nat × F32) => (fminmax true m x.2).1) (quieted e.2)), 0))
    let t ← sl.fpDone (l.map (fun (e : Nat × F32) => (e.1, nvIf (num e.2).isSig ||| (if e.1 = r.1 then r.2.2 else 0))))
    pure (t.wrV d (lane0 r.2.1.toNat)).advance

/-- Whether lane value `x` ranks above `y` (R206): NaNs below −∞, −0 below +0. -/
def ranksAbove (x y : F32) : Bool :=
  if (num x).isNan then false else if (num y).isNan then true else decide (ordKey y < ordKey x)

/-- The highest-ranked of some lanes in ascending order; ties go to the lower lane. -/
def topLane : List (Nat × F32) → Option (Nat × F32)
  | [] => none
  | e :: t => match topLane t with
    | none => some e
    | some u => if ranksAbove u.2 e.2 then some u else some e

/-- The `n` highest-ranked lanes, highest first. -/
def topLanes : Nat → List (Nat × F32) → List (Nat × F32)
  | 0, _ => []
  | n + 1, l => match topLane l with
    | none => []
    | some e => e :: topLanes n (l.filter (fun x => decide (x.1 ≠ e.1)))

/-- `vtopk.f32` (R206). -/
def execVtopk (d a b : BitVec 4) (k : BitVec 3) (s : State) : Host.Outcome State Fault Refusal :=
  runSlot s do
    let sl ← s.me.gate [.v a, .v b, .k k]
    let l := topLanes 8 ((actives 32 (sl.kv k)).map (fun j => (j, f32 (elem (sl.vv a) 32 j))))
    let base := elem (sl.vv b) 32 0
    let vals := (List.range 8).map (fun r => (r, match l[r]? with | some e => e.2.toNat | none => 0xFF800000))
    let idx := (List.range 8).map (fun r => (8 + r, match l[r]? with | some e => (base + e.1) % 2 ^ 32 | none => 0xFFFFFFFF))
    pure (sl.wrV d (overlay 32 0 (vals ++ idx))).advance

/-- Inclusive prefix sums of elements `l` of a register from `acc` on (R207). -/
def prefixSums (w : Nat) (v : VWord) (acc : Nat) : List Nat → List (Nat × Nat)
  | [] => []
  | j :: t => let x := (acc + elem v w j) % 2 ^ w; (j, x) :: prefixSums w v x t

/-- `vscan`. -/
def execVscan (d a : BitVec 4) (k : BitVec 3) (e : BitVec 2) (s : State) : Host.Outcome State Fault Refusal :=
  runSlot s do
    let sl ← s.me.gate ([.v a, .k k] ++ destV d k)
    let w := ewBits e
    pure (sl.wrV d (overlay w (sl.vv d) (prefixSums w (sl.vv a) 0 (actives w (sl.kv k))))).advance

/-! ### Conversions (R208) -/

/-- The floating format of a code of R78, or none for an integer. -/
def vcvtFmt (c : Nat) : Option Fmt :=
  match c with
  | 0 => some .f32
  | 1 => some .bf16
  | 2 => some .f16
  | 3 => some .e5m2
  | 4 => some .e4m3
  | 5 => some .e3m2
  | 6 => some .e2m3
  | 7 => some .e2m1
  | _ => none

/-- The width of a format in a register. -/
def vcvtWidth (c : Nat) : Nat :=
  match c with
  | 0 | 10 => 32
  | 1 | 2 | 9 => 16
  | 5 | 6 => 6
  | 7 => 4
  | _ => 8

/-- The class of a format (R208). -/
def vcvtClass (c : Nat) : Nat := if vcvtWidth c ≤ 8 then 8 else vcvtWidth c

/-- The range of an integer format. -/
def vcvtRange (c : Nat) : Int × Int :=
  match c with
  | 8 => (-128, 127)
  | 9 => (-32768, 32767)
  | 10 => (-(2 ^ 31), 2 ^ 31 - 1)
  | _ => (0, 255)

/-- The value of an integer code; format 11 is unsigned. -/
def vcvtInt (c x : Nat) : Int := if c = 11 then (x : Int) else sfield x (vcvtWidth c)

/-- The conversion of one element. -/
def Slot.vcvt (sl : Slot) (f t x : Nat) : Nat × Fl :=
  let r := vcvtRange t
  match vcvtFmt f, vcvtFmt t with
  | some p, some q => q.conv (if t = 0 then sl.rm else 0) (sl.fzo && t = 0) (p.decodeFlush (sl.fzi && decide (3 ≤ f)) x)
  | some p, none =>
    let o := toInt r.1 r.2 (p.decodeFlush (sl.fzi && decide (3 ≤ f)) x)
    (codeOf (vcvtWidth t) o.1, o.2)
  | none, some q => q.conv (if t = 0 then sl.rm else 0) (sl.fzo && t = 0) (ofInt (vcvtInt f x))
  | none, none => (codeOf (vcvtWidth t) (clampInt r.1 r.2 (vcvtInt f x)), 0)

/-- `vcvt`. -/
def execVcvt (d a : BitVec 4) (k : BitVec 3) (f t : BitVec 4) (s : State) : Host.Outcome State Fault Refusal :=
  runSlot s do
    let sl ← s.me.gate ([.v a, .k k] ++ destV d k)
    let n := 1024 / max (vcvtClass f.toNat) (vcvtClass t.toNat)
    let act := (List.range n).filter (fun j => (sl.kv k).getLsbD (32 * j / n))
    let r := act.map (fun j => (j, sl.vcvt f.toNat t.toNat (elem (sl.vv a) (vcvtWidth f.toNat) j)))
    let u ← sl.fpDone (r.map (fun (e : Nat × Nat × Fl) => (e.1, e.2.2)))
    let old : VWord := BitVec.ofNat 1024 ((sl.vv d).toNat % 2 ^ (n * vcvtWidth t.toNat))
    pure (u.wrV d (overlay (vcvtWidth t.toNat) old (r.map (fun (e : Nat × Nat × Fl) => (e.1, e.2.1))))).advance

/-! ### Vector memory (R209–R212) -/

/-- `vld`. -/
def execVld (d : BitVec 4) (a : BitVec 5) (k : BitVec 3) (e : BitVec 2) (s : State) : Host.Outcome State Fault Refusal :=
  vectorLoad (ewBits e) [.g a] d k (blockAligned a) (contigAddr a (ewBits e)) s
/-- `vst`. -/
def execVst (d : BitVec 4) (a : BitVec 5) (k : BitVec 3) (e : BitVec 2) (s : State) : Host.Outcome State Fault Refusal :=
  vectorStore (ewBits e) [.g a] d k (blockAligned a) (contigAddr a (ewBits e)) s
/-- `vlds`. -/
def execVlds (d : BitVec 4) (a b : BitVec 5) (k : BitVec 3) (e : BitVec 2) (s : State) : Host.Outcome State Fault Refusal :=
  vectorLoad (ewBits e) [.g a, .g b] d k noTest (strideAddr a b) s
/-- `vsts`. -/
def execVsts (d : BitVec 4) (a b : BitVec 5) (k : BitVec 3) (e : BitVec 2) (s : State) : Host.Outcome State Fault Refusal :=
  vectorStore (ewBits e) [.g a, .g b] d k noTest (strideAddr a b) s

/-- `vldsync`: a VOID word gives 0 and V. -/
def execVldsync (d : BitVec 4) (a : BitVec 5) (k : BitVec 3) (e : BitVec 2) (s : State) : Host.Outcome State Fault Refusal :=
  run s do
    let w := ewBits e
    let sl ← s.me.gate ([.g a, .k k] ++ destV d k)
    let act := actives w (sl.kv k)
    blockAligned a sl act
    let (l, s) ← (s.setMe sl).reachAll .read (w / 8) (act.map (fun j => (j, contigAddr a w sl j)))
    s.syncAll l
    let r := s.readAll (w / 8) (l.filter (fun x => !s.elemVoid x))
    let voids := (l.filter s.elemVoid).map (fun x => (x.j, 0))
    let t := if voids = [] then r.2.me else r.2.me.setV
    pure (r.2.setMe (t.wrV d (overlay w (sl.vv d) (r.1 ++ voids))).advance)

/-- `vgather.w`. -/
def execVgather (d : BitVec 4) (a : BitVec 5) (i : BitVec 4) (k : BitVec 3) (s : State) : Host.Outcome State Fault Refusal :=
  vectorLoad 32 [.g a, .v i] d k noTest (indexAddr a i) s
/-- `vscatter.w`. -/
def execVscatter (d : BitVec 4) (a : BitVec 5) (i : BitVec 4) (k : BitVec 3) (s : State) : Host.Outcome State Fault Refusal :=
  vectorStore 32 [.g a, .v i] d k noTest (indexAddr a i) s

/-- The bound check of `vgatherb`: EVAL is the lowest active element at or above BOUND (R211). -/
def boundTest (i : BitVec 4) (sl : Slot) (act : List Nat) : Except Stop Unit :=
  match act.find? (fun j => decide ((sl.csrv 0x00D).toNat % 2 ^ 32 ≤ elem (sl.vv i) 32 j)) with
  | some j => throw (.trap 0x19 (word j))
  | none => pure ()

/-- `vgatherb.w`. -/
def execVgatherb (d : BitVec 4) (a : BitVec 5) (i : BitVec 4) (k : BitVec 3) (s : State) : Host.Outcome State Fault Refusal :=
  vectorLoad 32 [.g a, .v i] d k (boundTest i) (indexAddr a i) s

end Sys2Proof.Machine
end

