-- ==== Sys2Proof/Machine/Dispatch.lean ====
section
/-! DEFINITION. One arm per constructor of Instr: the meaning of each instruction and step. -/

namespace Sys2Proof.Machine

def exec (i : Instr) (s : State) : Host.Outcome State Fault Refusal :=
  match i with
  | .add x1 x2 x3 => Sys2Proof.Machine.execAdd x1 x2 x3 s
  | .sub x1 x2 x3 => Sys2Proof.Machine.execSub x1 x2 x3 s
  | .and x1 x2 x3 => Sys2Proof.Machine.execAnd x1 x2 x3 s
  | .or x1 x2 x3 => Sys2Proof.Machine.execOr x1 x2 x3 s
  | .xor x1 x2 x3 => Sys2Proof.Machine.execXor x1 x2 x3 s
  | .sll x1 x2 x3 => Sys2Proof.Machine.execSll x1 x2 x3 s
  | .srl x1 x2 x3 => Sys2Proof.Machine.execSrl x1 x2 x3 s
  | .sra x1 x2 x3 => Sys2Proof.Machine.execSra x1 x2 x3 s
  | .slt x1 x2 x3 => Sys2Proof.Machine.execSlt x1 x2 x3 s
  | .sltu x1 x2 x3 => Sys2Proof.Machine.execSltu x1 x2 x3 s
  | .min x1 x2 x3 => Sys2Proof.Machine.execMin x1 x2 x3 s
  | .max x1 x2 x3 => Sys2Proof.Machine.execMax x1 x2 x3 s
  | .minu x1 x2 x3 => Sys2Proof.Machine.execMinu x1 x2 x3 s
  | .maxu x1 x2 x3 => Sys2Proof.Machine.execMaxu x1 x2 x3 s
  | .clz x1 x2 => Sys2Proof.Machine.execClz x1 x2 s
  | .ctz x1 x2 => Sys2Proof.Machine.execCtz x1 x2 s
  | .popc x1 x2 => Sys2Proof.Machine.execPopc x1 x2 s
  | .bext x1 x2 x3 => Sys2Proof.Machine.execBext x1 x2 x3 s
  | .bins x1 x2 x3 => Sys2Proof.Machine.execBins x1 x2 x3 s
  | .csel x1 x2 x3 => Sys2Proof.Machine.execCsel x1 x2 x3 s
  | .addW x1 x2 x3 => Sys2Proof.Machine.execAddW x1 x2 x3 s
  | .subW x1 x2 x3 => Sys2Proof.Machine.execSubW x1 x2 x3 s
  | .sllW x1 x2 x3 => Sys2Proof.Machine.execSllW x1 x2 x3 s
  | .srlW x1 x2 x3 => Sys2Proof.Machine.execSrlW x1 x2 x3 s
  | .sraW x1 x2 x3 => Sys2Proof.Machine.execSraW x1 x2 x3 s
  | .mul x1 x2 x3 => Sys2Proof.Machine.execMul x1 x2 x3 s
  | .mulh x1 x2 x3 => Sys2Proof.Machine.execMulh x1 x2 x3 s
  | .mulhu x1 x2 x3 => Sys2Proof.Machine.execMulhu x1 x2 x3 s
  | .div x1 x2 x3 => Sys2Proof.Machine.execDiv x1 x2 x3 s
  | .divu x1 x2 x3 => Sys2Proof.Machine.execDivu x1 x2 x3 s
  | .rem x1 x2 x3 => Sys2Proof.Machine.execRem x1 x2 x3 s
  | .remu x1 x2 x3 => Sys2Proof.Machine.execRemu x1 x2 x3 s
  | .mulW x1 x2 x3 => Sys2Proof.Machine.execMulW x1 x2 x3 s
  | .addi x1 x2 x3 => Sys2Proof.Machine.execAddi x1 x2 x3 s
  | .andi x1 x2 x3 => Sys2Proof.Machine.execAndi x1 x2 x3 s
  | .ori x1 x2 x3 => Sys2Proof.Machine.execOri x1 x2 x3 s
  | .xori x1 x2 x3 => Sys2Proof.Machine.execXori x1 x2 x3 s
  | .slli x1 x2 x3 => Sys2Proof.Machine.execSlli x1 x2 x3 s
  | .srli x1 x2 x3 => Sys2Proof.Machine.execSrli x1 x2 x3 s
  | .srai x1 x2 x3 => Sys2Proof.Machine.execSrai x1 x2 x3 s
  | .lui x1 x2 => Sys2Proof.Machine.execLui x1 x2 s
  | .addpc x1 x2 => Sys2Proof.Machine.execAddpc x1 x2 s
  | .slti x1 x2 x3 => Sys2Proof.Machine.execSlti x1 x2 x3 s
  | .bEq x1 x2 x3 => Sys2Proof.Machine.execBEq x1 x2 x3 s
  | .bNe x1 x2 x3 => Sys2Proof.Machine.execBNe x1 x2 x3 s
  | .bLt x1 x2 x3 => Sys2Proof.Machine.execBLt x1 x2 x3 s
  | .bGe x1 x2 x3 => Sys2Proof.Machine.execBGe x1 x2 x3 s
  | .bLtu x1 x2 x3 => Sys2Proof.Machine.execBLtu x1 x2 x3 s
  | .bGeu x1 x2 x3 => Sys2Proof.Machine.execBGeu x1 x2 x3 s
  | .bVs x1 => Sys2Proof.Machine.execBVs x1 s
  | .bVc x1 => Sys2Proof.Machine.execBVc x1 s
  | .j x1 => Sys2Proof.Machine.execJ x1 s
  | .jal x1 => Sys2Proof.Machine.execJal x1 s
  | .jalr x1 x2 x3 => Sys2Proof.Machine.execJalr x1 x2 x3 s
  | .fadd x1 x2 x3 => Sys2Proof.Machine.execFadd x1 x2 x3 s
  | .fsub x1 x2 x3 => Sys2Proof.Machine.execFsub x1 x2 x3 s
  | .fmul x1 x2 x3 => Sys2Proof.Machine.execFmul x1 x2 x3 s
  | .fdiv x1 x2 x3 => Sys2Proof.Machine.execFdiv x1 x2 x3 s
  | .fsqrt x1 x2 => Sys2Proof.Machine.execFsqrt x1 x2 s
  | .fmin x1 x2 x3 => Sys2Proof.Machine.execFmin x1 x2 x3 s
  | .fmax x1 x2 x3 => Sys2Proof.Machine.execFmax x1 x2 x3 s
  | .feq x1 x2 x3 => Sys2Proof.Machine.execFeq x1 x2 x3 s
  | .flt x1 x2 x3 => Sys2Proof.Machine.execFlt x1 x2 x3 s
  | .fle x1 x2 x3 => Sys2Proof.Machine.execFle x1 x2 x3 s
  | .fclass x1 x2 => Sys2Proof.Machine.execFclass x1 x2 s
  | .fexp2 x1 x2 => Sys2Proof.Machine.execFexp2 x1 x2 s
  | .frcp x1 x2 => Sys2Proof.Machine.execFrcp x1 x2 s
  | .fcvt x1 x2 x3 x4 => Sys2Proof.Machine.execFcvt x1 x2 x3 x4 s
  | .ffma x1 x2 x3 x4 => Sys2Proof.Machine.execFfma x1 x2 x3 x4 s
  | .ffms x1 x2 x3 x4 => Sys2Proof.Machine.execFfms x1 x2 x3 x4 s
  | .fnma x1 x2 x3 x4 => Sys2Proof.Machine.execFnma x1 x2 x3 x4 s
  | .ld x1 x2 x3 x4 x5 x6 x7 => Sys2Proof.Machine.execLd x1 x2 x3 x4 x5 x6 x7 s
  | .st x1 x2 x3 x4 x5 x6 => Sys2Proof.Machine.execSt x1 x2 x3 x4 x5 x6 s
  | .lds x1 x2 x3 x4 => Sys2Proof.Machine.execLds x1 x2 x3 x4 s
  | .ldc x1 x2 x3 x4 => Sys2Proof.Machine.execLdc x1 x2 x3 x4 s
  | .ldq x1 x2 x3 x4 => Sys2Proof.Machine.execLdq x1 x2 x3 x4 s
  | .ldt x1 x2 x3 x4 => Sys2Proof.Machine.execLdt x1 x2 x3 x4 s
  | .stf x1 x2 x3 x4 => Sys2Proof.Machine.execStf x1 x2 x3 x4 s
  | .stw x1 x2 x3 x4 => Sys2Proof.Machine.execStw x1 x2 x3 x4 s
  | .stv x1 x2 x3 x4 => Sys2Proof.Machine.execStv x1 x2 x3 x4 s
  | .ste x1 x2 x3 x4 => Sys2Proof.Machine.execSte x1 x2 x3 x4 s
  | .amoAdd x1 x2 x3 x4 x5 => Sys2Proof.Machine.execAmoAdd x1 x2 x3 x4 x5 s
  | .amoAnd x1 x2 x3 x4 x5 => Sys2Proof.Machine.execAmoAnd x1 x2 x3 x4 x5 s
  | .amoOr x1 x2 x3 x4 x5 => Sys2Proof.Machine.execAmoOr x1 x2 x3 x4 x5 s
  | .amoXor x1 x2 x3 x4 x5 => Sys2Proof.Machine.execAmoXor x1 x2 x3 x4 x5 s
  | .amoMin x1 x2 x3 x4 x5 => Sys2Proof.Machine.execAmoMin x1 x2 x3 x4 x5 s
  | .amoMax x1 x2 x3 x4 x5 => Sys2Proof.Machine.execAmoMax x1 x2 x3 x4 x5 s
  | .amoMinu x1 x2 x3 x4 x5 => Sys2Proof.Machine.execAmoMinu x1 x2 x3 x4 x5 s
  | .amoMaxu x1 x2 x3 x4 x5 => Sys2Proof.Machine.execAmoMaxu x1 x2 x3 x4 x5 s
  | .amoSwap x1 x2 x3 x4 x5 => Sys2Proof.Machine.execAmoSwap x1 x2 x3 x4 x5 s
  | .amoCas x1 x2 x3 x4 x5 => Sys2Proof.Machine.execAmoCas x1 x2 x3 x4 x5 s
  | .amoFadd x1 x2 x3 x4 x5 => Sys2Proof.Machine.execAmoFadd x1 x2 x3 x4 x5 s
  | .amoAddW x1 x2 x3 x4 x5 => Sys2Proof.Machine.execAmoAddW x1 x2 x3 x4 x5 s
  | .fence x1 x2 x3 => Sys2Proof.Machine.execFence x1 x2 x3 s
  | .bar x1 x2 => Sys2Proof.Machine.execBar x1 x2 s
  | .barArrive x1 x2 x3 => Sys2Proof.Machine.execBarArrive x1 x2 x3 s
  | .barWait x1 x2 x3 => Sys2Proof.Machine.execBarWait x1 x2 x3 s
  | .arrive x1 => Sys2Proof.Machine.execArrive x1 s
  | .expect x1 x2 => Sys2Proof.Machine.execExpect x1 x2 s
  | .waitc x1 x2 => Sys2Proof.Machine.execWaitc x1 x2 s
  | .cwinit x1 x2 => Sys2Proof.Machine.execCwinit x1 x2 s
  | .putrG x1 x2 x3 x4 => Sys2Proof.Machine.execPutrG x1 x2 x3 x4 s
  | .putrV x1 x2 x3 x4 => Sys2Proof.Machine.execPutrV x1 x2 x3 x4 s
  | .trap x1 => Sys2Proof.Machine.execTrap x1 s
  | .csrr x1 x2 => Sys2Proof.Machine.execCsrr x1 x2 s
  | .csrw x1 x2 x3 => Sys2Proof.Machine.execCsrw x1 x2 x3 s
  | .csrs x1 x2 x3 => Sys2Proof.Machine.execCsrs x1 x2 x3 s
  | .csrc x1 x2 x3 => Sys2Proof.Machine.execCsrc x1 x2 x3 s
  | .wait x1 x2 => Sys2Proof.Machine.execWait x1 x2 s
  | .tlbinv x1 x2 => Sys2Proof.Machine.execTlbinv x1 x2 s
  | .remptyG x1 => Sys2Proof.Machine.execRemptyG x1 s
  | .remptyV x1 => Sys2Proof.Machine.execRemptyV x1 s
  | .vadd x1 x2 x3 x4 x5 => Sys2Proof.Machine.execVadd x1 x2 x3 x4 x5 s
  | .vsub x1 x2 x3 x4 x5 => Sys2Proof.Machine.execVsub x1 x2 x3 x4 x5 s
  | .vmul x1 x2 x3 x4 x5 => Sys2Proof.Machine.execVmul x1 x2 x3 x4 x5 s
  | .vmulh x1 x2 x3 x4 x5 => Sys2Proof.Machine.execVmulh x1 x2 x3 x4 x5 s
  | .vand x1 x2 x3 x4 x5 => Sys2Proof.Machine.execVand x1 x2 x3 x4 x5 s
  | .vor x1 x2 x3 x4 x5 => Sys2Proof.Machine.execVor x1 x2 x3 x4 x5 s
  | .vxor x1 x2 x3 x4 x5 => Sys2Proof.Machine.execVxor x1 x2 x3 x4 x5 s
  | .vsll x1 x2 x3 x4 x5 => Sys2Proof.Machine.execVsll x1 x2 x3 x4 x5 s
  | .vsrl x1 x2 x3 x4 x5 => Sys2Proof.Machine.execVsrl x1 x2 x3 x4 x5 s
  | .vsra x1 x2 x3 x4 x5 => Sys2Proof.Machine.execVsra x1 x2 x3 x4 x5 s
  | .vmin x1 x2 x3 x4 x5 => Sys2Proof.Machine.execVmin x1 x2 x3 x4 x5 s
  | .vmax x1 x2 x3 x4 x5 => Sys2Proof.Machine.execVmax x1 x2 x3 x4 x5 s
  | .vminu x1 x2 x3 x4 x5 => Sys2Proof.Machine.execVminu x1 x2 x3 x4 x5 s
  | .vmaxu x1 x2 x3 x4 x5 => Sys2Proof.Machine.execVmaxu x1 x2 x3 x4 x5 s
  | .vadds x1 x2 x3 x4 x5 => Sys2Proof.Machine.execVadds x1 x2 x3 x4 x5 s
  | .vsubs x1 x2 x3 x4 x5 => Sys2Proof.Machine.execVsubs x1 x2 x3 x4 x5 s
  | .vfadd x1 x2 x3 x4 x5 => Sys2Proof.Machine.execVfadd x1 x2 x3 x4 x5 s
  | .vfsub x1 x2 x3 x4 x5 => Sys2Proof.Machine.execVfsub x1 x2 x3 x4 x5 s
  | .vfmul x1 x2 x3 x4 x5 => Sys2Proof.Machine.execVfmul x1 x2 x3 x4 x5 s
  | .vfdiv x1 x2 x3 x4 x5 => Sys2Proof.Machine.execVfdiv x1 x2 x3 x4 x5 s
  | .vfsqrt x1 x2 x3 x4 => Sys2Proof.Machine.execVfsqrt x1 x2 x3 x4 s
  | .vfmin x1 x2 x3 x4 x5 => Sys2Proof.Machine.execVfmin x1 x2 x3 x4 x5 s
  | .vfmax x1 x2 x3 x4 x5 => Sys2Proof.Machine.execVfmax x1 x2 x3 x4 x5 s
  | .vfexp2 x1 x2 x3 x4 => Sys2Proof.Machine.execVfexp2 x1 x2 x3 x4 s
  | .vfrcp x1 x2 x3 x4 => Sys2Proof.Machine.execVfrcp x1 x2 x3 x4 s
  | .vfabs x1 x2 x3 x4 => Sys2Proof.Machine.execVfabs x1 x2 x3 x4 s
  | .vfneg x1 x2 x3 x4 => Sys2Proof.Machine.execVfneg x1 x2 x3 x4 s
  | .vfma x1 x2 x3 x4 x5 => Sys2Proof.Machine.execVfma x1 x2 x3 x4 x5 s
  | .vfms x1 x2 x3 x4 x5 => Sys2Proof.Machine.execVfms x1 x2 x3 x4 x5 s
  | .vfnma x1 x2 x3 x4 x5 => Sys2Proof.Machine.execVfnma x1 x2 x3 x4 x5 s
  | .vcmpEq x1 x2 x3 x4 x5 => Sys2Proof.Machine.execVcmpEq x1 x2 x3 x4 x5 s
  | .vcmpNe x1 x2 x3 x4 x5 => Sys2Proof.Machine.execVcmpNe x1 x2 x3 x4 x5 s
  | .vcmpLt x1 x2 x3 x4 x5 => Sys2Proof.Machine.execVcmpLt x1 x2 x3 x4 x5 s
  | .vcmpGe x1 x2 x3 x4 x5 => Sys2Proof.Machine.execVcmpGe x1 x2 x3 x4 x5 s
  | .vcmpLtu x1 x2 x3 x4 x5 => Sys2Proof.Machine.execVcmpLtu x1 x2 x3 x4 x5 s
  | .vcmpGeu x1 x2 x3 x4 x5 => Sys2Proof.Machine.execVcmpGeu x1 x2 x3 x4 x5 s
  | .vfcmpEq x1 x2 x3 x4 x5 => Sys2Proof.Machine.execVfcmpEq x1 x2 x3 x4 x5 s
  | .vfcmpLt x1 x2 x3 x4 x5 => Sys2Proof.Machine.execVfcmpLt x1 x2 x3 x4 x5 s
  | .vfcmpLe x1 x2 x3 x4 x5 => Sys2Proof.Machine.execVfcmpLe x1 x2 x3 x4 x5 s
  | .vfcmpUn x1 x2 x3 x4 x5 => Sys2Proof.Machine.execVfcmpUn x1 x2 x3 x4 x5 s
  | .vsel x1 x2 x3 x4 => Sys2Proof.Machine.execVsel x1 x2 x3 x4 s
  | .kand x1 x2 x3 x4 => Sys2Proof.Machine.execKand x1 x2 x3 x4 s
  | .kor x1 x2 x3 x4 => Sys2Proof.Machine.execKor x1 x2 x3 x4 s
  | .kxor x1 x2 x3 x4 => Sys2Proof.Machine.execKxor x1 x2 x3 x4 s
  | .knot x1 x2 x3 => Sys2Proof.Machine.execKnot x1 x2 x3 s
  | .vbcast x1 x2 x3 => Sys2Proof.Machine.execVbcast x1 x2 x3 s
  | .vext x1 x2 x3 => Sys2Proof.Machine.execVext x1 x2 x3 s
  | .vins x1 x2 x3 => Sys2Proof.Machine.execVins x1 x2 x3 s
  | .kpopc x1 x2 x3 => Sys2Proof.Machine.execKpopc x1 x2 x3 s
  | .kfirst x1 x2 x3 => Sys2Proof.Machine.execKfirst x1 x2 x3 s
  | .vperm x1 x2 x3 x4 x5 => Sys2Proof.Machine.execVperm x1 x2 x3 x4 x5 s
  | .vredadd x1 x2 x3 x4 => Sys2Proof.Machine.execVredadd x1 x2 x3 x4 s
  | .vredmax x1 x2 x3 x4 => Sys2Proof.Machine.execVredmax x1 x2 x3 x4 s
  | .vredmin x1 x2 x3 x4 => Sys2Proof.Machine.execVredmin x1 x2 x3 x4 s
  | .vfredadd x1 x2 x3 => Sys2Proof.Machine.execVfredadd x1 x2 x3 s
  | .vfredmax x1 x2 x3 => Sys2Proof.Machine.execVfredmax x1 x2 x3 s
  | .vtopk x1 x2 x3 x4 => Sys2Proof.Machine.execVtopk x1 x2 x3 x4 s
  | .vscan x1 x2 x3 x4 => Sys2Proof.Machine.execVscan x1 x2 x3 x4 s
  | .vld x1 x2 x3 x4 => Sys2Proof.Machine.execVld x1 x2 x3 x4 s
  | .vst x1 x2 x3 x4 => Sys2Proof.Machine.execVst x1 x2 x3 x4 s
  | .vlds x1 x2 x3 x4 x5 => Sys2Proof.Machine.execVlds x1 x2 x3 x4 x5 s
  | .vsts x1 x2 x3 x4 x5 => Sys2Proof.Machine.execVsts x1 x2 x3 x4 x5 s
  | .vldsync x1 x2 x3 x4 => Sys2Proof.Machine.execVldsync x1 x2 x3 x4 s
  | .vgather x1 x2 x3 x4 => Sys2Proof.Machine.execVgather x1 x2 x3 x4 s
  | .vscatter x1 x2 x3 x4 => Sys2Proof.Machine.execVscatter x1 x2 x3 x4 s
  | .vgatherb x1 x2 x3 x4 => Sys2Proof.Machine.execVgatherb x1 x2 x3 x4 s
  | .vcvt x1 x2 x3 x4 x5 => Sys2Proof.Machine.execVcvt x1 x2 x3 x4 x5 s
  | .bsAttach x1 x2 => Sys2Proof.Machine.execBsAttach x1 x2 s
  | .bsGet x1 x2 => Sys2Proof.Machine.execBsGet x1 x2 s
  | .bsPeek x1 x2 => Sys2Proof.Machine.execBsPeek x1 x2 s
  | .bsSkip x1 x2 => Sys2Proof.Machine.execBsSkip x1 x2 s
  | .bsVlc x1 x2 x3 => Sys2Proof.Machine.execBsVlc x1 x2 x3 s
  | .bsPut x1 x2 => Sys2Proof.Machine.execBsPut x1 x2 s
  | .bsFlush x1 => Sys2Proof.Machine.execBsFlush x1 s
  | .bsOattach x1 => Sys2Proof.Machine.execBsOattach x1 s
  | .rndLo x1 x2 x3 => Sys2Proof.Machine.execRndLo x1 x2 x3 s
  | .rndHi x1 x2 x3 => Sys2Proof.Machine.execRndHi x1 x2 x3 s
  | .lnErw x1 x2 => Sys2Proof.Machine.execLnErw x1 x2 s
  | .lnErr x1 x2 => Sys2Proof.Machine.execLnErr x1 x2 s
  | .lnLaunch x1 x2 => Sys2Proof.Machine.execLnLaunch x1 x2 s
  | .lnQstat x1 x2 => Sys2Proof.Machine.execLnQstat x1 x2 s
  | .lnKill x1 => Sys2Proof.Machine.execLnKill x1 s
  | .frErw x1 x2 => Sys2Proof.Machine.execFrErw x1 x2 s
  | .frErr x1 x2 => Sys2Proof.Machine.execFrErr x1 x2 s
  | .frPush x1 x2 => Sys2Proof.Machine.execFrPush x1 x2 s
  | .frPop x1 => Sys2Proof.Machine.execFrPop x1 s
  | .frEnter x1 => Sys2Proof.Machine.execFrEnter x1 s
  | .frApp x1 x2 => Sys2Proof.Machine.execFrApp x1 x2 s
  | .frSeal x1 => Sys2Proof.Machine.execFrSeal x1 s
  | .frCut x1 x2 => Sys2Proof.Machine.execFrCut x1 x2 s
  | .frRd x1 x2 x3 => Sys2Proof.Machine.execFrRd x1 x2 x3 s
  | .frScope x1 x2 => Sys2Proof.Machine.execFrScope x1 x2 s
  | .atErw x1 x2 => Sys2Proof.Machine.execAtErw x1 x2 s
  | .atErr x1 x2 => Sys2Proof.Machine.execAtErr x1 x2 s
  | .atKv x1 x2 => Sys2Proof.Machine.execAtKv x1 x2 s
  | .atTree x1 x2 => Sys2Proof.Machine.execAtTree x1 x2 s
  | .atFold x1 x2 => Sys2Proof.Machine.execAtFold x1 x2 s
  | .atMerge x1 => Sys2Proof.Machine.execAtMerge x1 s
  | .atOut x1 => Sys2Proof.Machine.execAtOut x1 s
  | .mxErw x1 x2 => Sys2Proof.Machine.execMxErw x1 x2 s
  | .mxErr x1 x2 => Sys2Proof.Machine.execMxErr x1 x2 s
  | .mxBegin x1 => Sys2Proof.Machine.execMxBegin x1 s
  | .mxPerm x1 x2 => Sys2Proof.Machine.execMxPerm x1 x2 s
  | .mxStep x1 x2 => Sys2Proof.Machine.execMxStep x1 x2 s
  | .mxDrain x1 => Sys2Proof.Machine.execMxDrain x1 s
  | .cpErw x1 x2 => Sys2Proof.Machine.execCpErw x1 x2 s
  | .cpErr x1 x2 => Sys2Proof.Machine.execCpErr x1 x2 s
  | .cpGo x1 x2 => Sys2Proof.Machine.execCpGo x1 x2 s
  | .cpCancel x1 => Sys2Proof.Machine.execCpCancel x1 s
  | .cpSave x1 => Sys2Proof.Machine.execCpSave x1 s
  | .cpRestore x1 => Sys2Proof.Machine.execCpRestore x1 s
  | .fxErw x1 x2 => Sys2Proof.Machine.execFxErw x1 x2 s
  | .fxErr x1 x2 => Sys2Proof.Machine.execFxErr x1 x2 s
  | .fxGo x1 => Sys2Proof.Machine.execFxGo x1 s
  | .fxSend x1 => Sys2Proof.Machine.execFxSend x1 s
  | .fxRecv x1 => Sys2Proof.Machine.execFxRecv x1 s
  | .mkErw x1 x2 => Sys2Proof.Machine.execMkErw x1 x2 s
  | .mkErr x1 x2 => Sys2Proof.Machine.execMkErr x1 x2 s
  | .mkLoad x1 => Sys2Proof.Machine.execMkLoad x1 s
  | .mkStep x1 x2 => Sys2Proof.Machine.execMkStep x1 x2 s
  | .mkMask x1 x2 => Sys2Proof.Machine.execMkMask x1 x2 s
  | .mkWait x1 x2 => Sys2Proof.Machine.execMkWait x1 x2 s
  | .mkForced x1 => Sys2Proof.Machine.execMkForced x1 s
  | .eret => Sys2Proof.Machine.execEret s
  | .halt => Sys2Proof.Machine.execHalt s
  | .yield => Sys2Proof.Machine.execYield s
  | .ebreak => Sys2Proof.Machine.execEbreak s
  | .frLeave => Sys2Proof.Machine.execFrLeave s
  | .atQ => Sys2Proof.Machine.execAtQ s
  | .atLin => Sys2Proof.Machine.execAtLin s
  | .atReset => Sys2Proof.Machine.execAtReset s
  | .mxEnd => Sys2Proof.Machine.execMxEnd s
  | .mxClear => Sys2Proof.Machine.execMxClear s
  | .fxBar => Sys2Proof.Machine.execFxBar s
  | .fxAbort => Sys2Proof.Machine.execFxAbort s
  | .mkReset => Sys2Proof.Machine.execMkReset s
  | .illegalInstruction x1 => Sys2Proof.Machine.execIllegalInstruction x1 s
  | .memoryReply x1 x2 x3 => Sys2Proof.Machine.execMemoryReply x1 x2 x3 s
  | .parkWake x1 => Sys2Proof.Machine.execParkWake x1 s
  | .waitWake x1 x2 => Sys2Proof.Machine.execWaitWake x1 x2 s
  | .cycleBudgetFault => Sys2Proof.Machine.execCycleBudgetFault s
  | .stoppedSlotClear x1 x2 => Sys2Proof.Machine.execStoppedSlotClear x1 x2 s
  | .missMessage x1 => Sys2Proof.Machine.execMissMessage x1 s
  | .pagerWake x1 x2 => Sys2Proof.Machine.execPagerWake x1 x2 s
  | .pagerDecline x1 x2 => Sys2Proof.Machine.execPagerDecline x1 x2 s
  | .engineCommandAccept x1 x2 => Sys2Proof.Machine.execEngineCommandAccept x1 x2 s
  | .engineCommandComplete x1 x2 x3 => Sys2Proof.Machine.execEngineCommandComplete x1 x2 x3 s
  | .putrDelivery x1 => Sys2Proof.Machine.execPutrDelivery x1 s
  | .transformRestart x1 => Sys2Proof.Machine.execTransformRestart x1 s
  | .fibreDispatch x1 => Sys2Proof.Machine.execFibreDispatch x1 s
  | .queueAging x1 x2 => Sys2Proof.Machine.execQueueAging x1 x2 s
  | .evictionPosting x1 x2 x3 x4 => Sys2Proof.Machine.execEvictionPosting x1 x2 x3 x4 s
  | .evictionEvaluation x1 => Sys2Proof.Machine.execEvictionEvaluation x1 s
  | .forcedInstant x1 => Sys2Proof.Machine.execForcedInstant x1 s
  | .saveSectionsWrite x1 x2 x3 => Sys2Proof.Machine.execSaveSectionsWrite x1 x2 x3 s
  | .saveCompleteBit x1 => Sys2Proof.Machine.execSaveCompleteBit x1 s
  | .restoreBind x1 => Sys2Proof.Machine.execRestoreBind x1 s
  | .slotCleaning x1 x2 => Sys2Proof.Machine.execSlotCleaning x1 x2 s
  | .copyPage x1 x2 => Sys2Proof.Machine.execCopyPage x1 x2 s
  | .copyRegisterDelivery x1 x2 => Sys2Proof.Machine.execCopyRegisterDelivery x1 x2 s
  | .attentionBlockUpdate x1 x2 => Sys2Proof.Machine.execAttentionBlockUpdate x1 x2 s
  | .queryWordRead x1 x2 => Sys2Proof.Machine.execQueryWordRead x1 x2 s
  | .partialRecordRead x1 x2 => Sys2Proof.Machine.execPartialRecordRead x1 x2 s
  | .microTile x1 x2 x3 => Sys2Proof.Machine.execMicroTile x1 x2 x3 s
  | .tileStepStart x1 => Sys2Proof.Machine.execTileStepStart x1 s
  | .fabricMessage x1 x2 x3 => Sys2Proof.Machine.execFabricMessage x1 x2 x3 s
  | .fabricNotice x1 x2 x3 => Sys2Proof.Machine.execFabricNotice x1 x2 x3 s
  | .collectiveTimeout x1 x2 => Sys2Proof.Machine.execCollectiveTimeout x1 x2 s
  | .p2pTransfer x1 x2 x3 => Sys2Proof.Machine.execP2pTransfer x1 x2 x3 s
  | .linkUp x1 x2 x3 => Sys2Proof.Machine.execLinkUp x1 x2 x3 s
  | .linkDown x1 x2 => Sys2Proof.Machine.execLinkDown x1 x2 s
  | .rhoiqFlit x1 x2 x3 => Sys2Proof.Machine.execRhoiqFlit x1 x2 x3 s
  | .flitReplay x1 x2 x3 => Sys2Proof.Machine.execFlitReplay x1 x2 x3 s
  | .exponentCountHalving x1 x2 x3 => Sys2Proof.Machine.execExponentCountHalving x1 x2 x3 s
  | .codenWrite x1 x2 x3 => Sys2Proof.Machine.execCodenWrite x1 x2 x3 s
  | .maskProductionChunk x1 x2 => Sys2Proof.Machine.execMaskProductionChunk x1 x2 s
  | .maskReady x1 x2 => Sys2Proof.Machine.execMaskReady x1 x2 s
  | .mkWaitTimeout x1 x2 => Sys2Proof.Machine.execMkWaitTimeout x1 x2 s
  | .hostMailboxWrite x1 x2 x3 => Sys2Proof.Machine.execHostMailboxWrite x1 x2 x3 s
  | .hostAliasWrite x1 x2 x3 => Sys2Proof.Machine.execHostAliasWrite x1 x2 x3 s
  | .hostAliasRead x1 x2 => Sys2Proof.Machine.execHostAliasRead x1 x2 s
  | .unsupportedRequest x1 => Sys2Proof.Machine.execUnsupportedRequest x1 s
  | .pcieCompletion x1 x2 => Sys2Proof.Machine.execPcieCompletion x1 x2 s
  | .completionTimeout x1 => Sys2Proof.Machine.execCompletionTimeout x1 s
  | .priResponse x1 x2 x3 => Sys2Proof.Machine.execPriResponse x1 x2 x3 s
  | .priResponseTimeout x1 x2 => Sys2Proof.Machine.execPriResponseTimeout x1 x2 s
  | .functionLevelReset x1 => Sys2Proof.Machine.execFunctionLevelReset x1 s
  | .vfDisable x1 => Sys2Proof.Machine.execVfDisable x1 s
  | .doeRequest x1 => Sys2Proof.Machine.execDoeRequest x1 s
  | .coldReset x1 x2 => Sys2Proof.Machine.execColdReset x1 x2 s
  | .freezeInput => Sys2Proof.Machine.execFreezeInput s
  | .freezeRegisterWrite => Sys2Proof.Machine.execFreezeRegisterWrite s
  | .clockThrottle => Sys2Proof.Machine.execClockThrottle s
  | .overTemperature => Sys2Proof.Machine.execOverTemperature s
  | .thermalFreeze => Sys2Proof.Machine.execThermalFreeze s
  | .tierMigration x1 => Sys2Proof.Machine.execTierMigration x1 s
  | .uncorrectableError x1 x2 => Sys2Proof.Machine.execUncorrectableError x1 x2 s
  | .refreshWindowEnd x1 x2 => Sys2Proof.Machine.execRefreshWindowEnd x1 x2 s
  | .placeWrite x1 => Sys2Proof.Machine.execPlaceWrite x1 s
  | .mxdoneWrite x1 => Sys2Proof.Machine.execMxdoneWrite x1 s
  | .budgetWrite x1 => Sys2Proof.Machine.execBudgetWrite x1 s
  | .tcdropWrite x1 => Sys2Proof.Machine.execTcdropWrite x1 s
  | .tcdropComplete x1 => Sys2Proof.Machine.execTcdropComplete x1 s
  | .tenantInstall x1 x2 => Sys2Proof.Machine.execTenantInstall x1 x2 s
  | .vfEnable x1 x2 => Sys2Proof.Machine.execVfEnable x1 x2 s
  | .faultedBeyondRecovery x1 x2 => Sys2Proof.Machine.execFaultedBeyondRecovery x1 x2 s
  | .hostWriteErrorReport x1 => Sys2Proof.Machine.execHostWriteErrorReport x1 s

end Sys2Proof.Machine
end

