-- ==== Sys2Proof/Machine/Fetch.lean ====
section
/-! DEFINITION. Issue (R118, R134), instruction fetch (R162), and the running of a fetched word. -/

namespace Sys2Proof.Machine

/-! ### Fetch (R72, R162, R187) -/

/-- The request of a fetch: X, and U in mode U. -/
def State.fetchReq (s : State) : Req := .plain .exec 4 (decide (s.me.mode = 0))

/-- The access of a fetch at pc, with the checks of R25; one that has been issued keeps its translation (R33). -/
def State.fetchAcc (s : State) : Except Stop (Acc × State) :=
  match s.me.kept with
  | a :: _ => pure (a, s)
  | [] => do
    let (p, phys, s) ← s.checked s.who .fetch s.fetchReq s.me.pc
    pure ({ va := s.me.pc, page := p, phys := phys, reply := .none }, s.touched s.who p .exec phys)

/-- What a fetch waits for: a tile cache that is being dropped, a refresh window, the reply of a FAR page, the completion of a HOST page
(R162, R187). -/
def State.fetchLanded (s : State) (a : Acc) : Except Stop Unit :=
  match s.heldBy a.page s.fetchReq a.phys s.curCore, a.page.tgt, a.reply with
  | some k, _, _ => throw (.hold k [a])
  | none, 1, .far true => pure ()
  | none, 1, .far false => throw (.trap 0x09 a.va)
  | none, 1, _ => throw (.hold (.fetch a.phys s.time.toNat) [a])
  | none, 5, .host .success => pure ()
  | none, 5, .host _ => throw (.trap 0x21 a.va)
  | none, 5, .timeout => throw (.trap 0x22 a.va)
  | none, 5, _ => throw (.hold (.fetch a.phys s.time.toNat) [a])
  | none, _, _ => pure ()

/-- The slot with the word that it has fetched. -/
def Slot.withWord (sl : Slot) (w : BitVec 32) : Slot :=
  { sl with fetched := some w, wait := .none, reply := .none, resuming := false, kept := [] }

/-- The word at pc. -/
def State.fetch (s : State) : Except Stop (BitVec 32 × State) := do
  let (a, s) ← s.fetchAcc
  s.fetchLanded a
  let (v, s) := s.fetchBytes a.page a.phys 4
  let w : BitVec 32 := BitVec.ofNat 32 v
  pure (w, s.setMe (s.me.withWord w))

/-- Runs a word: the instruction that it decodes to on this kind of core, or its fault (R82, R83). -/
def State.runWord (s : State) (w : BitVec 32) : Host.Outcome State Fault Refusal :=
  match decode (coreKind s.curCore) w with
  | .ok i => exec i s
  | .error r => execIllegalInstruction r s

/-- Fetches at pc and runs the word; a fetch that fails, waits or misses ends as any instruction does (R162). -/
def State.fetchRun (s : State) : Host.Outcome State Fault Refusal :=
  match s.fetch with
  | .ok (w, t) => t.runWord w
  | .error e => run s (.error e)

/-- A parked instruction goes on: the word it was issued with runs; a fetch that waited is made again. -/
def State.resume (s : State) (core slot : Nat) : Host.Outcome State Fault Refusal :=
  let s : State := { s with curCore := core, curSlot := slot }
  match s.me.fetched with
  | some w => s.runWord w
  | none => s.fetchRun

/-! ### Issue (R118, R134, R175) -/

/-- Whether a slot can issue in this cycle: READY, and its last issue at least 4 cycles back. -/
def Slot.eligible (sl : Slot) (c : Nat) : Bool :=
  decide (sl.state = .ready) && !sl.preempted && (match sl.lastIssue with | none => true | some l => decide (l + 4 ≤ c))

/-- The slot of a core that issues in cycle `c`: the slot whose turn it is, or the first eligible one that lies 4 or more turns
ahead. A slot that has yielded gives up its own turn. -/
def State.pick (s : State) (core : Nat) : Option Nat :=
  let n := slotCount core
  let own := s.slotAt core (s.cycle % n)
  if own.eligible s.cycle ∧ own.yielded = false then some (s.cycle % n)
  else ((List.range (n - 4)).map (fun d => (s.cycle + 4 + d) % n)).find? (fun i => (s.slotAt core i).eligible s.cycle)

/-- The turn of a slot that has yielded is over. -/
def State.endYield (s : State) (core : Nat) : State :=
  let t := s.cycle % slotCount core
  if (s.slotAt core t).yielded then s.setSlot core t { s.slotAt core t with yielded := false } else s

/-- Whether the budget stops the issue (R134). -/
def Slot.overBudget (sl : Slot) : Bool :=
  decide (sl.mode = 0) && decide (sl.csrv 0x031 ≠ 0) && decide (sl.csrv 0x031 ≤ sl.csrv 0x032)

/-- The slot takes its turn, and the cores after it are next. -/
def State.takeTurn (s : State) (core slot : Nat) : State :=
  let s := s.setSlot core slot { s.slotAt core slot with lastIssue := some s.cycle }
  { s with curCore := core, curSlot := slot, phase := .issues (core + 1) }

/-- ISSUED rises by 1, and the issue is counted to the tenant (R134, R258). -/
def State.countIssue (s : State) : State :=
  (s.setMe (s.me.setCsr 0x032 (s.me.csrv 0x032 + 1))).countEv s.me.acct.toNat 1 1

/-- One issue of a slot. -/
def State.issue (s : State) (core slot : Nat) : Host.Outcome State Fault Refusal :=
  let s := s.takeTurn core slot
  if s.me.overBudget then execCycleBudgetFault s else s.countIssue.fetchRun

/-- The first core from `n` on with a slot that is READY or has yielded. -/
def State.nextCore (s : State) (n : Nat) : Option Nat :=
  (s.slots.find? (fun e => decide (n ≤ e.1 / 16) && (decide (e.2.state = .ready) || e.2.yielded))).map (fun e => e.1 / 16)

/-! ### The end of a cycle -/

/-- Whether a slot waits for a delivery (R173). -/
def Slot.wantsDelivery (sl : Slot) : Bool :=
  decide (sl.state = .parked) && (match sl.wait with
    | .event m _ _ => bit m 0
    | _ => false)

/-- The event that a cycle of a wait is counted as, beside code 2: a tier stall (R49) or a refresh stall (R46). -/
def Wait.stall : Wait → Option Nat
  | .far _ _ => .some 5
  | .fetch p _ => if isFar p then .some 5 else .none
  | .refresh _ _ => .some 13
  | _ => .none

/-- One slot at the end of a cycle: slot-cycles spent PARKED or ASLEEP are counted (R258); a delivery's edge lasts for its cycle where no
`wait` looks for it (R173). -/
def State.cycleSlot (s : State) (e : Nat × Slot) : State :=
  let t := e.2.acct.toNat
  let s := if e.2.state = .parked ∨ e.2.state = .asleep then s.countEv t 2 1 else s
  let s := match e.2.state, e.2.wait.stall with
    | .parked, some c => s.countEv t c 1
    | _, _ => s
  if e.2.delivered && !e.2.wantsDelivery then s.setSlot (e.1 / 16) (e.1 % 16) { e.2 with delivered := false } else s

/-- Every slot at the end of a cycle. -/
def State.cycleSlots (s : State) : State := s.slots.foldl State.cycleSlot s

/-- Each bound slot takes 1 from the deficit counter of its queue on its die (R231). -/
def State.cycleDeficits (s : State) : State :=
  s.slots.foldl (fun s (e : Nat × Slot) =>
    match e.2.occupant with
    | .fibre t q _ _ =>
      let k := dieOf (e.1 / 16) * 1024 + t * 8 + q
      { s with deficit := tabPut 0 s.deficit k (tabGet 0 s.deficit k - 1) }
    | _ => s) s

/-- The next cycle, and with it the time in ns (R8); its replies come first (R120). -/
def State.tick (s : State) : State :=
  let s := s.cycleSlots.cycleDeficits
  let f := s.timeFrac + 1000
  let n := f / s.clockMHz
  { s with cycle := s.cycle + 1, phase := .replies, time := s.time + word n, timeFrac := f % s.clockMHz }

end Sys2Proof.Machine
end

