-- ==== Sys2Proof/Machine/Device.lean ====
section
/-! DEFINITION. The device's own steps of a cycle: which of them can be taken now, in a fixed order. Replies and the device's work come before
the cycle's issues (R120); deliveries into registers come after them, those of engines before those of `putr` (R126). Beyond that the spec
gives no order among them, and the model takes the first that changes anything (log entry 22). -/

namespace Sys2Proof.Machine

/-- A step of the device. -/
abbrev DeviceStep := State → Host.Outcome State Fault Refusal

/-- The first of some steps that changes the state or stops. -/
def State.firstStep (s : State) : List DeviceStep → Option (Host.Outcome State Fault Refusal)
  | [] => none
  | f :: t => match f s with
    | .next u => if u = s then s.firstStep t else some (.next u)
    | o => some o

/-! ### Deliveries and messages -/

/-- Messages and notices within the package. -/
def State.netSteps (s : State) : List DeviceStep :=
  (match s.fabNet.find? (fun (e : (Nat × Nat) × FabMsg) => decide (s.fxFate e.1.1 e.1.2 e.2 ≠ .hold)) with
    | some e => [execFabricMessage e.1.1 e.1.2 e.2]
    | none => []) ++
  (match s.fabNotices with
    | e :: _ => [execFabricNotice e.1.1 e.1.2 e.2]
    | [] => [])

/-! ### Waiting slots -/

/-- Inserts a slot by its order of arrival. -/
def insertBySeq (e : Nat × Slot) : List (Nat × Slot) → List (Nat × Slot)
  | [] => [e]
  | x :: t => if e.2.seq ≤ x.2.seq then e :: x :: t else x :: insertBySeq e t

/-- Slots in the order in which they came to wait (R65). -/
def bySeq (l : List (Nat × Slot)) : List (Nat × Slot) := l.foldr insertBySeq []

/-- The step that may end the wait of a slot. -/
def waitSteps (core slot : Nat) (sl : Slot) : List DeviceStep :=
  match sl.wait with
  | .event _ _ _ => [execWaitWake core slot]
  | .queueEvent => [execTransformRestart core]
  | .accept _ _ _ => [execEngineCommandAccept core slot]
  | .ready _ _ _ _ => if sl.preempted then [] else [execParkWake (.fibre core slot), execMkWaitTimeout core slot]
  | .far _ _ => [execMemoryReply core slot true]
  | .host _ _ _ _ => [execCompletionTimeout (.fibre core slot)]
  | .frame _ .miss => [execMissMessage (.fibre core slot)]
  | .frame _ .btab => [execMissMessage (.fibre core slot)]
  | .fetch p _ => if isFar p then [execMemoryReply core slot true] else [execCompletionTimeout (.fibre core slot)]
  | _ => [execParkWake (.fibre core slot)]

/-- The wakes of parked slots, first come first served, and the page requests of sleeping ones. -/
def State.slotSteps (s : State) : List DeviceStep :=
  ((bySeq (s.slots.filter (fun e => decide (e.2.state = .parked)))).map (fun e => waitSteps (e.1 / 16) (e.1 % 16) e.2)).flatten ++
  (s.slots.filter (fun e => decide (e.2.state = .asleep))).map (fun e => execMissMessage (.fibre (e.1 / 16) (e.1 % 16)))

/-! ### Engines -/

/-- The steps of the commands of one context. -/
def State.ctxSteps (s : State) (key : Nat) : List DeviceStep :=
  let inst := key / 2048 % 1024
  let ctx := key % 2048
  match key / 2048 / 1024 with
  | 4 => [execCopyPage inst ctx, execEngineCommandComplete .cp inst ctx,
      execMissMessage (.engine .cp inst ctx)]
  | 2 => [execAttentionBlockUpdate inst ctx, execQueryWordRead inst ctx, execPartialRecordRead inst ctx,
      execEngineCommandComplete .at inst ctx, execMissMessage (.engine .at inst ctx)]
  | 5 => [execParkWake (.engine .fx inst ctx)] ++
      (s.cmds.filter (fun e => decide (e.1 / 2048 / 1024 = 5))).map (fun e => execP2pTransfer inst ctx (.here (e.1 / 2048 % 1024) (e.1 % 2048))) ++
      [execCollectiveTimeout inst ctx, execEngineCommandComplete .fx inst ctx, execMissMessage (.engine .fx inst ctx)]
  | _ => []

/-- The steps of a matrix engine's running step. -/
def mxSteps (core : Nat) (x : MxCore) : List DeviceStep :=
  match x.running with
  | none => []
  | some st =>
    [execTileStepStart core] ++
      ((List.range st.a).map (fun g => (List.range ((mxM st.regs + 15) / 16)).map (fun b => execMicroTile core g b))).flatten ++
      [execMissMessage (.engine .mx core 0)]

/-- The steps of a mask production. -/
def mkSteps (key : Nat) : List DeviceStep :=
  let die := key / 2048 % 1024
  let ctx := key % 2048
  [execMaskProductionChunk die ctx, execMaskReady die ctx, execMissMessage (.engine .mk die ctx)]

/-- Whether a cluster's engine has written what it took up of a save, at 50,000 bytes per µs (R240, R347). -/
def State.saveRate (s : State) (v : Save) (cluster : Nat) : Bool :=
  decide (tabGet 0 v.taken cluster ≤ (s.time.toNat - v.began) * 50)

/-- The steps of a save. -/
def State.saveSteps (s : State) (n : Nat) (v : Save) : List DeviceStep :=
  (if v.buf = [] ∧ v.control = false then (v.pending.filter (fun k => s.saveRate v (k / 16 / 16))).map (fun k => execSaveSectionsWrite n (k / 16) (k % 16))
    else [execSaveSectionsWrite n 0 0]) ++
  [execSaveCompleteBit n, execMissMessage (.engine .cp 64 (v.tenant * 8 + v.queue))]

/-- The steps of every engine. -/
def State.engineSteps (s : State) : List DeviceStep :=
  (s.cmds.map (fun e => s.ctxSteps e.1)).flatten ++ (s.mx.map (fun e => mxSteps e.1 e.2)).flatten ++ (s.mkp.map (fun e => mkSteps e.1)).flatten ++
  ((List.range s.saves.length).map (fun n => match s.saves[n]? with | some v => s.saveSteps n v | none => [])).flatten ++
  (List.range s.restores.length).map (fun n => execRestoreBind n)

/-! ### Dispatch, eviction, links, timers -/

/-- The launch engine: dispatch on each die, the ageing of queues, completions that were held. -/
def State.launchSteps (s : State) : List DeviceStep :=
  (if s.queues = [] then [] else (List.range 4).map execFibreDispatch) ++
  (s.queues.map (fun e => [execQueueAging (e.1 / 8) (e.1 % 8), execMissMessage (.engine .ln (e.1 / 8) (e.1 % 8)),
    fun s => .next (s.retireHeld (e.1 / 8) (e.1 % 8))])).flatten

/-- Chains that are being unwound (R269), and threads whose supervisor block is still to be read (R213, R252). -/
def State.bindSteps (s : State) : List DeviceStep :=
  ((List.range s.unwinds.length).map (fun n => fun (s : State) => .next (s.unwindHeld n))) ++
  (s.unwinds.map (fun x => execMissMessage (.engine .fr 0 (engCtx .fr x.who.core x.who.slot 0).2))) ++
  (s.tenants.map (fun e => (fun (s : State) => .next (s.bindHeld e.1)) ::
    e.2.unbound.map (fun u => execMissMessage (.fibre (u.1 / 16) (u.1 % 16))))).flatten

/-- Eviction `n`: its evaluations every 2 µs (R241), its forced instant (R242), the cleaning of slots (R245). -/
def State.evictSteps (s : State) (n : Nat) (e : Evict) : List DeviceStep :=
  (if e.posted + 2000 * e.evals ≤ s.time.toNat then [execEvictionEvaluation n] else []) ++
  (if e.deadline ≤ s.time.toNat + 6000 then [execForcedInstant n] else []) ++
  ((List.range e.len).map (fun i => ((List.range 8).filter (fun j => s.mayClean e (e.base + i) j)).map
    (fun j => execSlotCleaning (e.base + i) j))).flatten

/-- The halving of exponent counts on a link (R369). -/
def linkSteps (key : Nat) : List DeviceStep := (List.range 3).map (fun c => execExponentCountHalving (key / 4) (key % 4) c)

/-- Evictions, links, and what time alone brings. -/
def State.otherSteps (s : State) : List DeviceStep :=
  ((List.range s.evicts.length).map (fun n => match s.evicts[n]? with | some e => s.evictSteps n e | none => [])).flatten ++
  (s.links.map (fun e => linkSteps e.1)).flatten ++ s.dropping.map execTcdropComplete ++
  s.pris.map (fun p => execPriResponseTimeout p.tenant p.index) ++ (if s.thermal.isSome then [execThermalFreeze] else [])

/-- The device's own step before the issues of a cycle, if one can be taken. -/
def State.deviceStep (s : State) : Option (Host.Outcome State Fault Refusal) :=
  s.firstStep (s.slotSteps ++ s.engineSteps ++ s.netSteps ++ s.bindSteps ++ s.launchSteps ++ s.otherSteps)

/-- A delivery of an engine into a register, if one can be made (R126). -/
def State.engineDelivery (s : State) : Option (Host.Outcome State Fault Refusal) :=
  s.firstStep ((s.cmds.filter (fun e => decide (e.1 / 2048 / 1024 = 4))).map (fun e => execCopyRegisterDelivery (e.1 / 2048 % 1024) (e.1 % 2048)))

/-- A delivery of `putr`, if one is on its way (R126). -/
def State.putrDelivery (s : State) : Option (Host.Outcome State Fault Refusal) := s.firstStep [execPutrDelivery 0]

/-! ### Outside events -/

/-- Whether an entry of the agenda is a step of the device or of the world outside: one that no instruction of a slot makes. -/
def Instr.isStep : Instr → Bool
  | .memoryReply .. => true
  | .parkWake .. => true
  | .waitWake .. => true
  | .stoppedSlotClear .. => true
  | .missMessage .. => true
  | .pagerWake .. => true
  | .pagerDecline .. => true
  | .engineCommandAccept .. => true
  | .engineCommandComplete .. => true
  | .putrDelivery .. => true
  | .transformRestart .. => true
  | .fibreDispatch .. => true
  | .queueAging .. => true
  | .evictionPosting .. => true
  | .evictionEvaluation .. => true
  | .forcedInstant .. => true
  | .saveSectionsWrite .. => true
  | .saveCompleteBit .. => true
  | .restoreBind .. => true
  | .slotCleaning .. => true
  | .copyPage .. => true
  | .copyRegisterDelivery .. => true
  | .attentionBlockUpdate .. => true
  | .queryWordRead .. => true
  | .partialRecordRead .. => true
  | .microTile .. => true
  | .tileStepStart .. => true
  | .fabricMessage .. => true
  | .fabricNotice .. => true
  | .collectiveTimeout .. => true
  | .p2pTransfer .. => true
  | .linkUp .. => true
  | .linkDown .. => true
  | .rhoiqFlit .. => true
  | .flitReplay .. => true
  | .exponentCountHalving .. => true
  | .codenWrite .. => true
  | .maskProductionChunk .. => true
  | .maskReady .. => true
  | .mkWaitTimeout .. => true
  | .hostMailboxWrite .. => true
  | .hostAliasWrite .. => true
  | .hostAliasRead .. => true
  | .unsupportedRequest .. => true
  | .pcieCompletion .. => true
  | .completionTimeout .. => true
  | .priResponse .. => true
  | .priResponseTimeout .. => true
  | .functionLevelReset .. => true
  | .vfDisable .. => true
  | .doeRequest .. => true
  | .coldReset .. => true
  | .freezeInput => true
  | .freezeRegisterWrite => true
  | .clockThrottle => true
  | .overTemperature => true
  | .thermalFreeze => true
  | .tierMigration .. => true
  | .uncorrectableError .. => true
  | .refreshWindowEnd .. => true
  | .tcdropComplete .. => true
  | .tenantInstall .. => true
  | .vfEnable .. => true
  | .faultedBeyondRecovery .. => true
  | .hostWriteErrorReport .. => true
  | _ => false

/-- The part of a cycle in which an entry of the agenda is performed: deliveries into registers come after the issues (R126). -/
def Instr.part : Instr → Phase
  | .copyRegisterDelivery .. => .engines
  | .putrDelivery .. => .putrs
  | _ => .replies

/-- The first entry of the agenda that is due in a part of the cycle, and the state without it (log entry 2). -/
def State.dueEvent (s : State) (p : Phase) : Option (Instr × State) :=
  (s.agenda.find? (fun e => decide (e.1 ≤ s.cycle) && decide (Instr.part e.2 = p))).map (fun e => (e.2, { s with agenda := s.agenda.erase e }))

/-- Performs a due event; what is no step of the device has no effect. -/
def State.event (i : Instr) (s : State) : Host.Outcome State Fault Refusal := if Instr.isStep i then exec i s else .next s

/-- A frozen package waits for a cold reset (R391). -/
def State.frozenStep (s : State) : Host.Outcome State Fault Refusal :=
  match s.agenda.find? (fun e => match e.2 with | .coldReset .. => true | _ => false) with
  | some e => exec e.2 { s with agenda := s.agenda.erase e }
  | none => .next s

/-- A slot whose parked instruction goes on: it does so before any other issues (R120). Of a pre-empted one only what has left for its home
does (R179). -/
def State.resumable (s : State) : Option (Nat × Nat) :=
  (s.slots.find? (fun e => decide (e.2.state = .ready) && e.2.resuming && (!e.2.preempted || e.2.completes))).map
    (fun e => (e.1 / 16, e.1 % 16))

end Sys2Proof.Machine
end

