-- ==== Sys2Proof/Machine/Step.lean ====
section
/-! DEFINITION. One step of the package, and the state in which the next step runs a given word. -/

namespace Sys2Proof.Machine

/-- A step in the issue phase of a cycle: the next core from `n` on issues (R118); with no core left, deliveries into registers follow. -/
def State.issueStep (s : State) (n : Nat) : Host.Outcome State Fault Refusal :=
  match s.nextCore n with
  | none => .next { s with phase := .engines }
  | some core => match s.pick core with
    | some slot => (s.endYield core).issue core slot
    | none => .next { s.endYield core with phase := .issues (core + 1) }

/-- A step of a part of the cycle outside the issues: a due event of the agenda, else a step of the device's own, else the part is over. -/
def State.partStep (s : State) (p : Phase) (own : Option (Host.Outcome State Fault Refusal)) (last : State) : Host.Outcome State Fault Refusal :=
  match s.dueEvent p with
  | some (i, t) => t.event i
  | none => own.getD (.next last)

/-- One step: a parked instruction that goes on (R120); else one of the part of the cycle that is on. Replies come before the issues of their
cycle (R120), and what is delivered into a register reaches it after the results of the cycle's instructions, of engines first (R126,
R176). -/
def step (s : State) : Host.Outcome State Fault Refusal :=
  if s.frozen then s.frozenStep
  else match s.resumable with
    | some (core, slot) => s.resume core slot
    | none => match s.phase with
      | .replies => s.partStep .replies s.deviceStep { s with phase := .issues 0 }
      | .issues n => s.issueStep n
      | .engines => s.partStep .engines s.engineDelivery { s with phase := .putrs }
      | .putrs => s.partStep .putrs s.putrDelivery s.tick

/-- Slot 7 of core 0 as the word's thread: hypervisor work in mode H, whose page table maps virtual bytes 0 to 2^30 − 1 to
near memory, at virtual address 0x20000. -/
def probeSlot : Slot :=
  { Slot.empty with
    state := .ready, occupant := .hypervisor, pc := 0x20000
    csr := [(0x000, mkStatus 0xFF 7 false 0 3), (0x180, 0x10000)] }

/-- `s` with the word at pc of slot 7 of core 0, in the cycle of its turn (log entry 23): its S1ROOT names a table at 0x10000
with one pointer to a table at 0x18000 of 1 GiB leaves. -/
def State.withFetchWord (s : State) (_nbits w : Nat) : State :=
  let mem := pokeMem (pokeMem (pokeMem s.mem 0x10000 8 0x18011) 0x18000 8 0x1F) 0x20000 4 w
  { s with
    mem := mem, tlb := [], agenda := [], frozen := false, phase := .issues 0, poison := [], quarantine := [], badHash := [], badTags := []
    dropping := [], recoloured := [], cycle := s.cycle + (7 - s.cycle % 8)
    slots := tabPut .empty (s.slots.map (fun e => (e.1, { e.2 with resuming := false }))) 7 probeSlot }

end Sys2Proof.Machine
end

