-- ==== Sys2Proof/WellFormed.lean ====
section
/-! DEFINITION. Which field values of an instruction its encoding admits (R72–R83), and which rows have an encoding. -/

namespace Sys2Proof

/-- Scope 7 is reserved (R75). -/
def scopeOk (s : BitVec 3) : Bool := decide (s ≠ 7)

/-- The order field of an atomic is 0 to 4 (R75). -/
def orderOk (o : BitVec 3) : Bool := decide (o ≤ 4)

/-- Barrier levels are 0 to 5 (R75). -/
def levelOk (l : BitVec 3) : Bool := decide (l ≤ 5)

/-- The element widths are 8, 16 and 32 bits (R75, R80). -/
def widthOk (e : BitVec 2) : Bool := decide (e ≠ 3)

/-- The floating formats of a vector instruction are BF16 and FP32 (R75). -/
def formatOk (e : BitVec 2) : Bool := decide (e = 1) || decide (e = 2)

/-- The bit counts of the stream instructions (R221, R223). -/
def bitsOk (n : BitVec 10) : Bool := decide (n ≠ 0) && decide (n ≤ 57)

/-- The window of `bs.vlc` (R222). -/
def windowOk (m : BitVec 10) : Bool := decide (m ≠ 0) && decide (m ≤ 16)

/-- The field numbers of `fr.rd` (R279). -/
def fieldOk (f : BitVec 5) : Bool := !(decide (13 ≤ f) && decide (f ≤ 15))

/-- The field values of an instruction are ones that its encoding admits. A step of the device has no encoding, and its
data are free. -/
def Instr.wf : Instr → Bool
  | .add .. => true
  | .sub .. => true
  | .and .. => true
  | .or .. => true
  | .xor .. => true
  | .sll .. => true
  | .srl .. => true
  | .sra .. => true
  | .slt .. => true
  | .sltu .. => true
  | .min .. => true
  | .max .. => true
  | .minu .. => true
  | .maxu .. => true
  | .clz .. => true
  | .ctz .. => true
  | .popc .. => true
  | .bext .. => true
  | .bins .. => true
  | .csel .. => true
  | .addW .. => true
  | .subW .. => true
  | .sllW .. => true
  | .srlW .. => true
  | .sraW .. => true
  | .mul .. => true
  | .mulh .. => true
  | .mulhu .. => true
  | .div .. => true
  | .divu .. => true
  | .rem .. => true
  | .remu .. => true
  | .mulW .. => true
  | .addi .. => true
  | .andi .. => true
  | .ori .. => true
  | .xori .. => true
  | .slli .. => true
  | .srli .. => true
  | .srai .. => true
  | .lui .. => true
  | .addpc .. => true
  | .slti .. => true
  | .bEq .. => true
  | .bNe .. => true
  | .bLt .. => true
  | .bGe .. => true
  | .bLtu .. => true
  | .bGeu .. => true
  | .bVs .. => true
  | .bVc .. => true
  | .j .. => true
  | .jal .. => true
  | .jalr .. => true
  | .fadd .. => true
  | .fsub .. => true
  | .fmul .. => true
  | .fdiv .. => true
  | .fsqrt .. => true
  | .fmin .. => true
  | .fmax .. => true
  | .feq .. => true
  | .flt .. => true
  | .fle .. => true
  | .fclass .. => true
  | .fexp2 .. => true
  | .frcp .. => true
  | .fcvt _ _ f t => !decide (f = t)
  | .ffma .. => true
  | .ffms .. => true
  | .fnma .. => true
  | .ld _ _ _ s w x _ => scopeOk s && !(decide (w = 3) && decide (x = 1))
  | .st _ _ _ s _ _ => scopeOk s
  | .lds _ _ _ s => scopeOk s
  | .ldc _ _ _ s => scopeOk s
  | .ldq _ _ _ s => scopeOk s
  | .ldt _ _ _ s => scopeOk s
  | .stf _ _ _ s => scopeOk s
  | .stw _ _ _ s => scopeOk s
  | .stv _ _ _ s => scopeOk s
  | .ste _ _ _ s => scopeOk s
  | .amoAdd _ _ _ s o => scopeOk s && orderOk o
  | .amoAnd _ _ _ s o => scopeOk s && orderOk o
  | .amoOr _ _ _ s o => scopeOk s && orderOk o
  | .amoXor _ _ _ s o => scopeOk s && orderOk o
  | .amoMin _ _ _ s o => scopeOk s && orderOk o
  | .amoMax _ _ _ s o => scopeOk s && orderOk o
  | .amoMinu _ _ _ s o => scopeOk s && orderOk o
  | .amoMaxu _ _ _ s o => scopeOk s && orderOk o
  | .amoSwap _ _ _ s o => scopeOk s && orderOk o
  | .amoCas _ _ _ s o => scopeOk s && orderOk o
  | .amoFadd _ _ _ s o => scopeOk s && orderOk o
  | .amoAddW _ _ _ s o => scopeOk s && orderOk o
  | .fence _ s _ => scopeOk s
  | .bar _ l => levelOk l
  | .barArrive _ _ l => levelOk l
  | .barWait _ _ l => levelOk l
  | .arrive .. => true
  | .expect .. => true
  | .waitc .. => true
  | .cwinit .. => true
  | .putrG .. => true
  | .putrV .. => true
  | .trap .. => true
  | .csrr .. => true
  | .csrw .. => true
  | .csrs .. => true
  | .csrc .. => true
  | .wait .. => true
  | .tlbinv .. => true
  | .remptyG .. => true
  | .remptyV .. => true
  | .vadd _ _ _ _ e => widthOk e
  | .vsub _ _ _ _ e => widthOk e
  | .vmul _ _ _ _ e => widthOk e
  | .vmulh _ _ _ _ e => widthOk e
  | .vand _ _ _ _ e => widthOk e
  | .vor _ _ _ _ e => widthOk e
  | .vxor _ _ _ _ e => widthOk e
  | .vsll _ _ _ _ e => widthOk e
  | .vsrl _ _ _ _ e => widthOk e
  | .vsra _ _ _ _ e => widthOk e
  | .vmin _ _ _ _ e => widthOk e
  | .vmax _ _ _ _ e => widthOk e
  | .vminu _ _ _ _ e => widthOk e
  | .vmaxu _ _ _ _ e => widthOk e
  | .vadds _ _ _ _ e => widthOk e
  | .vsubs _ _ _ _ e => widthOk e
  | .vfadd _ _ _ _ e => formatOk e
  | .vfsub _ _ _ _ e => formatOk e
  | .vfmul _ _ _ _ e => formatOk e
  | .vfdiv _ _ _ _ e => formatOk e
  | .vfsqrt _ _ _ e => formatOk e
  | .vfmin _ _ _ _ e => formatOk e
  | .vfmax _ _ _ _ e => formatOk e
  | .vfexp2 _ _ _ e => formatOk e
  | .vfrcp _ _ _ e => formatOk e
  | .vfabs _ _ _ e => formatOk e
  | .vfneg _ _ _ e => formatOk e
  | .vfma .. => true
  | .vfms .. => true
  | .vfnma .. => true
  | .vcmpEq _ _ _ _ e => widthOk e
  | .vcmpNe _ _ _ _ e => widthOk e
  | .vcmpLt _ _ _ _ e => widthOk e
  | .vcmpGe _ _ _ _ e => widthOk e
  | .vcmpLtu _ _ _ _ e => widthOk e
  | .vcmpGeu _ _ _ _ e => widthOk e
  | .vfcmpEq _ _ _ _ e => formatOk e
  | .vfcmpLt _ _ _ _ e => formatOk e
  | .vfcmpLe _ _ _ _ e => formatOk e
  | .vfcmpUn _ _ _ _ e => formatOk e
  | .vsel .. => true
  | .kand .. => true
  | .kor .. => true
  | .kxor .. => true
  | .knot .. => true
  | .vbcast .. => true
  | .vext .. => true
  | .vins .. => true
  | .kpopc .. => true
  | .kfirst .. => true
  | .vperm _ _ _ _ e => widthOk e
  | .vredadd _ _ _ e => widthOk e
  | .vredmax _ _ _ e => widthOk e
  | .vredmin _ _ _ e => widthOk e
  | .vfredadd .. => true
  | .vfredmax .. => true
  | .vtopk .. => true
  | .vscan _ _ _ e => widthOk e
  | .vld _ _ _ e => widthOk e
  | .vst _ _ _ e => widthOk e
  | .vlds _ _ _ _ e => widthOk e
  | .vsts _ _ _ _ e => widthOk e
  | .vldsync _ _ _ e => widthOk e
  | .vgather .. => true
  | .vscatter .. => true
  | .vgatherb .. => true
  | .vcvt _ _ _ f t => decide (f ≤ 11) && decide (t ≤ 11) && !decide (f = t)
  | .bsAttach .. => true
  | .bsGet _ n => bitsOk n
  | .bsPeek _ n => bitsOk n
  | .bsSkip .. => true
  | .bsVlc _ _ m => windowOk m
  | .bsPut _ k => bitsOk k
  | .bsFlush .. => true
  | .bsOattach .. => true
  | .rndLo .. => true
  | .rndHi .. => true
  | .lnErw _ n => decide (n.toNat < 3)
  | .lnErr _ n => decide (n.toNat < 3)
  | .lnLaunch .. => true
  | .lnQstat .. => true
  | .lnKill .. => true
  | .frErw _ n => decide (n.toNat < 1)
  | .frErr _ n => decide (n.toNat < 1)
  | .frPush .. => true
  | .frPop .. => true
  | .frEnter .. => true
  | .frApp .. => true
  | .frSeal .. => true
  | .frCut .. => true
  | .frRd _ _ f => fieldOk f
  | .frScope .. => true
  | .atErw _ n => decide (n.toNat < 13)
  | .atErr _ n => decide (n.toNat < 13)
  | .atKv .. => true
  | .atTree .. => true
  | .atFold .. => true
  | .atMerge .. => true
  | .atOut .. => true
  | .mxErw _ n => decide (n.toNat < 9)
  | .mxErr _ n => decide (n.toNat < 9)
  | .mxBegin .. => true
  | .mxPerm .. => true
  | .mxStep .. => true
  | .mxDrain .. => true
  | .cpErw _ n => decide (n.toNat < 11)
  | .cpErr _ n => decide (n.toNat < 11)
  | .cpGo .. => true
  | .cpCancel .. => true
  | .cpSave .. => true
  | .cpRestore .. => true
  | .fxErw _ n => decide (n.toNat < 11)
  | .fxErr _ n => decide (n.toNat < 11)
  | .fxGo .. => true
  | .fxSend .. => true
  | .fxRecv .. => true
  | .mkErw _ n => decide (n.toNat < 11)
  | .mkErr _ n => decide (n.toNat < 11)
  | .mkLoad .. => true
  | .mkStep .. => true
  | .mkMask .. => true
  | .mkWait .. => true
  | .mkForced .. => true
  | .eret => true
  | .halt => true
  | .yield => true
  | .ebreak => true
  | .frLeave => true
  | .atQ => true
  | .atLin => true
  | .atReset => true
  | .mxEnd => true
  | .mxClear => true
  | .fxBar => true
  | .fxAbort => true
  | .mkReset => true
  | .illegalInstruction .. => true
  | .memoryReply .. => true
  | .parkWake .. => true
  | .waitWake .. => true
  | .cycleBudgetFault => true
  | .stoppedSlotClear .. => true
  | .missMessage .. => true
  | .pagerWake .. => true
  | .pagerDecline .. => true
  | .engineCommandAccept .. => true
  | .engineCommandComplete .. => true
  | .putrDelivery .. => true
  | .transformRestart .. => true
  | .fibreDispatch .. => true
  | .queueAging .. => true
  | .evictionPosting .. => true
  | .evictionEvaluation .. => true
  | .forcedInstant .. => true
  | .saveSectionsWrite .. => true
  | .saveCompleteBit .. => true
  | .restoreBind .. => true
  | .slotCleaning .. => true
  | .copyPage .. => true
  | .copyRegisterDelivery .. => true
  | .attentionBlockUpdate .. => true
  | .queryWordRead .. => true
  | .partialRecordRead .. => true
  | .microTile .. => true
  | .tileStepStart .. => true
  | .fabricMessage .. => true
  | .fabricNotice .. => true
  | .collectiveTimeout .. => true
  | .p2pTransfer .. => true
  | .linkUp .. => true
  | .linkDown .. => true
  | .rhoiqFlit .. => true
  | .flitReplay .. => true
  | .exponentCountHalving .. => true
  | .codenWrite .. => true
  | .maskProductionChunk .. => true
  | .maskReady .. => true
  | .mkWaitTimeout .. => true
  | .hostMailboxWrite .. => true
  | .hostAliasWrite .. => true
  | .hostAliasRead .. => true
  | .unsupportedRequest .. => true
  | .pcieCompletion .. => true
  | .completionTimeout .. => true
  | .priResponse .. => true
  | .priResponseTimeout .. => true
  | .functionLevelReset .. => true
  | .vfDisable .. => true
  | .doeRequest .. => true
  | .coldReset .. => true
  | .freezeInput => true
  | .freezeRegisterWrite => true
  | .clockThrottle => true
  | .overTemperature => true
  | .thermalFreeze => true
  | .tierMigration .. => true
  | .uncorrectableError .. => true
  | .refreshWindowEnd .. => true
  | .placeWrite .. => true
  | .mxdoneWrite .. => true
  | .budgetWrite .. => true
  | .tcdropWrite .. => true
  | .tcdropComplete .. => true
  | .tenantInstall .. => true
  | .vfEnable .. => true
  | .faultedBeyondRecovery .. => true
  | .hostWriteErrorReport .. => true

/-- The row has an encoding; the other rows are steps of the device. -/
def Instr.encoded : Instr → Bool
  | .add .. => true
  | .sub .. => true
  | .and .. => true
  | .or .. => true
  | .xor .. => true
  | .sll .. => true
  | .srl .. => true
  | .sra .. => true
  | .slt .. => true
  | .sltu .. => true
  | .min .. => true
  | .max .. => true
  | .minu .. => true
  | .maxu .. => true
  | .clz .. => true
  | .ctz .. => true
  | .popc .. => true
  | .bext .. => true
  | .bins .. => true
  | .csel .. => true
  | .addW .. => true
  | .subW .. => true
  | .sllW .. => true
  | .srlW .. => true
  | .sraW .. => true
  | .mul .. => true
  | .mulh .. => true
  | .mulhu .. => true
  | .div .. => true
  | .divu .. => true
  | .rem .. => true
  | .remu .. => true
  | .mulW .. => true
  | .addi .. => true
  | .andi .. => true
  | .ori .. => true
  | .xori .. => true
  | .slli .. => true
  | .srli .. => true
  | .srai .. => true
  | .lui .. => true
  | .addpc .. => true
  | .slti .. => true
  | .bEq .. => true
  | .bNe .. => true
  | .bLt .. => true
  | .bGe .. => true
  | .bLtu .. => true
  | .bGeu .. => true
  | .bVs .. => true
  | .bVc .. => true
  | .j .. => true
  | .jal .. => true
  | .jalr .. => true
  | .fadd .. => true
  | .fsub .. => true
  | .fmul .. => true
  | .fdiv .. => true
  | .fsqrt .. => true
  | .fmin .. => true
  | .fmax .. => true
  | .feq .. => true
  | .flt .. => true
  | .fle .. => true
  | .fclass .. => true
  | .fexp2 .. => true
  | .frcp .. => true
  | .fcvt .. => true
  | .ffma .. => true
  | .ffms .. => true
  | .fnma .. => true
  | .ld .. => true
  | .st .. => true
  | .lds .. => true
  | .ldc .. => true
  | .ldq .. => true
  | .ldt .. => true
  | .stf .. => true
  | .stw .. => true
  | .stv .. => true
  | .ste .. => true
  | .amoAdd .. => true
  | .amoAnd .. => true
  | .amoOr .. => true
  | .amoXor .. => true
  | .amoMin .. => true
  | .amoMax .. => true
  | .amoMinu .. => true
  | .amoMaxu .. => true
  | .amoSwap .. => true
  | .amoCas .. => true
  | .amoFadd .. => true
  | .amoAddW .. => true
  | .fence .. => true
  | .bar .. => true
  | .barArrive .. => true
  | .barWait .. => true
  | .arrive .. => true
  | .expect .. => true
  | .waitc .. => true
  | .cwinit .. => true
  | .putrG .. => true
  | .putrV .. => true
  | .trap .. => true
  | .csrr .. => true
  | .csrw .. => true
  | .csrs .. => true
  | .csrc .. => true
  | .wait .. => true
  | .tlbinv .. => true
  | .remptyG .. => true
  | .remptyV .. => true
  | .vadd .. => true
  | .vsub .. => true
  | .vmul .. => true
  | .vmulh .. => true
  | .vand .. => true
  | .vor .. => true
  | .vxor .. => true
  | .vsll .. => true
  | .vsrl .. => true
  | .vsra .. => true
  | .vmin .. => true
  | .vmax .. => true
  | .vminu .. => true
  | .vmaxu .. => true
  | .vadds .. => true
  | .vsubs .. => true
  | .vfadd .. => true
  | .vfsub .. => true
  | .vfmul .. => true
  | .vfdiv .. => true
  | .vfsqrt .. => true
  | .vfmin .. => true
  | .vfmax .. => true
  | .vfexp2 .. => true
  | .vfrcp .. => true
  | .vfabs .. => true
  | .vfneg .. => true
  | .vfma .. => true
  | .vfms .. => true
  | .vfnma .. => true
  | .vcmpEq .. => true
  | .vcmpNe .. => true
  | .vcmpLt .. => true
  | .vcmpGe .. => true
  | .vcmpLtu .. => true
  | .vcmpGeu .. => true
  | .vfcmpEq .. => true
  | .vfcmpLt .. => true
  | .vfcmpLe .. => true
  | .vfcmpUn .. => true
  | .vsel .. => true
  | .kand .. => true
  | .kor .. => true
  | .kxor .. => true
  | .knot .. => true
  | .vbcast .. => true
  | .vext .. => true
  | .vins .. => true
  | .kpopc .. => true
  | .kfirst .. => true
  | .vperm .. => true
  | .vredadd .. => true
  | .vredmax .. => true
  | .vredmin .. => true
  | .vfredadd .. => true
  | .vfredmax .. => true
  | .vtopk .. => true
  | .vscan .. => true
  | .vld .. => true
  | .vst .. => true
  | .vlds .. => true
  | .vsts .. => true
  | .vldsync .. => true
  | .vgather .. => true
  | .vscatter .. => true
  | .vgatherb .. => true
  | .vcvt .. => true
  | .bsAttach .. => true
  | .bsGet .. => true
  | .bsPeek .. => true
  | .bsSkip .. => true
  | .bsVlc .. => true
  | .bsPut .. => true
  | .bsFlush .. => true
  | .bsOattach .. => true
  | .rndLo .. => true
  | .rndHi .. => true
  | .lnErw .. => true
  | .lnErr .. => true
  | .lnLaunch .. => true
  | .lnQstat .. => true
  | .lnKill .. => true
  | .frErw .. => true
  | .frErr .. => true
  | .frPush .. => true
  | .frPop .. => true
  | .frEnter .. => true
  | .frApp .. => true
  | .frSeal .. => true
  | .frCut .. => true
  | .frRd .. => true
  | .frScope .. => true
  | .atErw .. => true
  | .atErr .. => true
  | .atKv .. => true
  | .atTree .. => true
  | .atFold .. => true
  | .atMerge .. => true
  | .atOut .. => true
  | .mxErw .. => true
  | .mxErr .. => true
  | .mxBegin .. => true
  | .mxPerm .. => true
  | .mxStep .. => true
  | .mxDrain .. => true
  | .cpErw .. => true
  | .cpErr .. => true
  | .cpGo .. => true
  | .cpCancel .. => true
  | .cpSave .. => true
  | .cpRestore .. => true
  | .fxErw .. => true
  | .fxErr .. => true
  | .fxGo .. => true
  | .fxSend .. => true
  | .fxRecv .. => true
  | .mkErw .. => true
  | .mkErr .. => true
  | .mkLoad .. => true
  | .mkStep .. => true
  | .mkMask .. => true
  | .mkWait .. => true
  | .mkForced .. => true
  | .eret => true
  | .halt => true
  | .yield => true
  | .ebreak => true
  | .frLeave => true
  | .atQ => true
  | .atLin => true
  | .atReset => true
  | .mxEnd => true
  | .mxClear => true
  | .fxBar => true
  | .fxAbort => true
  | .mkReset => true
  | .illegalInstruction .. => false
  | .memoryReply .. => false
  | .parkWake .. => false
  | .waitWake .. => false
  | .cycleBudgetFault => false
  | .stoppedSlotClear .. => false
  | .missMessage .. => false
  | .pagerWake .. => false
  | .pagerDecline .. => false
  | .engineCommandAccept .. => false
  | .engineCommandComplete .. => false
  | .putrDelivery .. => false
  | .transformRestart .. => false
  | .fibreDispatch .. => false
  | .queueAging .. => false
  | .evictionPosting .. => false
  | .evictionEvaluation .. => false
  | .forcedInstant .. => false
  | .saveSectionsWrite .. => false
  | .saveCompleteBit .. => false
  | .restoreBind .. => false
  | .slotCleaning .. => false
  | .copyPage .. => false
  | .copyRegisterDelivery .. => false
  | .attentionBlockUpdate .. => false
  | .queryWordRead .. => false
  | .partialRecordRead .. => false
  | .microTile .. => false
  | .tileStepStart .. => false
  | .fabricMessage .. => false
  | .fabricNotice .. => false
  | .collectiveTimeout .. => false
  | .p2pTransfer .. => false
  | .linkUp .. => false
  | .linkDown .. => false
  | .rhoiqFlit .. => false
  | .flitReplay .. => false
  | .exponentCountHalving .. => false
  | .codenWrite .. => false
  | .maskProductionChunk .. => false
  | .maskReady .. => false
  | .mkWaitTimeout .. => false
  | .hostMailboxWrite .. => false
  | .hostAliasWrite .. => false
  | .hostAliasRead .. => false
  | .unsupportedRequest .. => false
  | .pcieCompletion .. => false
  | .completionTimeout .. => false
  | .priResponse .. => false
  | .priResponseTimeout .. => false
  | .functionLevelReset .. => false
  | .vfDisable .. => false
  | .doeRequest .. => false
  | .coldReset .. => false
  | .freezeInput => false
  | .freezeRegisterWrite => false
  | .clockThrottle => false
  | .overTemperature => false
  | .thermalFreeze => false
  | .tierMigration .. => false
  | .uncorrectableError .. => false
  | .refreshWindowEnd .. => false
  | .placeWrite .. => false
  | .mxdoneWrite .. => false
  | .budgetWrite .. => false
  | .tcdropWrite .. => false
  | .tcdropComplete .. => false
  | .tenantInstall .. => false
  | .vfEnable .. => false
  | .faultedBeyondRecovery .. => false
  | .hostWriteErrorReport .. => false

end Sys2Proof
end

