-- ==== Sys2Proof/Safety.lean ====
section
/-! DEFINITION. What counts as a safe state and a safe step, and the words that statements are written in: sources that are
ready, the slot once they are read, how a step ends early, and what an instruction leaves unchanged. -/

namespace Sys2Proof.Machine

/-- The tables that hold the package's memory and its presence are in canonical form, so that equal contents are equal data. -/
def State.canonical (s : State) : Prop := Memory.wf s.mem = true ∧ tabWf Presence.full s.pres = true

/-- A step of the package goes on: it neither stops the model nor lacks a meaning. -/
def State.goesOn (s : State) : Prop := ∃ t, step s = .next t

/-- The state that an outcome gives, if it is a next state. -/
def nextOf (o : Host.Outcome State Fault Refusal) : Option State :=
  match o with
  | .next t => some t
  | .fault _ => none
  | .refused _ => none

/-! ### Sources -/

/-- No source is EMPTY (R124). -/
def Slot.ready (sl : Slot) (l : List Src) : Prop := ∀ r ∈ l, sl.presOf r ≠ .empty

/-- The slot once its sources are read: FLAGS.V is set if one of them is VOID (R124, R132). -/
def Slot.seen (sl : Slot) (l : List Src) : Slot := if ∃ r ∈ l, sl.presOf r = .void then sl.setV else sl

/-- The state in which the executing slot has read its sources and nothing else has changed. -/
def State.seen (s : State) (l : List Src) : State := s.setMe (s.me.seen l)

/-- The state in which gD has received `v`, FULL, and the thread goes on at pc + 4. -/
def State.givesG (s : State) (l : List Src) (d : BitVec 5) (v : Word) : State := s.setMe ((s.me.seen l).wrG d v).advance

/-- The state in which vD has received `v`, FULL, and the thread goes on at pc + 4. -/
def State.givesV (s : State) (l : List Src) (d : BitVec 4) (v : VWord) : State := s.setMe ((s.me.seen l).wrV d v).advance

/-- The state in which kD has received `v`, FULL, and the thread goes on at pc + 4. -/
def State.givesK (s : State) (l : List Src) (d : BitVec 3) (v : BitVec 32) : State := s.setMe ((s.me.seen l).wrK d v).advance

/-- The state in which the thread goes on at pc + 4 and nothing else of its registers has changed. -/
def State.goesPast (s : State) (l : List Src) : State := s.setMe (s.me.seen l).advance

/-! ### Early ends and frames -/

/-- How an instruction ends with none of its effect: it waits, with the accesses `l` issued or, of the bit-buffer, the words `r` read
(R217); it takes an exception, whose page is quarantined where a tag failed (R51); or it goes to the pager (R5, R33, R35). -/
def State.endsEarly (s t : State) : Prop :=
  (∃ w l, t = s.holdMe w l) ∨ (∃ w r, t = s.readMe w r) ∨ (∃ c e, t = (s.tagFails s.who .data c e).raise c e) ∨ (∃ m, t = s.sleepMe m)

/-- Every byte of memory and the presence of every word are as before. -/
def State.sameMemory (s t : State) : Prop := (∀ a, t.byteAt a = s.byteAt a) ∧ (∀ a, t.presAt a = s.presAt a)

/-- Every slot but the executing one is as before. -/
def State.sameOthers (s t : State) : Prop :=
  ∀ core slot, core * 16 + slot ≠ s.curCore * 16 + s.curSlot → t.slotAt core slot = s.slotAt core slot

/-- Nothing of the package but its slots has changed. -/
def State.onlySlots (s t : State) : Prop := { t with slots := s.slots } = s

/-- What a register instruction leaves unchanged: memory, everything but the slots, every other slot; of its own slot every
register but `d`, and every CSR but FLAGS (0x006), where only V may rise, and FPCSR (0x012), where only flags may rise. -/
def State.keepsAllBut (s t : State) (d : List Src) : Prop :=
  s.sameMemory t ∧ s.onlySlots t ∧ s.sameOthers t ∧
    (∀ r : BitVec 5, Src.g r ∉ d → t.me.gp r = s.me.gp r) ∧ (∀ r : BitVec 4, Src.v r ∉ d → t.me.vp r = s.me.vp r) ∧
    (∀ r : BitVec 3, Src.k r ∉ d → t.me.kp r = s.me.kp r) ∧
    (∀ i, i ≠ 0x006 → i ≠ 0x012 → t.me.csrv i = s.me.csrv i) ∧
    (t.me.csrv 0x006 = s.me.csrv 0x006 ∨ t.me.csrv 0x006 = s.me.csrv 0x006 ||| 1) ∧
    (∃ f : BitVec 5, t.me.csrv 0x012 = s.me.csrv 0x012 ||| (f.setWidth 64 <<< 8)) ∧
    t.me.occupant = s.me.occupant

end Sys2Proof.Machine
end

