-- ==== Sys2Proof/Certificates/Slice0/Obligations.lean ====
section
/-! DEFINITION. The statements for the provers, from the spec's numbered rules: what an instruction, a step or the machine
does, where it completes, and what it leaves unchanged. -/

namespace Sys2Proof.Said

open Sys2Proof.Machine

/-! ### Words of the statements -/

/-- What an executing instruction finds in three registers. -/
abbrev gv (s : State) (r : BitVec 5) : Word := s.me.gv r

/-- A truth value as a register holds it. -/
abbrev flag (p : Prop) [Decidable p] : Word := if p then 1 else 0

/-- The low 32 bits of a word, as a signed number. -/
abbrev lowInt (x : Word) : Int := (x.extractLsb' 0 32).toInt

/-- The 64-bit sign extension of the low 32 bits of a number: sext(x[31:0], 32). -/
abbrev narrow32 (x : Int) : Word := BitVec.ofInt 64 (BitVec.ofInt 32 x).toInt

/-- The state after a branch: at pc + sext(disp12, 12) · 4 where its test holds, else at pc + 4. -/
def branched (s : State) (l : List Src) (n : BitVec 12) (t : Prop) [Decidable t] : State :=
  s.setMe (if t then (s.me.seen l).jump (s.me.pc + BitVec.ofInt 64 (n.toInt * 4)) else (s.me.seen l).advance)

/-- It is the turn of slot `slot` of core `core`: no parked instruction goes on, and the cycle's issues have come to that core. -/
def AtTurn (s : State) (n core slot : Nat) : Prop :=
  s.frozen = false ∧ s.resumable = none ∧ s.phase = .issues n ∧ s.nextCore n = some core ∧ s.pick core = some slot

/-- The state as slot `slot` of core `core` takes its turn. -/
def turn (s : State) (core slot : Nat) : State := (s.endYield core).takeTurn core slot

/-- What the package shows, with its timestamp, its index and the source (R389). -/
abbrev shown (s : State) (src : Source) (o : Out) : Event := ⟨s.time, s.packageIndex, src.number, o⟩

/-- The four bytes of an instruction at a physical address. -/
def codeBytes (s : State) (a : Nat) : List Byte := [s.byteAt a, s.byteAt (a + 1), s.byteAt (a + 2), s.byteAt (a + 3)]

/-- The bytes that an access finds at a page are those of the package's memory: it is no HOST page and no device window, and no tile
cache may hold a line under an older set index (R40). -/
def InMemory (s : State) (p : Page) : Prop := p.tgt ≠ 5 ∧ p.tgt ≠ 6 ∧ s.recoloured = []

/-- The instruction fetch of the executing slot passes its checks, and what it waits for has come. -/
def Fetches (s : State) (phys : Nat) (t : State) : Prop :=
  ∃ a : Acc, s.fetchAcc = .ok (a, t) ∧ t.fetchLanded a = .ok () ∧ a.phys = phys ∧ InMemory s a.page

/-- The state in which the slot runs the word it has fetched. -/
def fetched (t : State) (w : BitVec 32) : State := t.setMe (t.me.withWord w)

/-- Nothing but its own checks stops an access to memory: no tile cache is being dropped or may hold stale lines, and no line, page or
sector is poisoned, quarantined or invalid. -/
def Calm (s : State) : Prop :=
  s.dropping = [] ∧ s.recoloured = [] ∧ s.poison = [] ∧ s.quarantine = [] ∧ s.badHash = [] ∧ s.badTags = []

/-- The translation structure that serves `u` first holds the page of `va` for `w`, in NEAR or LM memory and with every right; `phys` is
the place of the byte at `va`. -/
def Held (s : State) (w : Who) (u : TlbUnit) (va : Word) (phys : Nat) : Prop :=
  va.toNat < 2 ^ 52 ∧ ∃ k ∈ (tlbPath u w.core).head?, ∃ p : Page,
    (tabGet [] s.tlb k.1).find? (fun p => p.covers w.tenant va.toNat) = some p ∧
    (p.tgt = 0 ∧ isNear phys = true ∨ p.tgt = 2 ∧ isLm phys = true) ∧ p.self = false ∧ p.r = true ∧ p.w = true ∧ p.u = true ∧ phys = p.base + va.toNat % 2 ^ p.bits

/-- `n` words from `va` on lie at `a` and on, each with its translation held; `va` is aligned to 8 bytes. -/
def HeldWords (s : State) (w : Who) (u : TlbUnit) (va : Word) (n a : Nat) : Prop :=
  va.toNat % 8 = 0 ∧ ∀ i, i < n → Held s w u (va + word (8 * i)) (a + 8 * i)

/-- The instruction takes effect and its thread goes on: at pc + 4, READY, in the mode it was in. (A fault that is taken changes the mode
or stops the slot, and a wait parks it.) -/
def Completes (s : State) (i : Instr) : Prop :=
  ∃ t, exec i s = .next t ∧ t.me.pc = s.me.pc + 4 ∧ t.me.state = .ready ∧ t.me.status = s.me.status

/-- The FP32 value of a register's low half (R163). -/
abbrev fv (s : State) (r : BitVec 5) : Machine.Num := num ((s.me.gv r).extractLsb' 0 32)

/-- The rounding mode FPCSR.RM. -/
abbrev rm (s : State) : Nat := fld (s.me.csrv 0x012) 0 2

/-- An FP32 result, correctly rounded under FPCSR.RM with FZO (R145, R150), and its flags. -/
def rounded (s : State) (x : Exact) : Word × Fl :=
  (word (Fmt.f32.result (rm s) (bit (s.me.csrv 0x012) 3) x).1, (Fmt.f32.result (rm s) (bit (s.me.csrv 0x012) 3) x).2)

/-- Neither NSAT nor TNV turns these flags into a fault (R150). -/
def untrapped (s : State) (f : Fl) : Prop :=
  ¬ (bit (s.me.csrv 0x012) 4 = true ∧ f &&& flNoNan ≠ 0) ∧ ¬ (bit (s.me.csrv 0x012) 5 = true ∧ f &&& flNV ≠ 0)

/-- FPCSR with flags ORed into its sticky bits [12:8] (R133, R150). -/
def raisedFlags (s : State) (f : Fl) : Word := s.me.csrv 0x012 ||| word (f.toNat % 32 * 256)

/-- An FP32 result that is no arithmetic one, under FZO: a subnormal one is a zero of its sign, and sets UF and NX too (R150). -/
def tinyFlushed (s : State) (x : F32) (f : Fl) : Word × Fl :=
  if bit (s.me.csrv 0x012) 3 = true ∧ 0 < x.toNat % 2 ^ 31 ∧ x.toNat % 2 ^ 31 < 2 ^ 23 then
    ((x &&& 0x80000000).setWidth 64, f ||| flUF ||| flNX)
  else (x.setWidth 64, f)

/-- The state in which gD holds `r.1`, FULL, the flags `r.2` are set in FPCSR, and the pc is 4 further. -/
def fpGives (s : State) (l : List Src) (d : BitVec 5) (r : Word × Fl) : State :=
  s.setMe (((s.me.seen l).setCsr 0x012 (raisedFlags s r.2)).wrG d r.1).advance

/-- A scalar floating instruction completes with its result and flags, or takes 0x11 or 0x10 with EVAL 0 and writes nothing. -/
def FpDoes (s : State) (i : Instr) (l : List Src) (d : BitVec 5) (r : Word × Fl) : Prop :=
  (untrapped s r.2 → exec i s = .next (fpGives s l d r)) ∧
  (¬ untrapped s r.2 → exec i s = .next (s.raise (if bit (s.me.csrv 0x012) 4 = true ∧ r.2 &&& flNoNan ≠ 0 then 0x11 else 0x10) 0))

/-- Registers that a scalar instruction of majors 0x01–0x0F and 0x21 reads, and the one that it writes. -/
def scalarForm : Instr → Option (List Src × List Src)
  | .add d a b | .sub d a b | .and d a b | .or d a b | .xor d a b | .sll d a b | .srl d a b | .sra d a b | .slt d a b
  | .sltu d a b | .min d a b | .max d a b | .minu d a b | .maxu d a b | .bext d a b | .addW d a b | .subW d a b | .sllW d a b
  | .srlW d a b | .sraW d a b | .mul d a b | .mulh d a b | .mulhu d a b | .div d a b | .divu d a b | .rem d a b | .remu d a b
  | .mulW d a b | .fadd d a b | .fsub d a b | .fmul d a b | .fdiv d a b | .fmin d a b | .fmax d a b | .feq d a b | .flt d a b
  | .fle d a b | .rndLo d a b | .rndHi d a b => some ([.g a, .g b], [.g d])
  | .bins d a b | .csel d a b => some ([.g d, .g a, .g b], [.g d])
  | .clz d a | .ctz d a | .popc d a | .fsqrt d a | .fexp2 d a | .frcp d a | .fclass d a => some ([.g a], [.g d])
  | .addi d a _ | .andi d a _ | .ori d a _ | .xori d a _ | .slti d a _ | .jalr d a _ => some ([.g a], [.g d])
  | .slli d a _ | .srli d a _ | .srai d a _ => some ([.g a], [.g d])
  | .lui d _ | .addpc d _ => some ([], [.g d])
  | .fcvt d a _ _ => some ([.g a], [.g d])
  | .ffma d a b c | .ffms d a b c | .fnma d a b c => some ([.g a, .g b, .g c], [.g d])
  | .bEq a b _ | .bNe a b _ | .bLt a b _ | .bGe a b _ | .bLtu a b _ | .bGeu a b _ => some ([.g a, .g b], [])
  | .bVs _ | .bVc _ | .j _ => some ([], [])
  | .jal _ => some ([], [.g 31])
  | _ => none

end Sys2Proof.Said

section Statements

open Sys2Proof Sys2Proof.Machine Sys2Proof.Said

/-! ### Encoding -/

/-- Words written out in the spec's tables of worked encodings decode to the instructions they stand for, one of each family. -/
def Obligations.SpecWordsDecode : Prop :=
  decodeAny 0x08E84801 = .ok (.mulh 7 8 9) ∧ decodeAny 0x0CA6FFFC = .ok (.addi 5 6 0xFFFC) ∧
  decodeAny 0x1C648007 = .ok (.srai 3 4 7) ∧ decodeAny 0x2D800004 = .ok (.bVs 4) ∧ decodeAny 0x32000010 = .ok (.jal 16) ∧
  decodeAny 0x38640046 = .ok (.fcvt 3 4 0 6) ∧ decodeAny 0x3C642980 = .ok (.ffma 3 4 5 6) ∧
  decodeAny 0x84642801 = .ok (.rndHi 3 4 5) ∧ decodeAny 0x5C201412 = .ok (.csrr 5 0x012) ∧
  decodeAny 0x5CA20000 = .ok (.tlbinv 4 0) ∧ decodeAny 0x5CD00C00 = .ok (.remptyV 3)

/-- No bit of an encoding is dropped: on every core that has its major, the bytes of a well-formed instruction decode to it, with
every operand at every value that the encoding admits. -/
def Obligations.DecodeInvertsEncode : Prop :=
  ∀ (k : CoreKind) (i : Instr), i.encoded = true → i.wf = true → hasMajor k ((encode i).extractLsb' 26 6).toNat = true →
    decodeBytes k (bytesOfWord (encode i)) = .ok i

/-- Each word has one meaning: what a word decodes to on a core is well-formed, is an instruction of a major that the core has,
and has that word as its encoding. -/
def Obligations.EncodeInvertsDecode : Prop :=
  ∀ (k : CoreKind) (w : BitVec 32) (i : Instr), decode k w = .ok i →
    i.encoded = true ∧ i.wf = true ∧ hasMajor k (w.extractLsb' 26 6).toNat = true ∧ encode i = w

/-! ### Steps -/

/-- A step runs the decoded instruction: at a slot's turn, when its fetch passes its checks and the bytes at pc decode to an
instruction, the step is exec of it, at the state in which the issue is counted and the word is fetched. That a parked instruction
that goes on runs the word that it was issued with, and is not fetched again, is the model's choice (DEDUCED, log entry 40). -/
def Obligations.StepRunsDecoded : Prop :=
  (∀ (s : State) (n core slot : Nat), AtTurn s n core slot → (turn s core slot).me.overBudget = false →
    ∀ (phys : Nat) (t : State) (i : Instr), Fetches (turn s core slot).countIssue phys t →
      decodeBytes (coreKind core) (codeBytes t phys) = .ok i →
      step s = exec i (fetched t (wordOfBytes (codeBytes t phys)))) ∧
  (∀ (s : State) (core slot : Nat) (w : BitVec 32) (i : Instr), s.frozen = false → s.resumable = some (core, slot) → (s.slotAt core slot).fetched = some w → decode (coreKind core) w = .ok i →
    step s = exec i { s with curCore := core, curSlot := slot })

/-- R118: the slot that issues is READY and issued last at least 4 cycles ago; the slot whose turn it is goes first, unless it has
yielded (R175); a slot whose own turn lies 1 to 3 cycles ahead is never given a donated turn.

R134: ISSUED rises by 1 at every issue. A U-mode instruction with BUDGET ≠ 0 and ISSUED ≥ BUDGET does not issue: the slot
takes its turn, ISSUED stays, and 0x0D is raised with EVAL = ISSUED. -/
def Obligations.IssueRules : Prop :=
  (∀ (s : State) (core k : Nat), s.pick core = some k →
     (s.slotAt core k).state = .ready ∧ (∀ l, (s.slotAt core k).lastIssue = some l → l + 4 ≤ s.cycle) ∧
     ((s.slotAt core (s.cycle % slotCount core)).eligible s.cycle = true ∧
         (s.slotAt core (s.cycle % slotCount core)).yielded = false → k = s.cycle % slotCount core) ∧
     (∀ d, 1 ≤ d → d ≤ 3 → k ≠ (s.cycle + d) % slotCount core)) ∧
  ((∀ s : State, s.countIssue.me.csrv 0x032 = s.me.csrv 0x032 + 1) ∧
   (∀ sl : Slot, sl.overBudget = true ↔ sl.mode = 0 ∧ sl.csrv 0x031 ≠ 0 ∧ sl.csrv 0x031 ≤ sl.csrv 0x032) ∧
   (∀ s : State, exec .cycleBudgetFault s = .next (s.raise 0x0D (s.me.csrv 0x032))) ∧
   (∀ (s : State) (n core slot : Nat), AtTurn s n core slot → (turn s core slot).me.overBudget = true →
     step s = .next ((turn s core slot).raise 0x0D ((turn s core slot).me.csrv 0x032)) ∧
     (turn s core slot).me.csrv 0x032 = (s.slotAt core slot).csrv 0x032 ∧ (turn s core slot).me.lastIssue = some s.cycle))

/-! ### Reset and the canonical form -/

/-- The state right after reset: every slot is FREE, every byte reads 0 and every word is FULL (R43), no command is accepted, the
package is not frozen, and the core clock runs at 3,300 MHz (R8). That registers hold 0 and FULL where no rule gives them a
value is the model's choice (log entry 1).

Memory and presence are in canonical form at reset. -/
def Obligations.ResetState : Prop :=
  ((∀ core slot, (State.reset.slotAt core slot).state = .free) ∧ (∀ a, State.reset.byteAt a = 0) ∧
   (∀ a, State.reset.presAt a = .full) ∧ (∀ k i c, State.reset.cmdsOf k i c = []) ∧
   (∀ k i c n, State.reset.erp k i c n = (0, .full)) ∧ State.reset.frozen = false ∧ State.reset.clockMHz = 3300 ∧
   (∀ core slot r, (State.reset.slotAt core slot).gp r = (0, .full))) ∧
  (State.reset.canonical)

/-- Every step keeps the canonical form of memory and presence, so that equal contents stay equal data. -/
def Obligations.StepKeepsCanonical : Prop := ∀ s t : State, s.canonical → step s = .next t → t.canonical

/-! ### Faults and returns -/

/-- R135: a fault in mode U with INH = 0 and TVEC ≠ 0 is delivered: CAUSE, EPC and EVAL are written, PMODE is the old mode, INH is
1, the mode is S and the pc is TVEC; nothing else of the slot's registers and CSRs changes, the slot is READY, and nothing of the
rest of the package changes: memory, engine commands and their state stay as they are. -/
def Obligations.FaultDelivery : Prop :=
  (∀ (s : State) (code : Nat) (eval : Word), s.me.mode = 0 → s.me.inh = false → s.me.csrv 0x004 ≠ 0 →
    s.raise code eval = s.setMe (s.me.raise code eval)) ∧
  (∀ (sl : Slot) (code : Nat) (eval : Word), sl.mode = 0 → sl.inh = false → sl.csrv 0x004 ≠ 0 →
    (sl.raise code eval).csrv 0x001 = word code ∧ (sl.raise code eval).csrv 0x002 = sl.pc ∧
    (sl.raise code eval).csrv 0x003 = eval ∧ (sl.raise code eval).pmode = sl.mode ∧ (sl.raise code eval).inh = true ∧
    (sl.raise code eval).mode = 1 ∧ (sl.raise code eval).pc = sl.csrv 0x004 ∧ (sl.raise code eval).state = .ready ∧
    (∀ i, 4 ≤ i → (sl.raise code eval).csrv i = sl.csrv i) ∧
    (∀ i, 5 ≤ i → i < 64 → (sl.raise code eval).status.getLsbD i = sl.status.getLsbD i) ∧
    (∀ r, (sl.raise code eval).gp r = sl.gp r) ∧ (∀ r, (sl.raise code eval).vp r = sl.vp r) ∧
    (∀ r, (sl.raise code eval).kp r = sl.kp r))

/-- R136: any other fault escalates: HCAUSE holds the code, the mode and INH at the fault, HEPC the pc and HEVAL the value; CAUSE,
EPC and EVAL stay; HTVEC is entered in mode H; a fault in mode H makes the slot STOPPED and is reported. -/
def Obligations.FaultEscalation : Prop :=
  ∀ (s : State) (code : Nat) (eval : Word), code < 256 → ¬ (s.me.mode = 0 ∧ s.me.inh = false ∧ s.me.csrv 0x004 ≠ 0) →
    fld ((s.raise code eval).me.csrv 0x103) 0 8 = code ∧
    fld ((s.raise code eval).me.csrv 0x103) 8 2 = s.me.mode.toNat ∧ bit ((s.raise code eval).me.csrv 0x103) 10 = s.me.inh ∧
    (s.raise code eval).me.csrv 0x102 = s.me.pc ∧ (s.raise code eval).me.csrv 0x105 = eval ∧
    (∀ i, 1 ≤ i → i ≤ 3 → (s.raise code eval).me.csrv i = s.me.csrv i) ∧ (s.raise code eval).me.mode = 3 ∧
    (s.me.mode ≠ 3 → (s.raise code eval).me.pc = align4 (s.me.csrv 0x101) ∧ (s.raise code eval).me.state = .ready) ∧
    (s.me.mode = 3 → (s.raise code eval).me.state = .stopped ∧
      (s.raise code eval).out = s.out ++ [shown s (coreSource s.curCore) (.report code s.me.pc.toNat eval.toNat)])

/-- A fault changes nothing but the slot that takes it and the log of reports: no memory, no other slot, no other part of the
package (R5, R135: nothing of the faulting instruction has taken effect). -/
def Obligations.FaultFrame : Prop :=
  ∀ (s : State) (code : Nat) (eval : Word), s.sameMemory (s.raise code eval) ∧ s.sameOthers (s.raise code eval) ∧
    { s.raise code eval with slots := s.slots, out := s.out } = s ∧
    (∀ r, (s.raise code eval).me.gp r = s.me.gp r) ∧ (∀ r, (s.raise code eval).me.vp r = s.me.vp r) ∧
    (∀ r, (s.raise code eval).me.kp r = s.me.kp r) ∧
    (∀ i, 4 ≤ i → i ≠ 0x102 → i ≠ 0x103 → i ≠ 0x105 → (s.raise code eval).me.csrv i = s.me.csrv i)

/-- R170: `trap n` raises 0x0F with EVAL = n and `ebreak` raises 0x0E with EVAL = 0, from every state.

R171: `eret` in mode S returns to EPC with bits [1:0] cleared, in the mode of PMODE with INH = 0; in mode H to HEPC, in the mode
and INH of HCAUSE, where 2 becomes 3. The slot goes on; nothing else changes. -/
def Obligations.TrapsAndReturn : Prop :=
  (∀ s : State, (∀ n : BitVec 10, exec (.trap n) s = .next (s.raise 0x0F (n.setWidth 64))) ∧
     exec .ebreak s = .next (s.raise 0x0E 0)) ∧
  (∀ s : State, s.me.mode ≠ 0 → ∃ t, exec .eret s = .next t ∧ s.sameMemory t ∧ s.onlySlots t ∧ s.sameOthers t ∧
     (s.me.mode = 1 → t.me.pc = s.me.csrv 0x002 &&& ~~~3 ∧ t.me.mode = s.me.pmode ∧ t.me.inh = false) ∧
     (s.me.mode ≠ 1 → t.me.pc = s.me.csrv 0x102 &&& ~~~3 ∧
       t.me.mode.toNat = (if fld (s.me.csrv 0x103) 8 2 = 2 then 3 else fld (s.me.csrv 0x103) 8 2) ∧
       t.me.inh = bit (s.me.csrv 0x103) 10) ∧
     (∀ i, i ≠ 0 → t.me.csrv i = s.me.csrv i) ∧ (∀ r, t.me.gp r = s.me.gp r) ∧ (∀ r, t.me.vp r = s.me.vp r) ∧
     (∀ r, t.me.kp r = s.me.kp r) ∧ t.me.pmode = s.me.pmode ∧ t.me.state = .ready)

/-! ### Scalar results (R154–R168)

`s.givesG l d v` is the state in which gD holds `v`, FULL (g0 discards it), FLAGS.V is set if a source in `l` was VOID, and the
pc is 4 further. -/

/-- R155: the integer register instructions, each with its effect as the table gives it.

R155: `clz`, `ctz` and `popc` count leading zeros, trailing zeros and ones; both zero counts of 0 are 64.

R156: the field instructions, with p = b[5:0], n = b[11:6] (0 means 64) and m = min(n, 64 − p); `bins` and `csel` read their
destination as a source: they wait while it is EMPTY, and write nothing where it is g0. -/
def Obligations.IntegerRegister : Prop :=
  (∀ (s : State) (d a b : BitVec 5), s.me.ready [.g a, .g b] →
     exec (.add d a b) s = .next (s.givesG [.g a, .g b] d (gv s a + gv s b)) ∧
     exec (.sub d a b) s = .next (s.givesG [.g a, .g b] d (gv s a - gv s b)) ∧
     exec (.and d a b) s = .next (s.givesG [.g a, .g b] d (gv s a &&& gv s b)) ∧
     exec (.or d a b) s = .next (s.givesG [.g a, .g b] d (gv s a ||| gv s b)) ∧
     exec (.xor d a b) s = .next (s.givesG [.g a, .g b] d (gv s a ^^^ gv s b)) ∧
     exec (.sll d a b) s = .next (s.givesG [.g a, .g b] d (word ((gv s a).toNat * 2 ^ ((gv s b).toNat % 64)))) ∧
     exec (.srl d a b) s = .next (s.givesG [.g a, .g b] d (word ((gv s a).toNat / 2 ^ ((gv s b).toNat % 64)))) ∧
     exec (.sra d a b) s = .next (s.givesG [.g a, .g b] d (BitVec.ofInt 64 ((gv s a).toInt / 2 ^ ((gv s b).toNat % 64)))) ∧
     exec (.slt d a b) s = .next (s.givesG [.g a, .g b] d (flag ((gv s a).toInt < (gv s b).toInt))) ∧
     exec (.sltu d a b) s = .next (s.givesG [.g a, .g b] d (flag ((gv s a).toNat < (gv s b).toNat))) ∧
     exec (.min d a b) s = .next (s.givesG [.g a, .g b] d (BitVec.ofInt 64 (min (gv s a).toInt (gv s b).toInt))) ∧
     exec (.max d a b) s = .next (s.givesG [.g a, .g b] d (BitVec.ofInt 64 (max (gv s a).toInt (gv s b).toInt))) ∧
     exec (.minu d a b) s = .next (s.givesG [.g a, .g b] d (word (min (gv s a).toNat (gv s b).toNat))) ∧
     exec (.maxu d a b) s = .next (s.givesG [.g a, .g b] d (word (max (gv s a).toNat (gv s b).toNat))) ∧
     exec (.addW d a b) s = .next (s.givesG [.g a, .g b] d (narrow32 ((gv s a).toInt + (gv s b).toInt))) ∧
     exec (.subW d a b) s = .next (s.givesG [.g a, .g b] d (narrow32 ((gv s a).toInt - (gv s b).toInt))) ∧
     exec (.sllW d a b) s = .next (s.givesG [.g a, .g b] d
       (narrow32 ((gv s a).toNat % 2 ^ 32 * 2 ^ ((gv s b).toNat % 32) : Nat))) ∧
     exec (.srlW d a b) s = .next (s.givesG [.g a, .g b] d
       (narrow32 ((gv s a).toNat % 2 ^ 32 / 2 ^ ((gv s b).toNat % 32) : Nat))) ∧
     exec (.sraW d a b) s = .next (s.givesG [.g a, .g b] d (narrow32 (lowInt (gv s a) / 2 ^ ((gv s b).toNat % 32))))) ∧
  (∀ (s : State) (d a : BitVec 5), s.me.ready [.g a] →
     (∃ n : Nat, exec (.clz d a) s = .next (s.givesG [.g a] d (word n)) ∧ n ≤ 64 ∧ (gv s a).toNat < 2 ^ (64 - n) ∧
       (n < 64 → 2 ^ (63 - n) ≤ (gv s a).toNat)) ∧
     (∃ n : Nat, exec (.ctz d a) s = .next (s.givesG [.g a] d (word n)) ∧ n ≤ 64 ∧ (∀ i, i < n → (gv s a).getLsbD i = false) ∧
       (n < 64 → (gv s a).getLsbD n = true)) ∧
     exec (.popc d a) s = .next (s.givesG [.g a] d (word ((List.range 64).filter (fun i => (gv s a).getLsbD i)).length))) ∧
  (∀ (s : State) (d a b : BitVec 5) (p n m : Nat), p = (gv s b).toNat % 64 →
     n = (if (gv s b).toNat / 64 % 64 = 0 then 64 else (gv s b).toNat / 64 % 64) → m = min n (64 - p) →
     (s.me.ready [.g a, .g b] →
       exec (.bext d a b) s = .next (s.givesG [.g a, .g b] d (word ((gv s a).toNat / 2 ^ p % 2 ^ m)))) ∧
     (s.me.ready [.g d, .g a, .g b] →
       (∃ v, exec (.bins d a b) s = .next (s.givesG [.g d, .g a, .g b] d v) ∧
         ∀ i, i < 64 → v.getLsbD i = if p ≤ i ∧ i < p + m then (gv s a).getLsbD (i - p) else (gv s d).getLsbD i) ∧
       exec (.csel d a b) s = .next (s.givesG [.g d, .g a, .g b] d (if gv s d ≠ 0 then gv s a else gv s b)) ∧
       (d = 0 → exec (.bins d a b) s = .next (s.goesPast [.g d, .g a, .g b]) ∧
         exec (.csel d a b) s = .next (s.goesPast [.g d, .g a, .g b]))) ∧
     ((s.me.gp d).2 = .empty → exec (.bins d a b) s = .next (s.parkMe (.reg (.g d))) ∧
       exec (.csel d a b) s = .next (s.parkMe (.reg (.g d)))))

/-- R157: multiplication and division. A division by 0 gives all ones and the dividend; −2^63 ÷ −1 gives −2^63 and 0; any other
quotient is truncated, and the remainder is x − y · quotient. None of them traps. -/
def Obligations.MultiplyDivide : Prop :=
  ∀ (s : State) (d a b : BitVec 5), s.me.ready [.g a, .g b] →
    exec (.mul d a b) s = .next (s.givesG [.g a, .g b] d (word ((gv s a).toNat * (gv s b).toNat))) ∧
    exec (.mulh d a b) s = .next (s.givesG [.g a, .g b] d (BitVec.ofInt 64 ((gv s a).toInt * (gv s b).toInt / 2 ^ 64))) ∧
    exec (.mulhu d a b) s = .next (s.givesG [.g a, .g b] d (word ((gv s a).toNat * (gv s b).toNat / 2 ^ 64))) ∧
    exec (.mulW d a b) s = .next (s.givesG [.g a, .g b] d (narrow32 (lowInt (gv s a) * lowInt (gv s b)))) ∧
    (∃ q r, exec (.div d a b) s = .next (s.givesG [.g a, .g b] d q) ∧ exec (.rem d a b) s = .next (s.givesG [.g a, .g b] d r) ∧
      (gv s b = 0 → q = 0xFFFFFFFFFFFFFFFF ∧ r = gv s a) ∧
      (gv s a = 0x8000000000000000 ∧ (gv s b).toInt = -1 → q = 0x8000000000000000 ∧ r = 0) ∧
      (gv s b ≠ 0 ∧ ¬ (gv s a = 0x8000000000000000 ∧ (gv s b).toInt = -1) →
        q.toInt = (gv s a).toInt.tdiv (gv s b).toInt ∧ r.toInt = (gv s a).toInt - (gv s b).toInt * q.toInt)) ∧
    (∃ q r, exec (.divu d a b) s = .next (s.givesG [.g a, .g b] d q) ∧ exec (.remu d a b) s = .next (s.givesG [.g a, .g b] d r) ∧
      (gv s b = 0 → q = 0xFFFFFFFFFFFFFFFF ∧ r = gv s a) ∧
      (gv s b ≠ 0 → q.toNat = (gv s a).toNat / (gv s b).toNat ∧ r.toNat = (gv s a).toNat - (gv s b).toNat * q.toNat))

/-- R158: the immediate forms.

R159: each branch goes to pc + sext(disp12, 12) · 4 where its test holds, else to pc + 4; `b.vs` and `b.vc` test FLAGS.V,
read no register and leave FLAGS.V.

R160, R161: `j` and `jal` go to pc + sext(disp25, 25) · 4, and `jal` first writes g31 := pc + 4; `jalr` computes its target
from gA before gD is written, clears bits [1:0], and writes pc + 4; the three have the encodings that the rules give. -/
def Obligations.ImmediatesAndJumps : Prop :=
  (∀ (s : State) (d a : BitVec 5) (x : BitVec 16) (n : BitVec 6) (u : BitVec 21),
     (s.me.ready [.g a] →
       exec (.addi d a x) s = .next (s.givesG [.g a] d (gv s a + BitVec.ofInt 64 x.toInt)) ∧
       exec (.andi d a x) s = .next (s.givesG [.g a] d (gv s a &&& word x.toNat)) ∧
       exec (.ori d a x) s = .next (s.givesG [.g a] d (gv s a ||| word x.toNat)) ∧
       exec (.xori d a x) s = .next (s.givesG [.g a] d (gv s a ^^^ word x.toNat)) ∧
       exec (.slli d a n) s = .next (s.givesG [.g a] d (word ((gv s a).toNat * 2 ^ n.toNat))) ∧
       exec (.srli d a n) s = .next (s.givesG [.g a] d (word ((gv s a).toNat / 2 ^ n.toNat))) ∧
       exec (.srai d a n) s = .next (s.givesG [.g a] d (BitVec.ofInt 64 ((gv s a).toInt / 2 ^ n.toNat))) ∧
       exec (.slti d a x) s = .next (s.givesG [.g a] d (flag ((gv s a).toInt < x.toInt)))) ∧
     exec (.lui d u) s = .next (s.givesG [] d (BitVec.ofInt 64 (u.toInt * 2 ^ 16))) ∧
     exec (.addpc d u) s = .next (s.givesG [] d (s.me.pc + BitVec.ofInt 64 (u.toInt * 4)))) ∧
  (∀ (s : State) (a b : BitVec 5) (n : BitVec 12),
     (s.me.ready [.g a, .g b] →
       exec (.bEq a b n) s = .next (branched s [.g a, .g b] n (gv s a = gv s b)) ∧
       exec (.bNe a b n) s = .next (branched s [.g a, .g b] n (gv s a ≠ gv s b)) ∧
       exec (.bLt a b n) s = .next (branched s [.g a, .g b] n ((gv s a).toInt < (gv s b).toInt)) ∧
       exec (.bGe a b n) s = .next (branched s [.g a, .g b] n ((gv s b).toInt ≤ (gv s a).toInt)) ∧
       exec (.bLtu a b n) s = .next (branched s [.g a, .g b] n ((gv s a).toNat < (gv s b).toNat)) ∧
       exec (.bGeu a b n) s = .next (branched s [.g a, .g b] n ((gv s b).toNat ≤ (gv s a).toNat))) ∧
     exec (.bVs n) s = .next (branched s [] n ((s.me.csrv 0x006).getLsbD 0 = true)) ∧
     exec (.bVc n) s = .next (branched s [] n ((s.me.csrv 0x006).getLsbD 0 = false))) ∧
  (∀ (s : State) (d a : BitVec 5) (x : BitVec 16) (n : BitVec 25),
     exec (.j n) s = .next (s.setMe (s.me.jump (s.me.pc + BitVec.ofInt 64 (n.toInt * 4)))) ∧
     exec (.jal n) s = .next (s.setMe ((s.me.wrG 31 (s.me.pc + 4)).jump (s.me.pc + BitVec.ofInt 64 (n.toInt * 4)))) ∧
     (s.me.ready [.g a] → exec (.jalr d a x) s =
       .next (s.setMe (((s.me.seen [.g a]).wrG d (s.me.pc + 4)).jump ((gv s a + BitVec.ofInt 64 (x.toInt * 4)) &&& ~~~3)))) ∧
     encode (.j n) = 0x0C#6 ++ 0#1 ++ n ∧ encode (.jal n) = 0x0C#6 ++ 1#1 ++ n ∧ encode (.jalr d a x) = 0x0D#6 ++ d ++ a ++ x)

/-- R168: `rnd.lo` and `rnd.hi` are the two halves of Philox-4×32-10 with key a and counter (b, 0), ten rounds as the rule writes
them; with a = 0 and b = 0 they give 0xE169C58D6627E8D5 and 0x9B00DBD8BC57AC4C. Their encodings are those of major 0x21. -/
def Obligations.PhiloxGenerator : Prop :=
  (∀ (s : State) (d a b : BitVec 5), s.me.ready [.g a, .g b] →
    ∃ x : Nat → BitVec 32 × BitVec 32 × BitVec 32 × BitVec 32,
      x 0 = ((gv s b).extractLsb' 0 32, (gv s b).extractLsb' 32 32, 0, 0) ∧
      (∀ n, n < 10 →
        let p : Word := 0xD2511F53 * (x n).1.setWidth 64
        let q : Word := 0xCD9E8D57 * (x n).2.2.1.setWidth 64
        let k0 := (gv s a).extractLsb' 0 32 + BitVec.ofNat 32 (n * 0x9E3779B9)
        let k1 := (gv s a).extractLsb' 32 32 + BitVec.ofNat 32 (n * 0xBB67AE85)
        x (n + 1) = (q.extractLsb' 32 32 ^^^ (x n).2.1 ^^^ k0, q.extractLsb' 0 32,
          p.extractLsb' 32 32 ^^^ (x n).2.2.2 ^^^ k1, p.extractLsb' 0 32)) ∧
      exec (.rndLo d a b) s = .next (s.givesG [.g a, .g b] d ((x 10).2.1 ++ (x 10).1)) ∧
      exec (.rndHi d a b) s = .next (s.givesG [.g a, .g b] d ((x 10).2.2.2 ++ (x 10).2.2.1))) ∧
  (∀ s : State, exec (.rndLo 1 0 0) s = .next (s.givesG [] 1 0xE169C58D6627E8D5) ∧
    exec (.rndHi 1 0 0) s = .next (s.givesG [] 1 0x9B00DBD8BC57AC4C)) ∧
  (∀ d a b : BitVec 5, encode (.rndLo d a b) = 0x21#6 ++ d ++ a ++ b ++ 0x000#11 ∧
    encode (.rndHi d a b) = 0x21#6 ++ d ++ a ++ b ++ 0x001#11)

/-- R164: FP32 arithmetic, correctly rounded under RM, with flags and faults by R150; `fexp2` is 2^a and `frcp` 1 ÷ a. -/
def Obligations.FpArithmetic : Prop :=
  ∀ (s : State) (d a b : BitVec 5),
    (s.me.ready [.g a, .g b] →
      FpDoes s (.fadd d a b) [.g a, .g b] d (rounded s (addExact (rm s) (fv s a) (fv s b))) ∧
      FpDoes s (.fsub d a b) [.g a, .g b] d (rounded s (addExact (rm s) (fv s a) (fv s b).neg)) ∧
      FpDoes s (.fmul d a b) [.g a, .g b] d (rounded s (mulExact (fv s a) (fv s b))) ∧
      FpDoes s (.fdiv d a b) [.g a, .g b] d (rounded s (divExact (fv s a) (fv s b)))) ∧
    (s.me.ready [.g a] →
      FpDoes s (.fsqrt d a) [.g a] d (rounded s (sqrtExact (fv s a))) ∧
      FpDoes s (.fexp2 d a) [.g a] d (rounded s (exp2Num (fv s a))) ∧
      FpDoes s (.frcp d a) [.g a] d (rounded s (divExact (.fin false 1 0) (fv s a))))

/-- R165: `fmin` and `fmax` give the lesser and the greater, with −0 below +0; one NaN gives the other operand and two the
canonical NaN; NV is set when an operand is signalling. A compare gives 1 or 0, and 0 with a NaN; `feq` sets NV with a
signalling operand, `flt` and `fle` with any NaN. With FZO = 1 a subnormal result of `fmin` and `fmax` becomes a zero of its sign, with
UF and NX (R150).

R165: `fclass` gives one bit, that of the class of the low 32 bits of gA, and sets no flag. -/
def Obligations.FpSelectAndClass : Prop :=
  (∀ (s : State) (d a b : BitVec 5) (x y : F32) (sig any : Fl), s.me.ready [.g a, .g b] →
     x = (gv s a).extractLsb' 0 32 → y = (gv s b).extractLsb' 0 32 →
     sig = (if (num x).isSig ∨ (num y).isSig then flNV else 0) → any = (if (num x).isNan ∨ (num y).isNan then flNV else 0) →
     FpDoes s (.fmin d a b) [.g a, .g b] d (tinyFlushed s (if (num x).isNan then (if (num y).isNan then 0x7FC00000 else y)
       else if (num y).isNan ∨ ordKey x < ordKey y then x else y) sig) ∧
     FpDoes s (.fmax d a b) [.g a, .g b] d (tinyFlushed s (if (num x).isNan then (if (num y).isNan then 0x7FC00000 else y)
       else if (num y).isNan ∨ ¬ ordKey x < ordKey y then x else y) sig) ∧
     FpDoes s (.feq d a b) [.g a, .g b] d
       (flag ((num x).isNan = false ∧ (num y).isNan = false ∧ valKey x = valKey y), sig) ∧
     FpDoes s (.flt d a b) [.g a, .g b] d
       (flag ((num x).isNan = false ∧ (num y).isNan = false ∧ valKey x < valKey y), any) ∧
     FpDoes s (.fle d a b) [.g a, .g b] d
       (flag ((num x).isNan = false ∧ (num y).isNan = false ∧ valKey x ≤ valKey y), any)) ∧
  (∀ (s : State) (d a : BitVec 5) (m e : Nat) (neg : Bool), s.me.ready [.g a] →
     neg = (gv s a).getLsbD 31 → e = (gv s a).toNat / 2 ^ 23 % 256 → m = (gv s a).toNat % 2 ^ 23 →
     ∃ k : Nat, exec (.fclass d a) s = .next (s.givesG [.g a] d (word (2 ^ k))) ∧ k < 10 ∧
       (k = 0 ↔ e = 255 ∧ m = 0 ∧ neg = true) ∧ (k = 1 ↔ 0 < e ∧ e < 255 ∧ neg = true) ∧ (k = 2 ↔ e = 0 ∧ m ≠ 0 ∧ neg = true) ∧
       (k = 3 ↔ e = 0 ∧ m = 0 ∧ neg = true) ∧ (k = 4 ↔ e = 0 ∧ m = 0 ∧ neg = false) ∧ (k = 5 ↔ e = 0 ∧ m ≠ 0 ∧ neg = false) ∧
       (k = 6 ↔ 0 < e ∧ e < 255 ∧ neg = false) ∧ (k = 7 ↔ e = 255 ∧ m = 0 ∧ neg = false) ∧
       (k = 8 ↔ e = 255 ∧ m ≠ 0 ∧ m < 2 ^ 22) ∧ (k = 9 ↔ e = 255 ∧ 2 ^ 22 ≤ m))

/-- The floating formats of `fcvt` and the bits that it reads of a register in each (R163). -/
def Sys2Proof.Said.scalarFloat : List (BitVec 3 × Fmt × Nat) :=
  [(0, .f32, 32), (1, .bf16, 16), (2, .f16, 16), (3, .e5m2, 8), (4, .e4m3, 8)]

/-- The integer formats of `fcvt`: their ranges, and the value of a register in each (R163). -/
def Sys2Proof.Said.scalarInteger (x : Word) : List (BitVec 3 × Int × Int × Int) :=
  [(5, -(2 ^ 63), 2 ^ 63 - 1, x.toInt), (6, -(2 ^ 31), 2 ^ 31 - 1, lowInt x), (7, 0, 2 ^ 32 - 1, (x.toNat % 2 ^ 32 : Nat))]

/-- A register's value in a floating format; a subnormal code of a narrow format is a zero of its sign under FZI (R149). -/
def Sys2Proof.Said.floatIn (s : State) (f : BitVec 3) (p : Fmt) (w : Nat) (x : Word) : Machine.Num :=
  p.decodeFlush (bit (s.me.csrv 0x012) 2 && decide (3 ≤ f)) (x.toNat % 2 ^ w)

/-- A value converted into a floating format: rounded under RM with FZO into f32, to nearest even into any other (R145–R147, R150). -/
def Sys2Proof.Said.floatOut (s : State) (t : BitVec 3) (q : Fmt) (x : Machine.Num) : Word × Fl :=
  let r := q.conv (if t = 0 then rm s else 0) (bit (s.me.csrv 0x012) 3 && decide (t = 0)) x
  (word r.1, r.2)

/-- R166, R167: the fused operations round their exact value once; `fcvt` converts between the formats of R163: between floating
formats, and from an integer to a floating format, by one rounding (under RM into f32, else to nearest even); from a floating format to an
integer by truncation with saturation; and between integers by saturation without a flag. That a BF16 subnormal converted to FP32 under
FZO becomes a zero of its sign, with UF and NX, is the model's choice (DEDUCED, log entry 42). With NSAT and TNV 0 each of the four
(`fcvt`, `ffma`, `ffms`, `fnma`) completes, whatever its operands are. -/
def Obligations.FpFusedAndConvert : Prop :=
  ∀ (s : State) (d a b c : BitVec 5) (f t : BitVec 3),
    (bit (s.me.csrv 0x012) 4 = false → bit (s.me.csrv 0x012) 5 = false →
      (s.me.ready [.g a] → Completes s (.fcvt d a f t)) ∧
      (s.me.ready [.g a, .g b, .g c] → Completes s (.ffma d a b c) ∧ Completes s (.ffms d a b c) ∧ Completes s (.fnma d a b c))) ∧
    (s.me.ready [.g a, .g b, .g c] →
      FpDoes s (.ffma d a b c) [.g a, .g b, .g c] d (rounded s (fmaExact (rm s) (fv s a) (fv s b) (fv s c))) ∧
      FpDoes s (.ffms d a b c) [.g a, .g b, .g c] d (rounded s (fmaExact (rm s) (fv s a) (fv s b) (fv s c).neg)) ∧
      FpDoes s (.fnma d a b c) [.g a, .g b, .g c] d (rounded s (fmaExact (rm s) (fv s a).neg (fv s b) (fv s c)))) ∧
    (s.me.ready [.g a] →
      (∀ p w q v, (f, p, w) ∈ scalarFloat → (t, q, v) ∈ scalarFloat →
        FpDoes s (.fcvt d a f t) [.g a] d (floatOut s t q (floatIn s f p w (gv s a)))) ∧
      (∀ p w lo hi x, (f, p, w) ∈ scalarFloat → (t, lo, hi, x) ∈ scalarInteger (gv s a) → FpDoes s (.fcvt d a f t) [.g a] d
        (BitVec.ofInt 64 (toInt lo hi (floatIn s f p w (gv s a))).1, (toInt lo hi (floatIn s f p w (gv s a))).2)) ∧
      (∀ lo hi x q w, (f, lo, hi, x) ∈ scalarInteger (gv s a) → (t, q, w) ∈ scalarFloat →
        FpDoes s (.fcvt d a f t) [.g a] d (floatOut s t q (ofInt x))) ∧
      (∀ lo hi x l h y, (f, lo, hi, x) ∈ scalarInteger (gv s a) → (t, l, h, y) ∈ scalarInteger (gv s a) →
        FpDoes s (.fcvt d a f t) [.g a] d (BitVec.ofInt 64 (max l (min h x)), 0)) ∧
      (f = 6 ∧ t = 0 → FpDoes s (.fcvt d a f t) [.g a] d (rounded s (exact (ofInt (lowInt (gv s a)))))))

/-! ### Memory (R178–R194)

`Reaches s l r va p phys u`: no source of `l` is EMPTY, the access `r` at `va` passes every check of R25, at page `p` and
physical address `phys`, and what it waits for (R46, R49, R187, R254) has come; `u` is the state with the sources read and the access
issued. -/

/-- The effective address of a load or store (R178): the offset counts units of the width. -/
abbrev Sys2Proof.Said.ea (s : State) (a : BitVec 5) (o : BitVec 9) (n : Nat) : Word := gv s a + BitVec.ofInt 64 (o.toInt * n)

/-- The access is issued: no source is EMPTY, and it passes its checks, or its instruction has issued it before it waited (R33). -/
def Sys2Proof.Said.Issues (s : State) (l : List Src) (r : Req) (va : Word) (x : Acc) (u : State) : Prop :=
  s.me.ready l ∧ (s.seen l).reach r va = .ok (x, u)

/-- The access is issued, and it is to be performed now. -/
def Sys2Proof.Said.Reaches (s : State) (l : List Src) (r : Req) (va : Word) (p : Page) (phys : Nat) (u : State) : Prop :=
  ∃ x, Issues s l r va x u ∧ u.landed r x [x] = .ok () ∧ x.page = p ∧ x.phys = phys

/-- No earlier waiter on the word at `phys` is to be served before the executing thread (R65). -/
def Sys2Proof.Said.FirstAt (u : State) (phys : Nat) : Prop := u.queuedBefore u.myPlace phys = false

/-- A request of a word that needs presence. -/
def Sys2Proof.Said.presReq (s : State) (a : Access) : Req := { s.req a 8 with pres := true }

/-- A request of a completion word: a page that the weight store or another target holds is refused afterwards, as 0x62 (R191). -/
def Sys2Proof.Said.cwReq (s : State) (a : Access) : Req := { s.req a 8 with copies := true }

/-- The state in which gD receives `v`, FULL, after an access that left `u`. -/
abbrev Sys2Proof.Said.loads (u : State) (d : BitVec 5) (v : Word) : State := u.setMe (u.me.wrG d v).advance

/-- The state in which gD receives 0 and FLAGS.V is set, because the word is VOID. -/
abbrev Sys2Proof.Said.loadsVoid (u : State) (d : BitVec 5) : State := u.setMe (u.me.setV.wrG d 0).advance

/-- The state in which the thread goes on after a store. -/
abbrev Sys2Proof.Said.stores (u : State) : State := u.setMe u.me.advance

/-- R182: what the presence loads do with a word of NEAR or LM memory that no earlier waiter is to take. `lds`, `ldc` and `ldt`
wait while it is EMPTY, and give 0 and V where it is VOID; `ldc` leaves it EMPTY; `ldt` faults on a tag that differs from TAGX;
`ldq` returns the code of the state, and does not wait.

R182: `stf`, `stv` and `ste` write the word with FULL, VOID and EMPTY, whatever it was; `stw` waits while it is FULL, makes an
EMPTY one FULL, and leaves a VOID one as it is and sets V. -/
def Obligations.PresenceAccess : Prop :=
  (∀ (s u : State) (d a : BitVec 5) (o : BitVec 9) (sc : BitVec 3) (phys : Nat) (p : Page),
     (Reaches s [.g a] (s.req .read 8) (ea s a o 8) p phys u → hasPres phys = true → InMemory s p →
       exec (.ldq d a o sc) s = .next (loads u d (match s.presAt phys with | .empty => 0 | .full => 1 | .void => 2)) ∧
       (s.presAt phys = .empty → exec (.lds d a o sc) s = .next (s.parkMe (.word phys .notEmpty)) ∧
         exec (.ldt d a o sc) s = .next (s.parkMe (.word phys .notEmpty))) ∧
       (FirstAt u phys →
         (s.presAt phys = .void → exec (.lds d a o sc) s = .next (loadsVoid u d) ∧
           exec (.ldt d a o sc) s = .next (loadsVoid u d)) ∧
         (s.presAt phys = .full → exec (.lds d a o sc) s = .next (loads u d (word (s.peek phys 8))) ∧
           (s.peek phys 8 % 2 ^ 16 = fld (s.me.csrv 0x00C) 0 16 →
             exec (.ldt d a o sc) s = .next (loads u d (word (s.peek phys 8)))) ∧
           (s.peek phys 8 % 2 ^ 16 ≠ fld (s.me.csrv 0x00C) 0 16 →
             exec (.ldt d a o sc) s = .next (s.raise 0x0B (word (s.peek phys 8 % 2 ^ 16))))))) ∧
     (Reaches s [.g a] (presReq s .readWrite) (ea s a o 8) p phys u → InMemory s p →
       (s.presAt phys = .empty → exec (.ldc d a o sc) s = .next (s.parkMe (.word phys .notEmpty))) ∧
       (FirstAt u phys →
         (s.presAt phys = .void → exec (.ldc d a o sc) s = .next (loadsVoid u d)) ∧
         (s.presAt phys = .full → ∃ t, exec (.ldc d a o sc) s = .next (loads t d (word (s.peek phys 8))) ∧
           t.presAt phys = .empty ∧ (∀ i, t.byteAt i = s.byteAt i) ∧ (∀ i, i / 8 ≠ phys / 8 → t.presAt i = s.presAt i) ∧
           t.me = u.me)))) ∧
  (∀ (s u : State) (d a : BitVec 5) (o : BitVec 9) (sc : BitVec 3) (phys : Nat) (p : Page),
     Reaches s [.g a, .g d] (presReq s .write) (ea s a o 8) p phys u →
     exec (.stf d a o sc) s = .next (stores (u.pokeWord phys (gv s d) .full)) ∧
     exec (.stv d a o sc) s = .next (stores (u.pokeWord phys (gv s d) .void)) ∧
     exec (.ste d a o sc) s = .next (stores (u.pokeWord phys (gv s d) .empty)) ∧
     (s.presAt phys = .full → exec (.stw d a o sc) s = .next (s.parkMe (.word phys .notFull))) ∧
     (FirstAt u phys →
       (s.presAt phys = .empty → exec (.stw d a o sc) s = .next (stores (u.pokeWord phys (gv s d) .full))) ∧
       (s.presAt phys = .void → exec (.stw d a o sc) s = .next (u.setMe u.me.setV.advance))))

/-- What an atomic does (R184): with the word's old value `x` it stores `new x`, or nothing where that is none, leaves presence,
and returns `res x`. An EMPTY word makes it wait, and a VOID one gives 0 and V and is not written. As a PCIe AtomicOp it
is sent to the host with its kind and operands, and completes with its reply. -/
def Sys2Proof.Said.AtomicDoes (s : State) (i : Instr) (l : List Src) (n : Nat) (aop : Option HostReq) (d a : BitVec 5)
    (new : Word → Option Word) (res : Word → Word) : Prop :=
  ∀ (r : Req) (u : State) (x : Acc), r = { s.req .readWrite n with atomic := if aop.isSome then 2 else 1 } → Issues s l r (gv s a) x u →
    u.landed r x [x] = .ok () →
    (x.page.tgt ≠ 6 → s.recoloured = [] → x.page.tgt ≠ 5 → (hasPres x.phys = true → s.presAt x.phys = .full ∧ FirstAt u x.phys) →
      exec i s = .next (loads (match new (word (s.peek x.phys n)) with
        | none => u
        | some v => (u.poke x.phys n v.toNat).versioned u.me.acct x.phys) d (res (word (s.peek x.phys n))))) ∧
    (x.page.tgt ≠ 5 → hasPres x.phys = true → s.presAt x.phys = .empty → exec i s = .next (s.parkMe (.word x.phys .notEmpty))) ∧
    (x.page.tgt ≠ 5 → hasPres x.phys = true → s.presAt x.phys = .void → FirstAt u x.phys → exec i s = .next (loadsVoid u d)) ∧
    (∀ q, aop = some q → x.page.tgt = 5 →
      (x.reply = .none → exec i s = .next (s.holdMe (.host x.va (x.phys - hostBase) q s.time.toNat) [x])) ∧
      (x.reply = .host .success → ∃ v t, exec i s = .next (loads t d v) ∧ t.mem = s.mem ∧ t.me = u.me) ∧
      (x.reply = .host .unsupported → exec i s = .next (s.raise 0x20 x.va)) ∧
      (x.reply = .host .abort → exec i s = .next (s.raise 0x21 x.va)) ∧
      (x.reply = .timeout → exec i s = .next (s.raise 0x22 x.va)))

/-- R184, R185, R54: the twelve atomics. `amo.add`, `amo.swap` and `amo.cas` exist as PCIe AtomicOps; `amo.cas` stores gB where the
word equals the incoming gD; `amo.fadd` adds FP32, rounded to nearest even, with subnormals kept and no flag. -/
def Obligations.Atomics : Prop :=
  ∀ (s : State) (d a b : BitVec 5) (sc o : BitVec 3) (l : List Src), l = [.g a, .g b] →
    AtomicDoes s (.amoAdd d a b sc o) l 8 (some (.fetchAdd (gv s b))) d a (fun x => some (x + gv s b)) id ∧
    AtomicDoes s (.amoAnd d a b sc o) l 8 none d a (fun x => some (x &&& gv s b)) id ∧
    AtomicDoes s (.amoOr d a b sc o) l 8 none d a (fun x => some (x ||| gv s b)) id ∧
    AtomicDoes s (.amoXor d a b sc o) l 8 none d a (fun x => some (x ^^^ gv s b)) id ∧
    AtomicDoes s (.amoMin d a b sc o) l 8 none d a (fun x => some (BitVec.ofInt 64 (min x.toInt (gv s b).toInt))) id ∧
    AtomicDoes s (.amoMax d a b sc o) l 8 none d a (fun x => some (BitVec.ofInt 64 (max x.toInt (gv s b).toInt))) id ∧
    AtomicDoes s (.amoMinu d a b sc o) l 8 none d a (fun x => some (word (min x.toNat (gv s b).toNat))) id ∧
    AtomicDoes s (.amoMaxu d a b sc o) l 8 none d a (fun x => some (word (max x.toNat (gv s b).toNat))) id ∧
    AtomicDoes s (.amoSwap d a b sc o) l 8 (some (.swap (gv s b))) d a (fun _ => some (gv s b)) id ∧
    AtomicDoes s (.amoCas d a b sc o) (l ++ [.g d]) 8 (some (.cas (gv s d) (gv s b))) d a (fun x => if x = gv s d then some (gv s b) else none) id ∧
    AtomicDoes s (.amoFadd d a b sc o) l 4 none d a
      (fun x => some (word (Fmt.f32.result 0 false (addExact 0 (num (x.extractLsb' 0 32)) (fv s b))).1)) id ∧
    AtomicDoes s (.amoAddW d a b sc o) l 4 none d a (fun x => some (word ((x.toNat + (gv s b).toNat) % 2 ^ 32)))
      (fun x => narrow32 x.toNat)

/-- What a scalar memory instruction reads, the address of its access, what it asks for, how many bytes it stores there, whether
it may change the word's presence, and which register it writes. -/
structure Sys2Proof.Said.MemForm where
  src : List Src
  va : Word
  req : Req
  bytes : Nat
  pres : Bool
  dst : List Src

/-- The forms of the scalar memory instructions (R178–R187, R191). -/
def Sys2Proof.Said.memForm (s : State) : Instr → Option MemForm
  | .ld d a o _ w _ _ => some ⟨[.g a], ea s a o (2 ^ w.toNat), s.req .read (2 ^ w.toNat), 0, false, [.g d]⟩
  | .st d a o _ w _ => some ⟨[.g a, .g d], ea s a o (2 ^ w.toNat), s.req .write (2 ^ w.toNat), 2 ^ w.toNat, false, []⟩
  | .lds d a o _ | .ldq d a o _ | .ldt d a o _ => some ⟨[.g a], ea s a o 8, s.req .read 8, 0, false, [.g d]⟩
  | .ldc d a o _ => some ⟨[.g a], ea s a o 8, presReq s .readWrite, 0, true, [.g d]⟩
  | .stf d a o _ | .stw d a o _ | .stv d a o _ | .ste d a o _ =>
    some ⟨[.g a, .g d], ea s a o 8, presReq s .write, 8, true, []⟩
  | .amoAdd d a b _ _ | .amoSwap d a b _ _ => some ⟨[.g a, .g b], gv s a, { s.req .readWrite 8 with atomic := 2 }, 8, false, [.g d]⟩
  | .amoCas d a b _ _ => some ⟨[.g a, .g b, .g d], gv s a, { s.req .readWrite 8 with atomic := 2 }, 8, false, [.g d]⟩
  | .amoAnd d a b _ _ | .amoOr d a b _ _ | .amoXor d a b _ _ | .amoMin d a b _ _ | .amoMax d a b _ _ | .amoMinu d a b _ _
  | .amoMaxu d a b _ _ => some ⟨[.g a, .g b], gv s a, { s.req .readWrite 8 with atomic := 1 }, 8, false, [.g d]⟩
  | .amoFadd d a b _ _ | .amoAddW d a b _ _ =>
    some ⟨[.g a, .g b], gv s a, { s.req .readWrite 4 with atomic := 1 }, 4, false, [.g d]⟩
  | .arrive a => some ⟨[.g a], gv s a, cwReq s .readWrite, 8, false, []⟩
  | .expect a b => some ⟨[.g a, .g b], gv s a, cwReq s .readWrite, 8, false, []⟩
  | .cwinit a b => some ⟨[.g a, .g b], gv s a, cwReq s .readWrite, 8, true, []⟩
  | .waitc a b => some ⟨[.g a, .g b], gv s a, cwReq s .read, 0, false, []⟩
  | _ => none

/-- Registers and CSRs of the executing slot but those in `d` and V of FLAGS are as before. -/
def Sys2Proof.Said.keepsRegs (s t : State) (d : List Src) : Prop :=
  (∀ r : BitVec 5, Src.g r ∉ d → t.me.gp r = s.me.gp r) ∧ (∀ r : BitVec 4, Src.v r ∉ d → t.me.vp r = s.me.vp r) ∧
    (∀ r : BitVec 3, Src.k r ∉ d → t.me.kp r = s.me.kp r) ∧ (∀ i, i ≠ 0x006 → t.me.csrv i = s.me.csrv i) ∧
    (t.me.csrv 0x006 = s.me.csrv 0x006 ∨ t.me.csrv 0x006 = s.me.csrv 0x006 ||| 1)

/-- R178, R180: `ld` reads `2^w` bytes, sign-extended where x = 1; a byte of HOST memory or of a device window comes from there. A FAR
load and a HOST load wait for their reply, with the translation of their issue (R33, R49, R187).

R181: `st` writes the low `2^w` bytes of gD, little-endian, and leaves presence; a store to HOST memory is a posted write of the
tenant at the host address, and one to a device window goes to the device.

R25: the checks of an access come in one order, and the first that fails decides: alignment 0x05, then an address past the
address space 0x07, then the translation, then permission 0x06, presence 0x18, the width at a device window 0x05, the atomic 0x23,
and the state of the line and the page. -/
def Obligations.LoadStore : Prop :=
  (∀ (s u : State) (d a : BitVec 5) (o : BitVec 9) (sc : BitVec 3) (w : BitVec 2) (x q : BitVec 1) (n phys : Nat) (p : Page),
     n = 2 ^ w.toNat →
     (Reaches s [.g a] (s.req .read n) (ea s a o n) p phys u →
       (InMemory s p → exec (.ld d a o sc w x q) s = .next (loads u d
         (if x = 1 then BitVec.ofInt 64 (BitVec.ofNat (8 * n) (s.peek phys n)).toInt else word (s.peek phys n)))) ∧
       (p.tgt = 5 ∨ p.tgt = 6 → exec (.ld d a o sc w x q) s = .next (loads (u.fetchBytes p phys n).2 d
         (if x = 1 then BitVec.ofInt 64 (BitVec.ofNat (8 * n) (u.fetchBytes p phys n).1).toInt
           else word (u.fetchBytes p phys n).1)))) ∧
     (∀ y, Issues s [.g a] (s.req .read n) (ea s a o n) y u → s.me.kept = [] → s.dropping = [] →
       (y.page.tgt = 1 → exec (.ld d a o sc w x q) s = .next (s.holdMe (.far y.va y.phys) [y])) ∧
       (y.page.tgt = 5 →
         exec (.ld d a o sc w x q) s = .next (s.holdMe (.host y.va (y.phys - hostBase) (.read n) s.time.toNat) [y])))) ∧
  (∀ (s u : State) (d a : BitVec 5) (o : BitVec 9) (sc : BitVec 3) (w : BitVec 2) (q : BitVec 1) (n phys : Nat) (p : Page),
     n = 2 ^ w.toNat → Reaches s [.g a, .g d] (s.req .write n) (ea s a o n) p phys u →
     (p.tgt ≠ 5 ∧ p.tgt ≠ 6 →
       exec (.st d a o sc w q) s = .next (stores ((u.poke phys n ((gv s d).toNat % 256 ^ n)).versioned u.me.acct phys))) ∧
     (p.tgt = 5 → ∃ t, exec (.st d a o sc w q) s = .next t ∧ t.mem = s.mem ∧ t.pres = s.pres ∧
       t.out = u.out ++ [shown s .host (.hostStore s.me.pasid (phys - hostBase) n (word ((gv s d).toNat % 256 ^ n)))] ∧
       t.me.hostStores = true ∧ t.me.pc = s.me.pc + 4) ∧
     (p.tgt = 6 → exec (.st d a o sc w q) s =
       .next (stores (u.ioWrite u.who phys (word ((gv s d).toNat % 256 ^ n)))))) ∧
  (∀ (s : State) (w : Who) (k : TlbUnit) (r : Req) (va : Word),
     (va.toNat % r.align ≠ 0 → s.checked w k r va = .error (.trap 0x05 va)) ∧
     (va.toNat % r.align = 0 → 2 ^ 52 ≤ va.toNat → s.checked w k r va = .error (.trap 0x07 va)) ∧
     (va.toNat % r.align = 0 → va.toNat < 2 ^ 52 →
       (∀ e, s.translate w k r.acc va = .error e → s.checked w k r va = .error e) ∧
       (∀ p phys u, s.translate w k r.acc va = .ok (p, phys, u) →
         (permits p r = false → s.checked w k r va = .error (.trap 0x06 va)) ∧
         (permits p r = true → r.pres = true → p.tgt ≠ 0 → p.tgt ≠ 2 → s.checked w k r va = .error (.trap 0x18 va)) ∧
         (permits p r = true → (r.pres = true → p.tgt = 0 ∨ p.tgt = 2) → p.tgt = 6 → r.width ≠ 8 →
           s.checked w k r va = .error (.trap 0x05 va)) ∧
         (permits p r = true → (r.pres = true → p.tgt = 0 ∨ p.tgt = 2) → (p.tgt = 6 → r.width = 8) →
           (atomicOk p r = false → s.checked w k r va = .error (.trap 0x23 va)) ∧
           (atomicOk p r = true → u.badState w r phys ≠ 0 → s.checked w k r va = .error (.trap (u.badState w r phys) va)) ∧
           (atomicOk p r = true → u.badState w r phys = 0 → s.checked w k r va = .ok (p, phys, u))))) ∧
     (∀ e, s.checked w k r va = .error e → s.access w k r va = .error e) ∧
     (∀ e, s.me.kept = [] → s.checked s.who .data r va = .error e → s.reach r va = .error e))

/-! ### Fences, barriers, completion words, remote writes (R188–R194) -/

/-- The group that a thread arrives for at a barrier: its launch, or its launch-less group. -/
abbrev Sys2Proof.Said.groupOf (s : State) : Nat × Option (Nat × Nat) × Nat := (barGroup s.me).getD (0xFF, none, 3)

/-- R188: a fence completes at once, but for one with PW at scope `sys` that follows stores to HOST pages: it waits until the
host has accepted them, and a failed read behind them, by an Unsupported Request or an abort, raises 0x21 and by a timeout 0x22, with EVAL =
0. That one without a successor kind does not wait, though HOST stores are outstanding, is the model's choice (DEDUCED, log entry 45).

R190: an arrival at a barrier below level 5 that is idle or belongs to the thread's group. The last of its participants
completes the phase: the phase bit flips, the arrivals are 0 and nobody owns the barrier. `bar` then goes on, and otherwise waits
for the flip; `bar.arrive` returns the phase bit of its arrival and goes on at once. A thread waits for a barrier that another
group owns.

R189, R190, R360: how a wait at a barrier ends. `bar` goes on once its phase is over; `bar.wait` goes on where the phase bit
differs from a[0], and waits where it equals it. At level 5 the phase bit is that of the fabric context, FLAGS.V is set where the
pod barrier did not end DONE, and an arrival is the acceptance of its fabric command. -/
def Obligations.BarriersAndFences : Prop :=
  (∀ (s : State) (e : BitVec 1) (sc : BitVec 3) (k : BitVec 4),
     (s.me.hostStores = false ∨ sc ≠ 6 ∨ k.getLsbD 2 = false ∨ (k.extractLsb' 0 2 = 0 ∧ e = 0) →
       exec (.fence e sc k) s = .next (s.goesPast [])) ∧
     (s.me.hostStores = true ∧ sc = 6 ∧ k.getLsbD 2 = true ∧ (k.extractLsb' 0 2 ≠ 0 ∨ e = 1) →
       (s.me.reply = .host .success →
         exec (.fence e sc k) s = .next (s.setMe ({ s.me with hostStores := false } : Slot).advance)) ∧
       (s.me.reply = .none → exec (.fence e sc k) s = .next (s.parkMe (.host 0 0 .flush s.time.toNat))) ∧
       (s.me.reply = .host .abort ∨ s.me.reply = .host .unsupported → exec (.fence e sc k) s = .next (s.raise 0x21 0)) ∧
       (s.me.reply = .timeout → exec (.fence e sc k) s = .next (s.raise 0x22 0)))) ∧
  (∀ (s : State) (d : BitVec 5) (n : BitVec 4) (l : BitVec 3) (k : Nat) (b : Barrier), l ≠ 5 → s.me.phaseOver = false →
     k = barKey l.toNat s.curCore n.toNat → b = s.barAt k →
     (b.arrived ≠ [] ∧ b.owner ≠ some (groupOf s) →
       exec (.bar n l) s = .next (s.parkMe (.barrierIdle k)) ∧ exec (.barArrive d n l) s = .next (s.parkMe (.barrierIdle k))) ∧
     (b.arrived = [] ∨ b.owner = some (groupOf s) →
       ∃ t u, exec (.bar n l) s = .next t ∧ exec (.barArrive d n l) s = .next u ∧ t.barAt k = u.barAt k ∧
         (d ≠ 0 → u.me.gp d = (flag b.phase, .full)) ∧ u.me.pc = s.me.pc + 4 ∧ u.me.state = .ready ∧
         (s.participants k (groupOf s) ≤ b.arrived.length + 1 →
           t.barAt k = ⟨!b.phase, [], none⟩ ∧ t.me.pc = s.me.pc + 4 ∧ t.me.state = .ready) ∧
         (b.arrived.length + 1 < s.participants k (groupOf s) →
           (t.barAt k).phase = b.phase ∧ (t.barAt k).arrived.length = b.arrived.length + 1 ∧
           (t.barAt k).owner = some (groupOf s) ∧ t.me.state = .parked ∧ t.me.wait = .barrier k b.phase) ∧
         s.sameMemory t ∧ s.sameMemory u)) ∧
  (∀ (s : State) (a : BitVec 5) (n : BitVec 4) (l : BitVec 3) (k : Nat) (ph : Bool),
     (l ≠ 5 → k = barKey l.toNat s.curCore n.toNat → ph = (s.barAt k).phase →
       (s.me.phaseOver = true → exec (.bar n l) s = .next (s.goesPast [])) ∧
       (s.me.ready [.g a] → s.me.phaseOver = true ∨ ph ≠ (gv s a).getLsbD 0 →
         exec (.barWait a n l) s = .next (s.goesPast [.g a])) ∧
       (s.me.ready [.g a] → s.me.phaseOver = false → ph = (gv s a).getLsbD 0 →
         exec (.barWait a n l) s = .next (s.parkMe (.barrier k ph)))) ∧
     (l = 5 → ph = (s.podBit n.toNat).1 →
       (s.me.phaseOver = true → exec (.bar n l) s =
         .next (s.setMe (if (s.podBit n.toNat).2 = 0 then s.me else s.me.setV).advance)) ∧
       (s.me.ready [.g a] → s.me.phaseOver = true ∨ ph ≠ (gv s a).getLsbD 0 → exec (.barWait a n l) s =
         .next (s.setMe (if (s.podBit n.toNat).2 = 0 then s.me.seen [.g a] else (s.me.seen [.g a]).setV).advance)) ∧
       (∀ u, s.podArrive n.toNat = .ok u →
         exec (.barArrive a n l) s = .next (u.setMe (u.me.wrG a (flag ph)).advance) ∧
         (s.me.phaseOver = false → exec (.bar n l) s = .next (u.parkMe (.podPhase s.podCtx n.toNat ph))))))

/-- A completion word (R22): phase, pending bytes, pending arrivals, expected arrivals. -/
abbrev Sys2Proof.Said.cw (ph : Bool) (b a e : Nat) : Word := word ((if ph then 2 ^ 56 else 0) + b * 2 ^ 32 + a * 2 ^ 16 + e)

/-- The check of R23: with nothing pending the phase flips and the expected arrivals are pending again. -/
def Sys2Proof.Said.cwChecked (ph : Bool) (b a e : Nat) : Word := if a = 0 ∧ b = 0 then cw (!ph) 0 e e else cw ph b a e

/-- R191: `arrive`, `expect` and `cwinit` on a completion word of NEAR or LM memory: a FULL word with its reserved bits 0, but for
`cwinit`, which takes any. Of `arrive` and `expect` a word that is not FULL or has a reserved bit set, of `arrive` no pending arrival, of
`expect` a byte count past 2^24 − 1, of `cwinit` an expected count past 65,535, and of each a page elsewhere raise 0x62 with EVAL = a.

R191: `waitc` goes on where the phase of a FULL word differs from b[0], waits where it equals it, goes on with V where the word
is VOID, and raises 0x62 where it is EMPTY, has a reserved bit set or lies elsewhere. A flip of the phase ends every wait for it (R23), and
so does a word that becomes VOID: a thread that waited goes on, whatever the word holds by then, with V in the latter case. -/
def Obligations.CompletionWords : Prop :=
  (∀ (s u : State) (a b : BitVec 5) (p : Page) (phys : Nat) (v : Word),
     v = word (s.peek phys 8) →
     (Reaches s [.g a] (cwReq s .readWrite) (gv s a) p phys u →
       (hasPres phys = false ∨ s.presAt phys ≠ .full ∨ fld v 57 7 ≠ 0 ∨ fld v 16 16 = 0 →
         exec (.arrive a) s = .next (s.raise 0x62 (gv s a))) ∧
       (hasPres phys = true → s.presAt phys = .full → fld v 57 7 = 0 → fld v 16 16 ≠ 0 → exec (.arrive a) s =
         .next (stores (u.cwPut phys v (cwChecked (bit v 56) (fld v 32 24) (fld v 16 16 - 1) (fld v 0 16)))))) ∧
     (Reaches s [.g a, .g b] (cwReq s .readWrite) (gv s a) p phys u →
       (hasPres phys = false ∨ s.presAt phys ≠ .full ∨ fld v 57 7 ≠ 0 → exec (.expect a b) s = .next (s.raise 0x62 (gv s a))) ∧
       (hasPres phys = true → s.presAt phys = .full → fld v 57 7 = 0 →
         (fld v 32 24 + (gv s b).toNat < 2 ^ 24 → exec (.expect a b) s = .next (stores (u.cwPut phys v
           (cwChecked (bit v 56) (fld v 32 24 + (gv s b).toNat) (fld v 16 16) (fld v 0 16))))) ∧
         (2 ^ 24 ≤ fld v 32 24 + (gv s b).toNat → exec (.expect a b) s = .next (s.raise 0x62 (gv s a)))) ∧
       (hasPres phys = true → (gv s b).toNat ≤ 65535 → exec (.cwinit a b) s =
         .next (stores (u.pokeWord phys (cw (bit v 56) 0 (gv s b).toNat (gv s b).toNat) .full))) ∧
       (hasPres phys = false ∨ 65535 < (gv s b).toNat → exec (.cwinit a b) s = .next (s.raise 0x62 (gv s a))))) ∧
  (∀ (s u : State) (a b : BitVec 5) (p : Page) (phys : Nat) (v : Word),
     v = word (s.peek phys 8) → s.me.flipped = false → s.me.sawVoid = false → Reaches s [.g a, .g b] (cwReq s .read) (gv s a) p phys u →
     (hasPres phys = false → exec (.waitc a b) s = .next (s.raise 0x62 (gv s a))) ∧
     (hasPres phys = true → s.presAt phys = .void → exec (.waitc a b) s = .next (u.setMe u.me.setV.advance)) ∧
     (hasPres phys = true → s.presAt phys = .full → fld v 57 7 = 0 → bit v 56 ≠ bit (gv s b) 0 → exec (.waitc a b) s = .next (stores u)) ∧
     (hasPres phys = true → s.presAt phys = .full → fld v 57 7 = 0 → bit v 56 = bit (gv s b) 0 →
       exec (.waitc a b) s = .next (s.parkMe (.phase phys (bit (gv s b) 0)))) ∧
     (hasPres phys = true → s.presAt phys = .empty ∨ (s.presAt phys = .full ∧ fld v 57 7 ≠ 0) → exec (.waitc a b) s = .next (s.raise 0x62 (gv s a)))) ∧
  (∀ (s : State) (a b : BitVec 5), s.me.ready [.g a, .g b] → s.me.flipped = true →
     exec (.waitc a b) s = .next (s.goesPast [.g a, .g b])) ∧
  (∀ (s : State) (a b : BitVec 5), s.me.ready [.g a, .g b] → s.me.sawVoid = true →
     exec (.waitc a b) s = .next (s.setMe (s.me.seen [.g a, .g b]).setV.advance)) ∧
  (∀ (s : State) (phys : Nat) (v : Word), hasPres phys = true → ∀ core slot a b, (s.slotAt core slot).state = .parked →
     (s.slotAt core slot).wait = .phase a b → (s.slotAt core slot).preempted = false → a / 8 = phys / 8 →
     ((s.pokeWord phys v .void).slotAt core slot).reply = .voided) ∧
  (∀ (s : State) (phys : Nat) (v x : Word), (s.cwPut phys v x).mem = (s.pokeWord phys x .full).mem ∧
     (s.cwPut phys v x).pres = (s.pokeWord phys x .full).pres ∧
     (bit v 56 = bit x 56 → s.cwPut phys v x = s.pokeWord phys x .full) ∧
     (bit v 56 ≠ bit x 56 → ∀ core slot b, (s.slotAt core slot).state = .parked → (s.slotAt core slot).wait = .phase phys b →
       (b ≠ bit x 56 → (s.slotAt core slot).preempted = false →
         (s.cwPut phys v x).slotAt core slot = { s.slotAt core slot with reply := .flipped }) ∧
       (b = bit x 56 ∨ (s.slotAt core slot).preempted = true → (s.cwPut phys v x).slotAt core slot = s.slotAt core slot)))

/-- R193: `putr` sends a register with its presence, FULL or VOID, to the core that the place table gives for gB, and waits for its
acceptance; an id without a core of the region raises 0x1A with EVAL = gB.

R194: the n-th delivery on its way leaves the network. At a slot that holds a fibre it writes its register, with its presence;
at a FREE slot it changes nothing there; for a pre-empted fibre it is kept until that is restored. The sender goes on past its
`putr`. Memory stays as it is. That a delivery aimed at g0 counts as one for `wait` too is the model's choice (DESIGN CHOICE, log entry
44). -/
def Obligations.RemoteWrites : Prop :=
  (∀ (s : State) (a b t : BitVec 5) (x y : BitVec 4) (slot : BitVec 3),
     (∀ l : List Src, l = [.g a, .g b] → s.me.ready l →
       ∀ r, r = (s.seen l).placeOf s.curCore (s.me.csrv 0x110) (s.me.csrv 0x111) (s.me.csrv 0x112) (gv s b) →
       (r.1 = none → exec (.putrG a b t slot) s = .next (s.raise 0x1A (gv s b))) ∧
       (∀ core, r.1 = some core → exec (.putrG a b t slot) s = .next (({ r.2 with putNet := r.2.putNet ++
         [⟨s.curCore, s.curSlot, s.me.acct.toNat, core, slot.toNat, .g t, (gv s a).setWidth 1024,
           if (s.me.gp a).2 = .void then .void else .full⟩] } : State).parkMe .put))) ∧
     (∀ l : List Src, l = [.v x, .g b] → s.me.ready l →
       ∀ r, r = (s.seen l).placeOf s.curCore (s.me.csrv 0x110) (s.me.csrv 0x111) (s.me.csrv 0x112) (gv s b) →
       (r.1 = none → exec (.putrV x b y slot) s = .next (s.raise 0x1A (gv s b))) ∧
       (∀ core, r.1 = some core → exec (.putrV x b y slot) s = .next (({ r.2 with putNet := r.2.putNet ++
         [⟨s.curCore, s.curSlot, s.me.acct.toNat, core, slot.toNat, .v y, s.me.vv x,
           if (s.me.vp x).2 = .void then .void else .full⟩] } : State).parkMe .put)))) ∧
  (∀ (s : State) (n : Nat) (m : PutMsg), s.putNet[n]? = some m →
     m.core * 16 + m.slot ≠ m.fromCore * 16 + m.fromSlot →
     ∃ t, exec (.putrDelivery n) s = .next t ∧ t.putNet = s.putNet.eraseIdx n ∧ s.sameMemory t ∧
       ((s.slotAt m.core m.slot).state = .free → t.slotAt m.core m.slot = s.slotAt m.core m.slot) ∧
       ((s.slotAt m.core m.slot).state ≠ .free → (s.slotAt m.core m.slot).preempted = true →
         t.slotAt m.core m.slot = { s.slotAt m.core m.slot with spill := (s.slotAt m.core m.slot).spill ++ [(m.reg, m.value, m.presence)] }) ∧
       ((s.slotAt m.core m.slot).state ≠ .free → (s.slotAt m.core m.slot).preempted = false →
         (∀ r, m.reg = .g r → r ≠ 0 → (t.slotAt m.core m.slot).gp r = (m.value.setWidth 64, m.presence)) ∧
         (∀ r, m.reg = .v r → (t.slotAt m.core m.slot).vp r = (m.value, m.presence)) ∧
         (t.slotAt m.core m.slot).delivered = true) ∧
       ((s.slotAt m.fromCore m.fromSlot).state = .parked → (s.slotAt m.fromCore m.fromSlot).wait = .put →
         t.slotAt m.fromCore m.fromSlot = (s.slotAt m.fromCore m.fromSlot).advance))

/-! ### The system major (R169–R177) -/

/-- The mode, the core and the slot may read, and where `writes` write, a CSR (R130). -/
def Sys2Proof.Said.CsrOpen (s : State) (c : Nat) (writes : Bool) : Prop :=
  ∃ r w, csrAccess c = some (r, w) ∧ r ≤ modeRank s.me.mode ∧ (writes = true → ∃ x, w = some x ∧ x ≤ modeRank s.me.mode) ∧
    (c = 0x013 → coreKind s.curCore = .control) ∧ (csrSlot7 c = true → coreKind s.curCore = .compute ∧ s.curSlot = 7)

/-- R172: `csrr` reads a CSR; `csrw` swaps it, `csrs` sets the bits of gA in it and `csrc` clears them, and each returns the old
value in gB. The write is the CSR's own (R129–R134).

R130: an index without a CSR raises 0x01 with the word as EVAL; a mode that may not read or write it, 0x03 with its index; a
CSR of the transform slot elsewhere, 0x04 with its index.

R131, R132, R172, R253, R254, R328: what a write of a CSR does to it: STATUS takes INH and a legal PMODE; a nonzero BUDGET below
ISSUED becomes ISSUED; PLACE keeps its two fields, and the core takes up the table that it names as memory holds it, in place of any
other; a counter whose code is reserved holds at 0 (R258); MXDONE changes only while a step is
held; a 1 in TCDROP starts the drop of the selected cluster, whose completion ends it.

That gA is read before the old value, so that an old value of FLAGS shows the V of a VOID gA (DEDUCED, log entry 27), and that a write sets
a counter whatever its code (DEDUCED, log entry 53) are the model's choices. -/
def Obligations.CsrAccess : Prop :=
  (∀ (s : State) (a b : BitVec 5) (c : BitVec 10),
     (CsrOpen s c.toNat false → exec (.csrr b c) s = .next (loads s b (s.csrGet s.curCore s.curSlot c.toNat))) ∧
     (CsrOpen s c.toNat true → s.me.ready [.g a] →
       ∀ r, r = (s.seen [.g a]).csrGet s.curCore s.curSlot c.toNat →
         exec (.csrw a b c) s = .next (loads ((s.seen [.g a]).csrSet c.toNat (gv s a)) b r) ∧
         exec (.csrs a b c) s = .next (loads ((s.seen [.g a]).csrSet c.toNat (r ||| gv s a)) b r) ∧
         exec (.csrc a b c) s = .next (loads ((s.seen [.g a]).csrSet c.toNat (r &&& ~~~(gv s a))) b r))) ∧
  (∀ (s : State) (a b : BitVec 5) (c : BitVec 10),
     (csrAccess c.toNat = none → exec (.csrr b c) s = .next (s.raise 0x01 ((encode (.csrr b c)).setWidth 64)) ∧
       exec (.csrw a b c) s = .next (s.raise 0x01 ((encode (.csrw a b c)).setWidth 64)) ∧
       exec (.csrs a b c) s = .next (s.raise 0x01 ((encode (.csrs a b c)).setWidth 64)) ∧
       exec (.csrc a b c) s = .next (s.raise 0x01 ((encode (.csrc a b c)).setWidth 64))) ∧
     (∀ r w, csrAccess c.toNat = some (r, w) → (c = 0x013 → coreKind s.curCore = .control) →
       (modeRank s.me.mode < r → exec (.csrr b c) s = .next (s.raise 0x03 (word c.toNat))) ∧
       (modeRank s.me.mode < r ∨ w = none ∨ (∃ x, w = some x ∧ modeRank s.me.mode < x) →
         exec (.csrw a b c) s = .next (s.raise 0x03 (word c.toNat)) ∧ exec (.csrs a b c) s = .next (s.raise 0x03 (word c.toNat)) ∧
         exec (.csrc a b c) s = .next (s.raise 0x03 (word c.toNat))) ∧
       (r ≤ modeRank s.me.mode → csrSlot7 c.toNat = true → ¬ (coreKind s.curCore = .compute ∧ s.curSlot = 7) →
         exec (.csrr b c) s = .next (s.raise 0x04 (word c.toNat))))) ∧
  (∀ (s : State) (v : Word) (n : Nat),
     ((s.csrSet 0x000 v).me.mode = s.me.mode ∧ (s.csrSet 0x000 v).me.inh = v.getLsbD 4 ∧
       (s.csrSet 0x000 v).me.tenant = s.me.tenant ∧
       ((s.csrSet 0x000 v).me.pmode = s.me.pmode ∨ (s.csrSet 0x000 v).me.pmode = v.extractLsb' 2 2) ∧
       (v.extractLsb' 2 2 = 3 → s.me.mode ≠ 3 → (s.csrSet 0x000 v).me.pmode = s.me.pmode)) ∧
     (s.csrSet 0x006 v).me.csrv 0x006 = v &&& 1 ∧
     (exec (.budgetWrite v) s = .next (s.csrSet 0x031 v) ∧ (s.csrSet 0x031 v).me.csrv 0x031 =
       (if v ≠ 0 ∧ v < s.me.csrv 0x032 then s.me.csrv 0x032 else v)) ∧
     (exec (.placeWrite v) s = .next (s.csrSet 0x110 v) ∧ (s.csrSet 0x110 v).me.csrv 0x110 = v &&& 0xFFEFFFFFFFFFFFF0 ∧
       ∀ w, w = v &&& 0xFFEFFFFFFFFFFFF0 →
         tabGet none (s.csrSet 0x110 v).placeCache (s.curCore * 2 ^ 64 + w.toNat) = some (s.placeTable w) ∧
         ∀ e ∈ (s.csrSet 0x110 v).placeCache, e.1 / 2 ^ 64 = s.curCore → e.1 = s.curCore * 2 ^ 64 + w.toNat) ∧
     (∀ k, k < 16 → (s.csrSet (0x040 + k) v).csrGet s.curCore s.curSlot (0x040 + k) =
       if 18 ≤ (tabGet 0 s.evsel (s.me.tenant.toNat * 16 + k)).toNat then 0 else v) ∧
     (exec (.mxdoneWrite v) s = .next (s.csrSet 0x060 v) ∧
       ((s.mxAt s.curCore).held = none → s.csrSet 0x060 v = s) ∧
       ((s.mxAt s.curCore).held ≠ none → ((s.csrSet 0x060 v).mxAt s.curCore).mxdone = v)) ∧
     (exec (.tcdropWrite v) s = .next (s.csrSet 0x117 v) ∧ (v.getLsbD 0 = false → s.csrSet 0x117 v = s) ∧
       (v.getLsbD 0 = true → s.clselCluster ∈ (s.csrSet 0x117 v).dropping)) ∧
     (n < 64 → ∃ t, exec (.tcdropComplete n) s = .next t ∧ ∀ c, c ∈ t.dropping ↔ c ∈ s.dropping ∧ c ≠ n))

/-- R173, R175: `wait` goes on at once where its event has occurred or where its mask selects none, and otherwise waits; in the
transform slot bit 1 selects the queue event, and the queue word must pass its checks as a `wait` issues, whatever its mask is (R214). Its
event ends it with nothing read again: V is set where gA or gB was VOID as it issued.
`yield` gives up the slot's next own turn.

R174, R214: `halt` waits while an engine command of the thread is outstanding; then its slot is FREE. In the transform slot it
waits for the queue event and starts again at the transform entry.

R176, R177: `rempty` makes a register EMPTY and keeps its value; `tlbinv` removes exactly the cached pages that its form names:
those of the own tenant that hold the address, all of the own tenant, all of a tenant, or all; it completes at once where no other
thread has an access under way with one of them, and otherwise waits for those (R33). -/
def Obligations.WaitHaltEmpty : Prop :=
  (∀ (s : State) (a b : BitVec 5) (l : List Src) (m : Word), l = [.g a, .g b] → m = gv s a →
     exec .yield s = .next (s.setMe { s.me.advance with yielded := true }) ∧
     (s.me.ready l → s.me.waited = false →
       (s.transformSlot = false →
         ((m.getLsbD 0 = false ∧ m.getLsbD 2 = false) ∨ (m.getLsbD 0 = true ∧ s.me.delivered = true) ∨
           (m.getLsbD 2 = true ∧ gv s b ≤ s.time) → exec (.wait a b) s = .next (stores (s.seen l))) ∧
         (¬ (m.getLsbD 0 = false ∧ m.getLsbD 2 = false) → ¬ (m.getLsbD 0 = true ∧ s.me.delivered = true) →
           ¬ (m.getLsbD 2 = true ∧ gv s b ≤ s.time) → exec (.wait a b) s =
             .next (s.parkMe (.event m (gv s b) (decide ((s.me.gp a).2 = .void ∨ (s.me.gp b).2 = .void)))))) ∧
       (s.transformSlot = true → (∀ e, (s.seen l).queueCheck = .error e → exec (.wait a b) s = run s (.error e)) ∧
         ∀ u, (s.seen l).queueCheck = .ok u →
         ((m.getLsbD 0 = false ∧ m.getLsbD 1 = false ∧ m.getLsbD 2 = false) ∨
           u.eventOver u.curCore u.curSlot m (gv s b) = true → exec (.wait a b) s = .next (stores u)) ∧
         (¬ (m.getLsbD 0 = false ∧ m.getLsbD 1 = false ∧ m.getLsbD 2 = false) →
           u.eventOver u.curCore u.curSlot m (gv s b) = false → exec (.wait a b) s =
             .next (s.parkMe (.event m (gv s b) (decide ((s.me.gp a).2 = .void ∨ (s.me.gp b).2 = .void))))))) ∧
     (∀ x t v, s.me.resuming = true → s.me.wait = .event x t v → exec (.wait a b) s =
       .next (s.setMe { (if v = true then s.me.setV else s.me).advance with delivered := false }))) ∧
  (∀ s : State,
     (s.transformSlot = false → s.busy s.curCore s.curSlot = true → exec .halt s = .next (s.parkMe (.commands none 0 none))) ∧
     (s.transformSlot = false → s.busy s.curCore s.curSlot = false → ∃ t, exec .halt s = .next t ∧
       t = s.leaveSlot s.curCore s.curSlot .halt ∧ t.me.state = .free) ∧
     (s.transformSlot = true → ∀ u, s.queueCheck = .ok u → u.busy u.curCore u.curSlot = false →
       (u.queueEvent u.me = true → exec .halt s = .next (u.setMe (u.me.jump u.me.entry))) ∧
       (u.queueEvent u.me = false → exec .halt s = .next (u.parkMe .queueEvent)))) ∧
  (∀ (s : State) (b : BitVec 5) (x : BitVec 4),
     exec (.remptyG b) s = .next (s.setMe (s.me.setG b (s.me.gp b).1 .empty).advance) ∧
     exec (.remptyV x) s = .next (s.setMe (s.me.setVr x (s.me.vp x).1 .empty).advance) ∧
     (∀ k : BitVec 2, s.me.ready [.g b] → s.me.mode ≠ 0 → (k.toNat < 2 ∨ s.me.mode = 3) → s.me.invalidated = true →
       exec (.tlbinv b k) s = .next (s.goesPast [.g b])) ∧
     (∀ k : BitVec 2, s.me.ready [.g b] → s.me.mode ≠ 0 → (k.toNat < 2 ∨ s.me.mode = 3) → s.me.invalidated = false →
       ∀ l, l = s.users (invalidates k.toNat s.me.tenant (gv s b)) → ∃ t, exec (.tlbinv b k) s = .next t ∧
       (∀ n p, (∃ e ∈ t.tlb, e.1 = n ∧ p ∈ e.2) ↔ (∃ e ∈ s.tlb, e.1 = n ∧ p ∈ e.2) ∧
         ¬ (k = 0 ∧ p.tenant = s.me.tenant ∧ (gv s b).toNat / 2 ^ p.bits = p.vpage) ∧ ¬ (k = 1 ∧ p.tenant = s.me.tenant) ∧
         ¬ (k = 2 ∧ p.tenant = (gv s b).setWidth 8) ∧ k ≠ 3) ∧
       (l = [] → t.me = (s.me.seen [.g b]).advance) ∧ (l ≠ [] → t.me.state = .parked ∧ t.me.wait = .tlb l ∧ t.me.pc = s.me.pc) ∧
       ((∀ e ∈ s.slots, e.2.kept = []) → l = []) ∧ (s.me.mode ≠ 3 → t.quarantine = s.quarantine) ∧ s.sameOthers t ∧
       { t with slots := s.slots, tlb := s.tlb, quarantine := s.quarantine, seq := s.seq } = s))

/-- R19: `XX.erw gA, n` writes an engine register of the issuer's context, FULL; STAT raises 0x03 in mode U and 0x02 else. `XX.err
gB, n` returns a FULL register, waits while it is EMPTY, and gives 0 and V where it is VOID. The forms are those of the seven
engines; register 0 of `ln` is read-only in mode U, and those of `mx` wait while another thread's step is held or performed, but for a
write of STAT, whose fault comes first (R83). The context is that of R18, at the instance of R16. -/
def Obligations.EngineRegisters : Prop :=
  ∀ (s : State) (a : BitVec 5) (n : BitVec 6), ∀ f ∈ [(EngKind.ln, Instr.lnErw a n, Instr.lnErr a n),
      (.fr, .frErw a n, .frErr a n), (.at, .atErw a n, .atErr a n), (.mx, .mxErw a n, .mxErr a n), (.cp, .cpErw a n, .cpErr a n),
      (.fx, .fxErw a n, .fxErr a n), (.mk, .mkErw a n, .mkErr a n)],
    (n.toNat = engStat f.1 → exec f.2.1 s = .next (s.raise (if s.me.mode = 0 then 0x03 else 0x02) (word n.toNat))) ∧
    (f.1 = .mx → s.mxTurn = .error (.park .mxHeld) → exec f.2.2 s = .next (s.parkMe .mxHeld) ∧
      (n.toNat ≠ engStat f.1 → exec f.2.1 s = .next (s.parkMe .mxHeld))) ∧
    ∀ c : Nat × Nat, c = s.myCtx f.1 → (f.1 = .mx → s.mxTurn = .ok ()) →
      (n.toNat ≠ engStat f.1 → ¬ (f.1 = .ln ∧ n = 0 ∧ s.me.mode = 0) → s.me.ready [.g a] →
        exec f.2.1 s = .next ((s.setEr f.1 c.1 c.2 n.toNat (gv s a) .full).goesPast [.g a])) ∧
      ((s.erp f.1 c.1 c.2 n.toNat).2 = .full →
        exec f.2.2 s = .next (s.givesG [] a (s.erp f.1 c.1 c.2 n.toNat).1)) ∧
      ((s.erp f.1 c.1 c.2 n.toNat).2 = .void → exec f.2.2 s = .next (loadsVoid s a)) ∧
      ((s.erp f.1 c.1 c.2 n.toNat).2 = .empty →
        exec f.2.2 s = .next (s.parkMe (.engReg (erKey f.1 c.1 c.2 n.toNat))))

/-! ### The bit-buffer (R213–R224) -/

/-- The executing slot is a transform slot (R213). -/
def Sys2Proof.Said.Transform (s : State) : Prop := coreKind s.curCore = .compute ∧ s.curSlot = 7

/-- IPOS becomes `p`; past the end of the stream it becomes ILEN, and FLAGS.V is set (R221, R222). -/
def Sys2Proof.Said.movesTo (sl : Slot) (p : Nat) : Slot :=
  if sl.ilen < p then (sl.setCsr 0x051 (word (sl.ilen * 2 ^ 32 + sl.ilen))).setV else sl.setCsr 0x051 (word (sl.ilen * 2 ^ 32 + p))

/-- EVAL of a nonzero reserved field (R82): the instruction word, but for `XX.erw` and `XX.err` the index, where it is past the engine's
register map, else the unused field (R19). -/
def Sys2Proof.Said.badFieldEval (w : BitVec 32) : Word :=
  let m := (w.extractLsb' 26 6).toNat
  let c := (w.extractLsb' 20 6).toNat
  if 40 ≤ m ∧ m ≤ 46 ∧ c < 2 then
    if [3, 1, 13, 9, 11, 11, 11].getD (m - 40) 0 ≤ (w.extractLsb' 0 10).toNat then (w.extractLsb' 0 10).setWidth 64
    else if c = 0 then (w.extractLsb' 10 5).setWidth 64 else (w.extractLsb' 15 5).setWidth 64
  else w.setWidth 64

/-- R82: a word that is no instruction raises 0x01 with the word as EVAL, or 0x02 with the word, an index or a field (R19), and does
nothing else; so does the event that stands for it, which always answers a next state.

R83, R169, R230, R347, R348: a privileged instruction in mode U raises 0x03 with the instruction word as EVAL; so does one that
needs mode H in mode S.

R213: a bit-buffer instruction in any other slot raises 0x04 with the instruction word. One whose immediate is out of its range
raises 0x02 in a transform slot, and 0x04 elsewhere (R83, R219). -/
def Obligations.IllegalAndPrivileged : Prop :=
  ((∀ (s : State) (w : BitVec 32) (r : Reject), decode (coreKind s.curCore) w = .error r →
     (r = .reserved w ∧ s.runWord w = .next (s.raise 0x01 (w.setWidth 64))) ∨
       (r = .nonzeroField (badFieldEval w) ∧ s.runWord w = .next (s.raise 0x02 (badFieldEval w))) ∨
       (r = .immediate w ∧ Transform s ∧ s.runWord w = .next (s.raise 0x02 (w.setWidth 64))) ∨
       (r = .immediate w ∧ ¬ Transform s ∧ s.runWord w = .next (s.raise 0x04 (w.setWidth 64)))) ∧
   (∀ (s : State) (w : BitVec 32), exec (.illegalInstruction (.reserved w)) s = .next (s.raise 0x01 (w.setWidth 64))) ∧
   (∀ (s : State) (e : Word), exec (.illegalInstruction (.nonzeroField e)) s = .next (s.raise 0x02 e)) ∧
   (∀ (s : State) (w : BitVec 32), (Transform s → exec (.illegalInstruction (.immediate w)) s = .next (s.raise 0x02 (w.setWidth 64))) ∧
     (¬ Transform s → exec (.illegalInstruction (.immediate w)) s = .next (s.raise 0x04 (w.setWidth 64))))) ∧
  (∀ (s : State) (a : BitVec 5) (k : BitVec 2),
     (s.me.mode = 0 → ∀ i ∈ [Instr.eret, .tlbinv a k, .lnKill a, .cpSave a, .cpRestore a],
       exec i s = .next (s.raise 0x03 ((encode i).setWidth 64))) ∧
     (s.me.mode ≠ 3 → 2 ≤ k.toNat → exec (.tlbinv a k) s = .next (s.raise 0x03 ((encode (.tlbinv a k)).setWidth 64))) ∧
     (s.me.mode ≠ 3 → exec (.cpSave a) s = .next (s.raise 0x03 ((encode (.cpSave a)).setWidth 64)))) ∧
  (∀ (s : State) (a b : BitVec 5) (n : BitVec 10), ¬ Transform s →
     ∀ i ∈ [Instr.bsAttach a b, .bsOattach a, .bsGet b n, .bsPeek b n, .bsSkip a n, .bsVlc a b n, .bsPut a n, .bsFlush a],
       exec i s = .next (s.raise 0x04 ((encode i).setWidth 64)))

/-- The address of input word `i`. -/
abbrev Sys2Proof.Said.inVa (s : State) (i : Nat) : Word := word (s.me.iaddr + 8 * i)

/-- The input words of the next `n` stream bits lie in the core's own LM, with their translations held, none has been read, and none is
EMPTY or waited for. -/
def Sys2Proof.Said.InputHere (s : State) (n : Nat) : Prop :=
  s.me.iaddr % 8 = 0 ∧ s.me.words = [] ∧ ∀ i, s.me.ipos / 64 ≤ i → 64 * i < min (s.me.ipos + n) s.me.ilen →
    ∃ phys, Held s s.who .data (inVa s i) phys ∧ s.ownLm phys = true ∧ s.presAt phys ≠ .empty ∧ s.queuedBefore s.seq phys = false

/-- The state in which the instruction has read the word at `phys`. -/
def Sys2Proof.Said.hasRead (u : State) (phys : Nat) (v : Word) (p : Presence) : State :=
  u.setMe { u.me with words := (phys, v, p) :: u.me.words }

/-- A word at `va` lies in the core's own LM, with its translation held. -/
def Sys2Proof.Said.OwnWord (s : State) (n : Nat) (va : Word) : Prop :=
  va.toNat % n = 0 ∧ ∃ phys, Held s s.who .data va phys ∧ s.ownLm phys = true

/-- R220–R222: attaching, skipping and reading. `streamBits p n` answers stream bits p to p + n − 1: they are those of the words at
IADDR + 8·(p div 64) on, from bit p mod 64 of the first (stated for one and for two words), a VOID word gives 0 bits and V, and from ILEN
on they are 0 with no word read; a word that is EMPTY, or that others reached before (R65), parks the instruction, which reissues, and a word
that has been read for it is not read again (R217). `bs.get` moves IPOS past them and
`bs.peek` does not; `bs.vlc` takes a code through a table of 2^m entries of 4 bytes.

R223: `bs.put` appends the low k bits of gA to the n pending ones; at 64 or more the low 64 are written, FULL, to the word at
OADDR, which advances by 8, and the rest stay pending. `bs.flush` writes the pending bits as one word and, where gA is not g0, the end bit
address 8·OADDR + n at gA, with OADDR and n as they were before it.

Where its words lie in the core's own LM each of the eight (`bs.attach`, `bs.oattach`, `bs.get`, `bs.peek`, `bs.skip`, `bs.vlc`, `bs.put`,
`bs.flush`) completes. -/
def Obligations.BitBuffer : Prop :=
  (∀ (s : State) (a b : BitVec 5) (n : BitVec 10), Transform s → s.me.ready [.g a, .g b] →
     ((gv s a).toNat % 8 = 0 → Completes s (.bsAttach a b) ∧ Completes s (.bsOattach a)) ∧
     Completes s (.bsSkip a n) ∧
     (s.me.onum + n.toNat < 64 → Completes s (.bsPut a n)) ∧
     (s.me.onum = 0 → Completes s (.bsFlush 0)) ∧
     (Calm s → s.me.kept = [] →
       (InputHere s n.toNat → Completes s (.bsGet b n) ∧ Completes s (.bsPeek b n)) ∧
       (InputHere s n.toNat → (gv s a).toNat % 4 = 0 → (∀ v, v < 2 ^ n.toNat → OwnWord s 4 (gv s a + word (4 * v))) →
         Completes s (.bsVlc a b n)) ∧
       (OwnWord s 8 (word s.me.oaddr) → Completes s (.bsPut a n) ∧ Completes s (.bsFlush 0) ∧
         (OwnWord s 8 (gv s a) → Completes s (.bsFlush a))))) ∧
  (∀ (s : State) (a b : BitVec 5) (n : BitVec 10), Transform s →
     (s.me.ready [.g a, .g b] → (gv s a).toNat % 8 = 0 → ∃ t, exec (.bsAttach a b) s = .next t ∧
       t.me.iaddr = (gv s a).toNat % 2 ^ 52 ∧ t.me.ipos = 0 ∧ t.me.ilen = (gv s b).toNat % 2 ^ 32 ∧ t.me.pc = s.me.pc + 4) ∧
     (s.me.ready [.g a] → (gv s a).toNat % 8 = 0 → ∃ t, exec (.bsOattach a) s = .next t ∧
       t.me.oaddr = (gv s a).toNat % 2 ^ 52 ∧ t.me.onum = 0 ∧ t.me.csrv 0x053 = 0 ∧ t.me.pc = s.me.pc + 4) ∧
     (s.me.ready [.g a] → (gv s a).toNat % 8 ≠ 0 → exec (.bsOattach a) s = .next (s.raise 0x05 (gv s a))) ∧
     (s.me.ready [.g a, .g b] → (gv s a).toNat % 8 ≠ 0 → exec (.bsAttach a b) s = .next (s.raise 0x05 (gv s a))) ∧
     (s.me.ready [.g a] → exec (.bsSkip a n) s =
       .next (s.setMe (movesTo (s.me.seen [.g a]) (s.me.ipos + (gv s a).toNat + n.toNat)).advance)) ∧
     (∀ v u, s.streamBits s.me.ipos n.toNat = .ok (v, u) →
       exec (.bsGet b n) s = .next (u.setMe ((movesTo u.me (s.me.ipos + n.toNat)).wrG b (word v)).advance) ∧
       exec (.bsPeek b n) s =
         .next (u.setMe ((if s.me.ilen < s.me.ipos + n.toNat then u.me.setV else u.me).wrG b (word v)).advance)) ∧
     (∀ m x u, 0 < m → s.me.ipos % 64 + m ≤ 64 → s.me.ipos + m ≤ s.me.ilen →
       s.reach (s.req .read 8) (inVa s (s.me.ipos / 64)) = .ok (x, u) → s.ownLm x.phys = true →
       ∀ v, v = word (s.peek x.phys 8) →
       (s.me.words = [] → s.queuedBefore s.seq x.phys = false →
         (s.presAt x.phys = .full →
           s.streamBits s.me.ipos m = .ok (v.toNat / 2 ^ (s.me.ipos % 64) % 2 ^ m, hasRead u x.phys v .full)) ∧
         (s.presAt x.phys = .void → ∃ t, s.streamBits s.me.ipos m = .ok (0, t) ∧ t.me = (hasRead u x.phys v .void).me.setV)) ∧
       (s.me.words = [] → s.presAt x.phys = .empty ∨ s.queuedBefore s.seq x.phys = true →
         exec (.bsGet b (BitVec.ofNat 10 m)) s = .next (s.readMe (.input x.phys) []) ∧
         exec (.bsPeek b (BitVec.ofNat 10 m)) s = .next (s.readMe (.input x.phys) [])) ∧
       (∀ y, s.me.words = [(x.phys, y, .full)] → s.streamBits s.me.ipos m =
         .ok (y.toNat / 2 ^ (s.me.ipos % 64) % 2 ^ m, hasRead u x.phys y .full))) ∧
     (∀ m x y t u, 64 < s.me.ipos % 64 + m → m ≤ 64 → s.me.ipos + m ≤ s.me.ilen →
       s.reach (s.req .read 8) (inVa s (s.me.ipos / 64)) = .ok (x, t) → s.ownLm x.phys = true → s.presAt x.phys = .full →
       s.me.words = [] → s.queuedBefore s.seq x.phys = false → s.queuedBefore s.seq y.phys = false →
       (hasRead t x.phys (word (s.peek x.phys 8)) .full).reach (s.req .read 8) (inVa s (s.me.ipos / 64 + 1)) = .ok (y, u) →
       s.ownLm y.phys = true → s.presAt y.phys = .full → x.phys ≠ y.phys → s.streamBits s.me.ipos m =
         .ok ((s.peek x.phys 8 + 2 ^ 64 * s.peek y.phys 8) / 2 ^ (s.me.ipos % 64) % 2 ^ m, hasRead u y.phys (word (s.peek y.phys 8)) .full)) ∧
     (∀ m, s.me.ilen ≤ s.me.ipos → s.streamBits s.me.ipos m = .ok (0, s)) ∧
     (s.me.ready [.g a] → (gv s a).toNat % 4 = 0 → ∀ v u, (s.seen [.g a]).streamBits s.me.ipos n.toNat = .ok (v, u) →
       ∀ phys t, u.ownAccess .read 4 (gv s a + word (4 * v)) = .ok (phys, t) →
         ∀ e, e = t.peek phys 4 →
         (1 ≤ e / 2 ^ 16 % 32 ∧ e / 2 ^ 16 % 32 ≤ n.toNat → exec (.bsVlc a b n) s =
           .next (t.setMe ((movesTo t.me (s.me.ipos + e / 2 ^ 16 % 32)).wrG b (word (e % 2 ^ 16))).advance)) ∧
         (e / 2 ^ 16 % 32 = 0 ∨ n.toNat < e / 2 ^ 16 % 32 → exec (.bsVlc a b n) s =
           .next (t.setMe (t.me.setV.wrG b 0xFFFFFFFFFFFFFFFF).advance)))) ∧
  (∀ (s : State) (a : BitVec 5) (k : BitVec 10) (sl : Slot), Transform s → s.me.ready [.g a] → sl = s.me.seen [.g a] →
     (∀ bits, bits = s.me.oacc + (gv s a).toNat % 2 ^ k.toNat * 2 ^ s.me.onum →
       (s.me.onum + k.toNat < 64 → exec (.bsPut a k) s =
         .next (s.setMe (sl.setOut s.me.oaddr (s.me.onum + k.toNat) bits).advance)) ∧
       (64 ≤ s.me.onum + k.toNat → ∀ phys u, (s.seen [.g a]).ownAccess .write 8 (word s.me.oaddr) = .ok (phys, u) →
         exec (.bsPut a k) s = .next ((u.pokeWord phys (word bits) .full).setMe
           (u.me.setOut (s.me.oaddr + 8) (s.me.onum + k.toNat - 64) (bits / 2 ^ 64)).advance))) ∧
     (s.me.onum = 0 → a = 0 → exec (.bsFlush a) s = .next (stores (s.seen [.g a]))) ∧
     (∀ p u, (s.seen [.g a]).ownAccess .write 8 (word s.me.oaddr) = .ok (p, u) → s.me.onum ≠ 0 →
       (a = 0 → exec (.bsFlush a) s = .next (stores ((u.pokeWord p (word s.me.oacc) .full).setMe
         (u.me.setOut (s.me.oaddr + 8) 0 0)))) ∧
       (a ≠ 0 → ∀ q w, u.ownAccess .write 8 (gv s a) = .ok (q, w) → ∃ t, exec (.bsFlush a) s = .next t ∧
         t.mem = ((w.poke p 8 s.me.oacc).poke q 8 ((8 * s.me.oaddr + s.me.onum) % 2 ^ 64)).mem ∧
         t.me.oaddr = (s.me.oaddr + 8) % 2 ^ 52 ∧ t.me.onum = 0 ∧ t.me.pc = s.me.pc + 4)) ∧
     (s.me.onum = 0 → a ≠ 0 → ∀ q u, (s.seen [.g a]).ownAccess .write 8 (gv s a) = .ok (q, u) →
       exec (.bsFlush a) s = .next (stores (u.pokeWord q (word (8 * s.me.oaddr)) .full))))

/-! ### Vector results (R195–R208)

`el s a w j` is element j of w bits of va, and `act s k w j` says that mask register km makes it active. -/

/-- Element `j` of `w` bits of a register's value. -/
abbrev Sys2Proof.Said.elOf (v : VWord) (w j : Nat) : Nat := v.toNat / 2 ^ (w * j) % 2 ^ w

/-- Element `j` of `w` bits that an instruction reads from va. -/
abbrev Sys2Proof.Said.el (s : State) (a : BitVec 4) (w j : Nat) : Nat := elOf (s.me.vv a) w j

/-- An element read as signed. -/
abbrev Sys2Proof.Said.sel (s : State) (a : BitVec 4) (w j : Nat) : Int :=
  if el s a w j < 2 ^ (w - 1) then (el s a w j : Int) else (el s a w j : Int) - 2 ^ w

/-- Element `j` of `w` bits is active under km: its 32-bit lane is selected (R195). -/
abbrev Sys2Proof.Said.act (s : State) (k : BitVec 3) (w j : Nat) : Bool := (s.me.kv k).getLsbD (w * j / 32)

/-- The sources of an instruction governed by km: vd is one unless km is k0 (R125). -/
abbrev Sys2Proof.Said.srcsV (l : List Src) (d : BitVec 4) (k : BitVec 3) : List Src := l ++ [.k k] ++ (if k = 0 then [] else [.v d])

/-- A governed instruction completes: each active element of vd becomes `f`, modulo 2^w, and the others are kept. -/
def Sys2Proof.Said.VDoes (s : State) (i : Instr) (l : List Src) (d : BitVec 4) (k : BitVec 3) (w : Nat) (f : Nat → Int) : Prop :=
  s.me.ready (srcsV l d k) → ∃ v, exec i s = .next (s.givesV (srcsV l d k) d v) ∧
    ∀ j, j < 1024 / w → (elOf v w j : Int) = if act s k w j then f j % 2 ^ w else el s d w j

/-- The slot once the flags `f` are in FPCSR. -/
def Sys2Proof.Said.flagged (s : State) (l : List Src) (f : Fl) : Slot := (s.me.seen l).setCsr 0x012 (raisedFlags s f)

/-- The OR of the flags of some elements. -/
def Sys2Proof.Said.allFlags (l : List Nat) (r : Nat → Fl) : Fl := l.foldl (fun a j => a ||| r j) 0

/-- The code and the element of a vector floating fault, if its elements raise one (R150, R195). -/
def Sys2Proof.Said.vFault (s : State) (l : List Nat) (r : Nat → Fl) : Option (Nat × Nat) :=
  if bit (s.me.csrv 0x012) 4 = true ∧ (l.any fun j => decide (r j &&& flNoNan ≠ 0)) then
    (l.find? fun j => decide (r j &&& flNoNan ≠ 0)).map (0x11, ·)
  else if bit (s.me.csrv 0x012) 5 = true then (l.find? fun j => decide (r j &&& flNV ≠ 0)).map (0x10, ·)
  else none

/-- The active elements, in ascending order. -/
abbrev Sys2Proof.Said.actsOf (s : State) (k : BitVec 3) (w : Nat) : List Nat := (List.range (1024 / w)).filter (act s k w)

/-- A governed floating instruction: with no fault it writes its active elements and sets the OR of their flags; else it raises the
fault with the lowest such element as EVAL, and writes nothing. -/
def Sys2Proof.Said.VfDoes (s : State) (i : Instr) (l : List Src) (d : BitVec 4) (k : BitVec 3) (w : Nat) (r : Nat → Nat × Fl) :
    Prop :=
  s.me.ready (srcsV l d k) → match vFault s (actsOf s k w) (fun j => (r j).2) with
    | some (c, j) => exec i s = .next (s.raise c (word j))
    | none => ∃ v, exec i s = .next (s.setMe ((flagged s (srcsV l d k) (allFlags (actsOf s k w) fun j => (r j).2)).wrV d v).advance) ∧
      ∀ j, j < 1024 / w → elOf v w j = if act s k w j then (r j).1 % 2 ^ w else el s d w j

/-- A compare into kd: a selected bit says whether the comparison holds for every element of its lane, the others are kept. -/
def Sys2Proof.Said.VcDoes (s : State) (i : Instr) (l : List Src) (d k : BitVec 3) (w : Nat) (c : Nat → Bool × Fl) : Prop :=
  ∀ m, m = l ++ [.k k] ++ (if k = 0 then [] else [Src.k d]) →
  s.me.ready m → match vFault s (actsOf s k w) (fun j => (c j).2) with
    | some (code, j) => exec i s = .next (s.raise code (word j))
    | none => ∃ v, exec i s = .next (s.setMe ((flagged s m (allFlags (actsOf s k w) fun j => (c j).2)).wrK d v).advance) ∧
      ∀ n, n < 32 → v.getLsbD n =
        if (s.me.kv k).getLsbD n then (List.range (32 / w)).all (fun q => (c (n * (32 / w) + q)).1) else (s.me.kv d).getLsbD n

/-- R198: the integer vector instructions, at element widths 8, 16 and 32. -/
def Obligations.VectorInteger : Prop :=
  ∀ (s : State) (d a b : BitVec 4) (k : BitVec 3) (e : BitVec 2) (w : Nat) (l : List Src), e ≠ 3 → w = 8 * 2 ^ e.toNat →
    l = [.v a, .v b] →
    VDoes s (.vadd d a b k e) l d k w (fun j => el s a w j + el s b w j) ∧
    VDoes s (.vsub d a b k e) l d k w (fun j => (el s a w j : Int) - el s b w j) ∧
    VDoes s (.vmul d a b k e) l d k w (fun j => el s a w j * el s b w j) ∧
    VDoes s (.vmulh d a b k e) l d k w (fun j => sel s a w j * sel s b w j / 2 ^ w) ∧
    VDoes s (.vand d a b k e) l d k w (fun j => (el s a w j &&& el s b w j : Nat)) ∧
    VDoes s (.vor d a b k e) l d k w (fun j => (el s a w j ||| el s b w j : Nat)) ∧
    VDoes s (.vxor d a b k e) l d k w (fun j => (el s a w j ^^^ el s b w j : Nat)) ∧
    VDoes s (.vsll d a b k e) l d k w (fun j => el s a w j * 2 ^ (el s b w j % w)) ∧
    VDoes s (.vsrl d a b k e) l d k w (fun j => el s a w j / 2 ^ (el s b w j % w)) ∧
    VDoes s (.vsra d a b k e) l d k w (fun j => sel s a w j / 2 ^ (el s b w j % w)) ∧
    VDoes s (.vmin d a b k e) l d k w (fun j => min (sel s a w j) (sel s b w j)) ∧
    VDoes s (.vmax d a b k e) l d k w (fun j => max (sel s a w j) (sel s b w j)) ∧
    VDoes s (.vminu d a b k e) l d k w (fun j => (min (el s a w j) (el s b w j) : Nat)) ∧
    VDoes s (.vmaxu d a b k e) l d k w (fun j => (max (el s a w j) (el s b w j) : Nat)) ∧
    VDoes s (.vadds d a b k e) l d k w
      (fun j => max (-(2 ^ (w - 1))) (min (2 ^ (w - 1) - 1) (sel s a w j + sel s b w j))) ∧
    VDoes s (.vsubs d a b k e) l d k w
      (fun j => max (-(2 ^ (w - 1))) (min (2 ^ (w - 1) - 1) (sel s a w j - sel s b w j)))

/-- The value of an element: FP32 at ew = 2, BF16 at ew = 1. -/
def Sys2Proof.Said.vval (s : State) (e : BitVec 2) (a : BitVec 4) (j : Nat) : Machine.Num :=
  if e = 2 then Fmt.f32.decode (el s a 32 j) else Fmt.bf16.decode (el s a 16 j)

/-- An element result: FP32 under FPCSR.RM with FZO, BF16 to nearest even (R199). -/
def Sys2Proof.Said.vrounded (s : State) (e : BitVec 2) (x : Exact) : Nat × Fl :=
  if e = 2 then Fmt.f32.result (rm s) (bit (s.me.csrv 0x012) 3) x else Fmt.bf16.result 0 false x

/-- An element as the FP32 pattern of the same value. -/
def Sys2Proof.Said.wide (s : State) (e : BitVec 2) (a : BitVec 4) (j : Nat) : F32 :=
  BitVec.ofNat 32 (if e = 2 then el s a 32 j else el s a 16 j * 2 ^ 16)

/-- The result of `vfmin` or `vfmax`: an FP32 one is flushed under FZO (R150). -/
def Sys2Proof.Said.wideFlushed (s : State) (e : BitVec 2) (r : F32 × Fl) : Nat × Fl :=
  if e = 2 then ((tinyFlushed s r.1 r.2).1.toNat, (tinyFlushed s r.1 r.2).2) else (r.1.toNat, r.2)

/-- R199, R200: the floating vector instructions, each element rounded once; `vfmin` and `vfmax` are `fmin` and `fmax`, element by
element, with FZO for an FP32 result, and `vfabs` and `vfneg` clear and invert the sign and set no flag. -/
def Obligations.VectorFloat : Prop :=
  ∀ (s : State) (d a b c : BitVec 4) (k : BitVec 3) (e : BitVec 2) (w z : Nat) (l : List Src), e = 1 ∨ e = 2 →
    w = 8 * 2 ^ e.toNat → z = (if e = 2 then rm s else 0) → l = [.v a, .v b] →
    VfDoes s (.vfadd d a b k e) l d k w (fun j => vrounded s e (addExact z (vval s e a j) (vval s e b j))) ∧
    VfDoes s (.vfsub d a b k e) l d k w (fun j => vrounded s e (addExact z (vval s e a j) (vval s e b j).neg)) ∧
    VfDoes s (.vfmul d a b k e) l d k w (fun j => vrounded s e (mulExact (vval s e a j) (vval s e b j))) ∧
    VfDoes s (.vfdiv d a b k e) l d k w (fun j => vrounded s e (divExact (vval s e a j) (vval s e b j))) ∧
    VfDoes s (.vfsqrt d a k e) [.v a] d k w (fun j => vrounded s e (sqrtExact (vval s e a j))) ∧
    VfDoes s (.vfexp2 d a k e) [.v a] d k w (fun j => vrounded s e (exp2Num (vval s e a j))) ∧
    VfDoes s (.vfrcp d a k e) [.v a] d k w (fun j => vrounded s e (divExact (.fin false 1 0) (vval s e a j))) ∧
    VfDoes s (.vfmin d a b k e) l d k w (fun j => ((wideFlushed s e (fminmax false (wide s e a j) (wide s e b j))).1 / 2 ^ (32 - w),
      (wideFlushed s e (fminmax false (wide s e a j) (wide s e b j))).2)) ∧
    VfDoes s (.vfmax d a b k e) l d k w (fun j => ((wideFlushed s e (fminmax true (wide s e a j) (wide s e b j))).1 / 2 ^ (32 - w),
      (wideFlushed s e (fminmax true (wide s e a j) (wide s e b j))).2)) ∧
    VDoes s (.vfabs d a k e) [.v a] d k w (fun j => (el s a w j % 2 ^ (w - 1) : Nat)) ∧
    VDoes s (.vfneg d a k e) [.v a] d k w (fun j => (el s a w j + 2 ^ (w - 1) : Nat)) ∧
    VfDoes s (.vfma d a b c k) (l ++ [.v c]) d k 32
      (fun j => vrounded s 2 (fmaExact (rm s) (vval s 2 a j) (vval s 2 b j) (vval s 2 c j))) ∧
    VfDoes s (.vfms d a b c k) (l ++ [.v c]) d k 32
      (fun j => vrounded s 2 (fmaExact (rm s) (vval s 2 a j) (vval s 2 b j) (vval s 2 c j).neg)) ∧
    VfDoes s (.vfnma d a b c k) (l ++ [.v c]) d k 32
      (fun j => vrounded s 2 (fmaExact (rm s) (vval s 2 a j).neg (vval s 2 b j) (vval s 2 c j)))

/-- R201: the vector compares. The integer ones set no flag; a NaN makes the floating ones but `vfcmp.un` false, and sets NV where
it is signalling, with `lt` and `le` where it is any NaN. -/
def Obligations.VectorCompare : Prop :=
  ∀ (s : State) (d k : BitVec 3) (a b : BitVec 4) (e : BitVec 2) (w : Nat) (l : List Src), e ≠ 3 → w = 8 * 2 ^ e.toNat →
    l = [.v a, .v b] →
    VcDoes s (.vcmpEq d a b k e) l d k w (fun j => (decide (el s a w j = el s b w j), 0)) ∧
    VcDoes s (.vcmpNe d a b k e) l d k w (fun j => (decide (el s a w j ≠ el s b w j), 0)) ∧
    VcDoes s (.vcmpLt d a b k e) l d k w (fun j => (decide (sel s a w j < sel s b w j), 0)) ∧
    VcDoes s (.vcmpGe d a b k e) l d k w (fun j => (decide (sel s b w j ≤ sel s a w j), 0)) ∧
    VcDoes s (.vcmpLtu d a b k e) l d k w (fun j => (decide (el s a w j < el s b w j), 0)) ∧
    VcDoes s (.vcmpGeu d a b k e) l d k w (fun j => (decide (el s b w j ≤ el s a w j), 0)) ∧
    (e ≠ 0 →
      VcDoes s (.vfcmpEq d a b k e) l d k w (fun j => fcmpEq (vval s e a j) (vval s e b j)) ∧
      VcDoes s (.vfcmpLt d a b k e) l d k w (fun j => fcmpLt (vval s e a j) (vval s e b j)) ∧
      VcDoes s (.vfcmpLe d a b k e) l d k w (fun j => fcmpLe (vval s e a j) (vval s e b j)) ∧
      VcDoes s (.vfcmpUn d a b k e) l d k w (fun j => ((vval s e a j).isNan || (vval s e b j).isNan,
        if (vval s e a j).isSig || (vval s e b j).isSig then flNV else 0)))

/-- R202: `vsel.w` chooses each lane by km and writes all 32; `kand`, `kor`, `kxor` and `knot` act on the bits that km selects, and
the others are kept. A write of k0 is discarded.

R203: the lane moves; `vins` reads vd even under k0, and `kfirst` gives 32 where no bit is set. -/
def Obligations.SelectAndLanes : Prop :=
  (∀ (s : State) (d a b : BitVec 4) (k x y z : BitVec 3) (l m : List Src), l = [.k y] ++ [.k k] ++ (if k = 0 then [] else [.k x]) →
     m = [.k y, .k z] ++ [.k k] ++ (if k = 0 then [] else [.k x]) →
     (s.me.ready [.v a, .v b, .k k] → ∃ v, exec (.vsel d a b k) s = .next (s.givesV [.v a, .v b, .k k] d v) ∧
       ∀ j, j < 32 → elOf v 32 j = if (s.me.kv k).getLsbD j then el s a 32 j else el s b 32 j) ∧
     (s.me.ready m →
       (∃ v, exec (.kand x y z k) s = .next (s.givesK m x v) ∧ ∀ j, j < 32 → v.getLsbD j =
         if (s.me.kv k).getLsbD j then (s.me.kv y).getLsbD j && (s.me.kv z).getLsbD j else (s.me.kv x).getLsbD j) ∧
       (∃ v, exec (.kor x y z k) s = .next (s.givesK m x v) ∧ ∀ j, j < 32 → v.getLsbD j =
         if (s.me.kv k).getLsbD j then (s.me.kv y).getLsbD j || (s.me.kv z).getLsbD j else (s.me.kv x).getLsbD j) ∧
       (∃ v, exec (.kxor x y z k) s = .next (s.givesK m x v) ∧ ∀ j, j < 32 → v.getLsbD j =
         if (s.me.kv k).getLsbD j then (s.me.kv y).getLsbD j ^^ (s.me.kv z).getLsbD j else (s.me.kv x).getLsbD j)) ∧
     (s.me.ready l → ∃ v, exec (.knot x y k) s = .next (s.givesK l x v) ∧ ∀ j, j < 32 → v.getLsbD j =
       if (s.me.kv k).getLsbD j then !(s.me.kv y).getLsbD j else (s.me.kv x).getLsbD j)) ∧
  (∀ (s : State) (d a : BitVec 4) (g n : BitVec 5) (x k : BitVec 3),
     VDoes s (.vbcast d g k) [.g g] d k 32 (fun _ => ((gv s g).toNat : Int)) ∧
     (s.me.ready [.v a] → exec (.vext g a n) s = .next (s.givesG [.v a] g (word (el s a 32 n.toNat)))) ∧
     (s.me.ready [.g g, .v d] → ∃ v, exec (.vins d g n) s = .next (s.givesV [.g g, .v d] d v) ∧
       ∀ j, j < 32 → elOf v 32 j = if j = n.toNat then (gv s g).toNat % 2 ^ 32 else el s d 32 j) ∧
     (s.me.ready [.k x, .k k] →
       exec (.kpopc g x k) s = .next (s.givesG [.k x, .k k] g
         (word ((List.range 32).filter (fun j => (s.me.kv x).getLsbD j && (s.me.kv k).getLsbD j)).length)) ∧
       ∃ q : Nat, exec (.kfirst g x k) s = .next (s.givesG [.k x, .k k] g (word q)) ∧ q ≤ 32 ∧
         (∀ j, j < q → ((s.me.kv x).getLsbD j && (s.me.kv k).getLsbD j) = false) ∧
         (q < 32 → ((s.me.kv x).getLsbD q && (s.me.kv k).getLsbD q) = true)))

/-- The register that holds a number modulo 2^32 in lane 0, and 0 in the others. -/
abbrev Sys2Proof.Said.inLane0 (x : Int) : VWord := BitVec.ofNat 1024 (x % 2 ^ 32).toNat

/-- R204, R207: `vperm` picks elements by index modulo N; the integer reductions sum, or take the greatest or the least of, the
selected elements, and with none give 0, the least and the greatest value of the width; `vscan` gives inclusive prefix sums of
the active elements. -/
def Obligations.PermuteAndReduce : Prop :=
  ∀ (s : State) (d a b : BitVec 4) (k : BitVec 3) (e : BitVec 2) (w : Nat) (l : List Src), e ≠ 3 → w = 8 * 2 ^ e.toNat →
    l = [.v a, .k k] →
    VDoes s (.vperm d a b k e) [.v a, .v b] d k w (fun j => el s a w (el s b w j % (1024 / w))) ∧
    VDoes s (.vscan d a k e) [.v a] d k w
      (fun j => ((List.range (j + 1)).filter (act s k w)).foldl (fun (x : Int) i => x + el s a w i) 0) ∧
    (s.me.ready l →
      exec (.vredadd d a k e) s = .next (s.givesV l d (inLane0 ((actsOf s k w).foldl (fun x j => x + sel s a w j) 0))) ∧
      exec (.vredmax d a k e) s =
        .next (s.givesV l d (inLane0 ((actsOf s k w).foldl (fun x j => max x (sel s a w j)) (-(2 ^ (w - 1)))))) ∧
      exec (.vredmin d a k e) s =
        .next (s.givesV l d (inLane0 ((actsOf s k w).foldl (fun x j => min x (sel s a w j)) (2 ^ (w - 1) - 1)))))

/-- Node i of a level of the tree of R205: its value, if a selected lane feeds it, and the flags of the additions below it. -/
def Sys2Proof.Said.sumTree (s : State) (a : BitVec 4) (k : BitVec 3) : Nat → Nat → Option F32 × Fl
  | 0, i => (if (s.me.kv k).getLsbD i then some (BitVec.ofNat 32 (el s a 32 i)) else none, 0)
  | n + 1, i =>
    let x := sumTree s a k n (2 * i)
    let y := sumTree s a k n (2 * i + 1)
    match x.1, y.1 with
    | some p, some q =>
      let z := Fmt.f32.result (rm s) (bit (s.me.csrv 0x012) 3) (addExact (rm s) (num p) (num q))
      (some (BitVec.ofNat 32 z.1), x.2 ||| y.2 ||| z.2)
    | some p, none => (some p, x.2 ||| y.2)
    | none, q => (q, x.2 ||| y.2)

/-- The rank of a value in `vtopk` (R206): a NaN is below −∞, and −0 below +0. -/
def Sys2Proof.Said.rank (x : F32) : Int := if (num x).isNan then -(2 ^ 33) else ordKey x

/-- R204–R206, with TNV and NSAT clear: `vfredadd` adds in the fixed tree, +0 with no lane; `vfredmax` gives the greatest selected
value that is no NaN, −∞ with no lane, the canonical NaN where every selected lane is NaN, and a zero of its sign with UF and NX where FZO
flushes it (R150). That a NaN of a single selected lane becomes the canonical one in `vfredmax`, and that `vfredadd` passes a single
selected lane as it is, are the model's choices (DEDUCED, log entry 42). `vtopk` writes the eight highest-ranked selected values and their indices, ties to the
lower lane, and fills missing places with −∞ and all ones. -/
def Obligations.FloatReduceAndTopK : Prop :=
  ∀ (s : State) (d a b : BitVec 4) (k : BitVec 3) (l : List Src), l = [.v a, .k k] →
    (bit (s.me.csrv 0x012) 4 = false → bit (s.me.csrv 0x012) 5 = false → s.me.ready l →
      exec (.vfredadd d a k) s = .next (s.setMe ((flagged s l (sumTree s a k 5 0).2).wrV d
        (inLane0 (match (sumTree s a k 5 0).1 with | some x => (x.toNat : Int) | none => 0))).advance) ∧
      ∃ x : F32, exec (.vfredmax d a k) s = .next (s.setMe ((flagged s l (tinyFlushed s x
          (if (actsOf s k 32).any (fun j => (num (BitVec.ofNat 32 (el s a 32 j))).isSig) then flNV else 0)).2).wrV d
          (inLane0 (tinyFlushed s x 0).1.toNat)).advance) ∧
        (actsOf s k 32 = [] → x = 0xFF800000) ∧
        (actsOf s k 32 ≠ [] → (∀ j ∈ actsOf s k 32, (num (BitVec.ofNat 32 (el s a 32 j))).isNan = true) → x = 0x7FC00000) ∧
        ((∃ j ∈ actsOf s k 32, (num (BitVec.ofNat 32 (el s a 32 j))).isNan = false) →
          (∃ j ∈ actsOf s k 32, x = BitVec.ofNat 32 (el s a 32 j) ∧ (num x).isNan = false) ∧
          ∀ j ∈ actsOf s k 32, (num (BitVec.ofNat 32 (el s a 32 j))).isNan = false →
            ordKey (BitVec.ofNat 32 (el s a 32 j)) ≤ ordKey x)) ∧
    (s.me.ready [.v a, .v b, .k k] → ∃ (o : List Nat) (v : VWord), o.Nodup ∧ (∀ j, j ∈ o ↔ j ∈ actsOf s k 32) ∧
      o.Pairwise (fun i j => rank (BitVec.ofNat 32 (el s a 32 j)) < rank (BitVec.ofNat 32 (el s a 32 i)) ∨
        (rank (BitVec.ofNat 32 (el s a 32 j)) = rank (BitVec.ofNat 32 (el s a 32 i)) ∧ i < j)) ∧
      exec (.vtopk d a b k) s = .next (s.givesV [.v a, .v b, .k k] d v) ∧
      (∀ r, r < 8 → elOf v 32 r = (match o[r]? with | some j => el s a 32 j | none => 0xFF800000) ∧
        elOf v 32 (8 + r) = (match o[r]? with | some j => (el s b 32 0 + j) % 2 ^ 32 | none => 0xFFFFFFFF)) ∧
      ∀ r, 16 ≤ r → r < 32 → elOf v 32 r = 0)

/-- The floating formats of `vcvt` and their widths (R78, R144). -/
def Sys2Proof.Said.vecFloat : List (BitVec 4 × Fmt × Nat) :=
  [(0, .f32, 32), (1, .bf16, 16), (2, .f16, 16), (3, .e5m2, 8), (4, .e4m3, 8), (5, .e3m2, 6), (6, .e2m3, 6), (7, .e2m1, 4)]

/-- The integer formats of `vcvt`: their ranges and widths. -/
def Sys2Proof.Said.vecInteger : List (BitVec 4 × Int × Int × Nat) :=
  [(8, -128, 127, 8), (9, -32768, 32767, 16), (10, -(2 ^ 31), 2 ^ 31 - 1, 32), (11, 0, 255, 8)]

/-- An element's value in a floating format; a subnormal code of a narrow one is a zero of its sign under FZI (R149). -/
def Sys2Proof.Said.vecIn (s : State) (f : BitVec 4) (p : Fmt) (x : Nat) : Machine.Num :=
  p.decodeFlush (bit (s.me.csrv 0x012) 2 && decide (3 ≤ f)) x

/-- A value converted into a floating format: under RM with FZO into f32, to nearest even into any other. -/
def Sys2Proof.Said.vecOut (s : State) (t : BitVec 4) (q : Fmt) (x : Machine.Num) : Nat × Fl :=
  q.conv (if t = 0 then rm s else 0) (bit (s.me.csrv 0x012) 3 && decide (t = 0)) x

/-- R208: `vcvt` converts N = 1,024 ÷ (the wider class of its two formats) elements, each packed at its format's width and governed
by km bit ⌊32·j ÷ N⌋; bits above the last one are 0. Into a floating format a value is rounded once, into an integer one it is truncated
with saturation, and an integer saturates into another. That it does so between i8 and ui8 too, and that a BF16 subnormal converted to FP32
under FZO becomes a zero of its sign, with UF and NX, are the model's choices (DEDUCED, log entry 42). With NSAT and TNV 0 it completes, whatever its operands are. -/
def Obligations.VectorConvert : Prop :=
  ∀ (s : State) (d a : BitVec 4) (k : BitVec 3) (f t : BitVec 4) (n : Nat) (l : List Src) (r : Nat → Nat × Fl) (c : List Nat),
    f.toNat < 12 → t.toNat < 12 → n = 1024 / max (vcvtClass f.toNat) (vcvtClass t.toNat) → l = srcsV [.v a] d k →
    r = (fun j => s.me.vcvt f.toNat t.toNat (el s a (vcvtWidth f.toNat) j)) →
    c = (List.range n).filter (fun j => (s.me.kv k).getLsbD (32 * j / n)) → s.me.ready l →
    (∀ code j, vFault s c (fun j => (r j).2) = some (code, j) → exec (.vcvt d a k f t) s = .next (s.raise code (word j))) ∧
    (vFault s c (fun j => (r j).2) = none → ∃ v,
      exec (.vcvt d a k f t) s = .next (s.setMe ((flagged s l (allFlags c fun j => (r j).2)).wrV d v).advance) ∧
      (∀ j, j < n → elOf v (vcvtWidth t.toNat) j =
        if j ∈ c then (r j).1 % 2 ^ vcvtWidth t.toNat else el s d (vcvtWidth t.toNat) j) ∧
      v.toNat < 2 ^ (n * vcvtWidth t.toNat)) ∧
    (bit (s.me.csrv 0x012) 4 = false → bit (s.me.csrv 0x012) 5 = false → Completes s (.vcvt d a k f t)) ∧
    (∀ p u q v, (f, p, u) ∈ vecFloat → (t, q, v) ∈ vecFloat → u = vcvtWidth f.toNat ∧ v = vcvtWidth t.toNat ∧
      ∀ j, r j = vecOut s t q (vecIn s f p (el s a u j))) ∧
    (∀ p u lo hi v, (f, p, u) ∈ vecFloat → (t, lo, hi, v) ∈ vecInteger → ∀ j, r j =
      (((toInt lo hi (vecIn s f p (el s a u j))).1 % 2 ^ v).toNat, (toInt lo hi (vecIn s f p (el s a u j))).2)) ∧
    (∀ lo hi u q v, (f, lo, hi, u) ∈ vecInteger → (t, q, v) ∈ vecFloat → u = vcvtWidth f.toNat ∧
      ∀ j, r j = vecOut s t q (ofInt (if f = 11 then (el s a u j : Int) else sel s a u j))) ∧
    (∀ lo hi u l h v, (f, lo, hi, u) ∈ vecInteger → (t, l, h, v) ∈ vecInteger → v = vcvtWidth t.toNat ∧ ∀ j, r j =
      ((max l (min h (if f = 11 then (el s a u j : Int) else sel s a u j)) % 2 ^ v).toNat, 0))

/-! ### Vector memory (R209–R212) -/

/-- The accesses of a vector instruction's active elements pass their checks, each at memory of the package, and what they wait for has
come. -/
def Sys2Proof.Said.VReaches (s : State) (l : List Src) (acc : Access) (n : Nat) (es : List (Nat × Word)) (xs : List ElemAt) (u : State) :
    Prop :=
  s.me.ready l ∧ (s.seen l).accessAll acc n es = .ok (xs, u) ∧
    ∀ x ∈ xs, u.landed (s.req acc n) x.acc [x.acc] = .ok () ∧ InMemory s x.acc.page

/-- A vector load that passes its checks, with no element in HOST memory or a device window: each active element reads its bytes,
and the others are kept. -/
def Sys2Proof.Said.VLoads (s : State) (i : Instr) (l : List Src) (d : BitVec 4) (k : BitVec 3) (w : Nat) (addr : Nat → Word) : Prop :=
  ∀ xs u, VReaches s (srcsV l d k) .read (w / 8) ((actsOf s k w).map fun j => (j, addr j)) xs u →
    ∃ v, exec i s = .next (u.setMe (u.me.wrV d v).advance) ∧ (∀ x ∈ xs, elOf v w x.j = s.peek x.acc.phys (w / 8)) ∧
      ∀ j, j < 1024 / w → act s k w j = false → elOf v w j = el s d w j

/-- A vector store that passes its checks, with no element in HOST memory or a device window: the active elements of vd are stored
in ascending order, so that of two at one place the later remains. -/
def Sys2Proof.Said.VStores (s : State) (i : Instr) (l : List Src) (d : BitVec 4) (k : BitVec 3) (w : Nat) (addr : Nat → Word) : Prop :=
  ∀ xs u, VReaches s (l ++ [.k k, .v d]) .write (w / 8) ((actsOf s k w).map fun j => (j, addr j)) xs u →
    exec i s = .next (stores (xs.foldl (fun t x => (t.poke x.acc.phys (w / 8) (el s d w x.j)).versioned u.me.acct x.acc.phys) u))

/-- R209, R211, R212: the vector loads and stores at their addresses. A contiguous form whose base is no multiple of 128 raises 0x05
when an element is active; `vgatherb` raises 0x19 with the lowest active element whose index is not below BOUND.

R210: `vldsync` at an aligned block of NEAR or LM memory waits while the word of an active element is EMPTY, with one place among the
waiters for all its words (R65); then it reads each active element, 0 with V where its word is VOID. -/
def Obligations.VectorMemory : Prop :=
  (∀ (s : State) (d i : BitVec 4) (a b : BitVec 5) (k : BitVec 3) (e : BitVec 2) (w : Nat), e ≠ 3 → w = 8 * 2 ^ e.toNat →
     (actsOf s k w = [] ∨ (gv s a).toNat % 128 = 0 →
       VLoads s (.vld d a k e) [.g a] d k w (fun j => gv s a + word (j * (w / 8))) ∧
       VStores s (.vst d a k e) [.g a] d k w (fun j => gv s a + word (j * (w / 8)))) ∧
     (actsOf s k w ≠ [] → (gv s a).toNat % 128 ≠ 0 →
       (s.me.ready (srcsV [.g a] d k) → exec (.vld d a k e) s = .next (s.raise 0x05 (gv s a)) ∧
         exec (.vldsync d a k e) s = .next (s.raise 0x05 (gv s a))) ∧
       (s.me.ready [.g a, .k k, .v d] → exec (.vst d a k e) s = .next (s.raise 0x05 (gv s a)))) ∧
     VLoads s (.vlds d a b k e) [.g a, .g b] d k w (fun j => gv s a + word j * gv s b) ∧
     VStores s (.vsts d a b k e) [.g a, .g b] d k w (fun j => gv s a + word j * gv s b) ∧
     VLoads s (.vgather d a i k) [.g a, .v i] d k 32 (fun j => gv s a + word (4 * el s i 32 j)) ∧
     VStores s (.vscatter d a i k) [.g a, .v i] d k 32 (fun j => gv s a + word (4 * el s i 32 j)) ∧
     ((∀ j ∈ actsOf s k 32, el s i 32 j < fld (s.me.csrv 0x00D) 0 32) →
       VLoads s (.vgatherb d a i k) [.g a, .v i] d k 32 (fun j => gv s a + word (4 * el s i 32 j))) ∧
     (∀ j, (actsOf s k 32).find? (fun j => decide (fld (s.me.csrv 0x00D) 0 32 ≤ el s i 32 j)) = some j →
       s.me.ready (srcsV [.g a, .v i] d k) → exec (.vgatherb d a i k) s = .next (s.raise 0x19 (word j)))) ∧
  (∀ (s : State) (d : BitVec 4) (a : BitVec 5) (k : BitVec 3) (e : BitVec 2) (w : Nat) (l : List Src) (xs : List ElemAt) (u : State),
     e ≠ 3 → w = 8 * 2 ^ e.toNat → l = srcsV [.g a] d k → (gv s a).toNat % 128 = 0 →
     VReaches s l .read (w / 8) ((actsOf s k w).map fun j => (j, gv s a + word (j * (w / 8)))) xs u →
     (∀ x ∈ xs, hasPres x.acc.phys = true) →
     ((∃ x ∈ xs, s.presAt x.acc.phys = .empty) → exec (.vldsync d a k e) s =
       .next (s.parkMe (.words (xs.map (fun x => x.acc.phys / 8 * 8)).eraseDups))) ∧
     ((∀ x ∈ xs, s.presAt x.acc.phys ≠ .empty ∧ u.queuedBefore u.myPlace (x.acc.phys / 8 * 8) = false) → ∃ v,
       exec (.vldsync d a k e) s =
         .next (u.setMe ((if ∃ x ∈ xs, s.presAt x.acc.phys = .void then u.me.setV else u.me).wrV d v).advance) ∧
       (∀ x ∈ xs, elOf v w x.j = if s.presAt x.acc.phys = .void then 0 else s.peek x.acc.phys (w / 8)) ∧
       ∀ j, j < 1024 / w → act s k w j = false → elOf v w j = el s d w j))

/-- What a vector instruction without memory writes: majors 0x18–0x1C and 0x1F. -/
def Sys2Proof.Said.vectorForm : Instr → Option (List Src)
  | .vadd d _ _ _ _ | .vsub d _ _ _ _ | .vmul d _ _ _ _ | .vmulh d _ _ _ _ | .vand d _ _ _ _ | .vor d _ _ _ _
  | .vxor d _ _ _ _ | .vsll d _ _ _ _ | .vsrl d _ _ _ _ | .vsra d _ _ _ _ | .vmin d _ _ _ _ | .vmax d _ _ _ _
  | .vminu d _ _ _ _ | .vmaxu d _ _ _ _ | .vadds d _ _ _ _ | .vsubs d _ _ _ _ | .vfadd d _ _ _ _ | .vfsub d _ _ _ _
  | .vfmul d _ _ _ _ | .vfdiv d _ _ _ _ | .vfmin d _ _ _ _ | .vfmax d _ _ _ _ | .vfma d _ _ _ _ | .vfms d _ _ _ _
  | .vfnma d _ _ _ _ | .vperm d _ _ _ _ | .vcvt d _ _ _ _ => some [.v d]
  | .vfsqrt d _ _ _ | .vfexp2 d _ _ _ | .vfrcp d _ _ _ | .vfabs d _ _ _ | .vfneg d _ _ _ | .vsel d _ _ _ | .vredadd d _ _ _
  | .vredmax d _ _ _ | .vredmin d _ _ _ | .vtopk d _ _ _ | .vscan d _ _ _ => some [.v d]
  | .vbcast d _ _ | .vins d _ _ | .vfredadd d _ _ | .vfredmax d _ _ => some [.v d]
  | .vcmpEq d _ _ _ _ | .vcmpNe d _ _ _ _ | .vcmpLt d _ _ _ _ | .vcmpGe d _ _ _ _ | .vcmpLtu d _ _ _ _ | .vcmpGeu d _ _ _ _
  | .vfcmpEq d _ _ _ _ | .vfcmpLt d _ _ _ _ | .vfcmpLe d _ _ _ _ | .vfcmpUn d _ _ _ _ | .kand d _ _ _ | .kor d _ _ _
  | .kxor d _ _ _ | .knot d _ _ => some [.k d]
  | .vext g _ _ | .kpopc g _ _ | .kfirst g _ _ => some [.g g]
  | _ => none

/-- R124, R154: a scalar instruction with an EMPTY source parks on the first of them, in the order in which the form lists them,
and nothing else changes: no flag, no register, no memory.

The frame of the scalar instructions of majors 0x01–0x0F and 0x21: one that gives a next state either ends early, with none
of its effect, or changes no register but its destination, no CSR but V of FLAGS and the sticky flags of FPCSR, no memory, no
other slot and no other part of the package; it leaves the slot READY.

The frame of the vector instructions without memory: one that gives a next state ends early, with none of its effect, or
changes no register but its destination, no CSR but V of FLAGS and the sticky flags of FPCSR, no memory, no other slot and no
other part of the package. -/
def Obligations.RegisterFrame : Prop :=
  (∀ (s : State) (i : Instr) (l d : List Src) (r : Src), scalarForm i = some (l, d) →
     l.find? (fun x => decide (s.me.presOf x = .empty)) = some r →
     ∃ t, exec i s = .next t ∧ t.me.state = .parked ∧ t.me.wait = .reg r ∧ t.me.pc = s.me.pc ∧
       s.sameMemory t ∧ s.sameOthers t ∧ { t with slots := s.slots, seq := s.seq } = s ∧
       (∀ q, t.me.gp q = s.me.gp q) ∧ (∀ q, t.me.vp q = s.me.vp q) ∧ (∀ q, t.me.kp q = s.me.kp q) ∧
       (∀ n, t.me.csrv n = s.me.csrv n)) ∧
  (∀ (s t : State) (i : Instr) (l d : List Src), scalarForm i = some (l, d) → exec i s = .next t →
     s.endsEarly t ∨ (s.keepsAllBut t d ∧ t.me.state = .ready)) ∧
  (∀ (s t : State) (i : Instr) (d : List Src), vectorForm i = some d → exec i s = .next t →
     s.endsEarly t ∨ (s.keepsAllBut t d ∧ t.me.state = .ready))

/-- A vector memory instruction's sources, element width, kind of access, address of element j, and destination. -/
def Sys2Proof.Said.vectorMemForm (s : State) : Instr → Option (List Src × Nat × Access × BitVec 3 × (Nat → Word) × List Src)
  | .vld d a k e | .vldsync d a k e =>
    some (srcsV [.g a] d k, ewBits e, .read, k, fun j => gv s a + word (j * (ewBits e / 8)), [.v d])
  | .vst d a k e => some ([.g a, .k k, .v d], ewBits e, .write, k, fun j => gv s a + word (j * (ewBits e / 8)), [])
  | .vlds d a b k e => some (srcsV [.g a, .g b] d k, ewBits e, .read, k, fun j => gv s a + word j * gv s b, [.v d])
  | .vsts d a b k e => some ([.g a, .g b, .k k, .v d], ewBits e, .write, k, fun j => gv s a + word j * gv s b, [])
  | .vgather d a i k | .vgatherb d a i k =>
    some (srcsV [.g a, .v i] d k, 32, .read, k, fun j => gv s a + word (4 * el s i 32 j), [.v d])
  | .vscatter d a i k => some ([.g a, .v i, .k k, .v d], 32, .write, k, fun j => gv s a + word (4 * el s i 32 j), [])
  | _ => none

/-- The other slots are as before, but for the reply of a thread that waits for a phase: an update of a completion word, or a word that
becomes VOID, may end its wait (R23, R191). -/
def Sys2Proof.Said.othersButWaits (s t : State) : Prop :=
  ∀ core slot, core * 16 + slot ≠ s.curCore * 16 + s.curSlot → t.slotAt core slot = s.slotAt core slot ∨
    ((∃ p b, (s.slotAt core slot).wait = .phase p b) ∧ (t.slotAt core slot = { s.slotAt core slot with reply := .flipped } ∨ t.slotAt core slot = { s.slotAt core slot with reply := .voided }))

/-- The frame of the scalar memory instructions: one that gives a next state ends early, with none of its effect, or changes no
register but its destination; no byte but those that it stores, at the physical address that its access reaches; no presence
but, where it is a presence operation, that word's; of the other slots nothing but the end of a wait for the phase of the word that an
`arrive` or `expect` updates or a `stv` makes VOID; and of the rest of the package only what serves the access.

The frame of the vector memory instructions: one that gives a next state ends early, with none of its effect, or changes no
register but its destination, no presence, and no byte outside the elements that it stores, each at the physical address that
its access reaches; a load changes no byte. -/
def Obligations.MemoryFrame : Prop :=
  (∀ (s t : State) (i : Instr) (f : MemForm), memForm s i = some f → exec i s = .next t →
     s.endsEarly t ∨ (keepsRegs s t f.dst ∧ othersButWaits s t ∧
       ((∀ a, i ≠ .arrive a) → (∀ a b, i ≠ .expect a b) → (∀ d a o c, i ≠ .stv d a o c) → s.sameOthers t) ∧
       (∀ p phys u, Reaches s f.src f.req f.va p phys u →
         (∀ a, a < phys ∨ phys + f.bytes ≤ a → t.byteAt a = s.byteAt a) ∧
         (∀ a, f.pres = false ∨ a / 8 ≠ phys / 8 → t.presAt a = s.presAt a) ∧
         (p.tgt = 5 ∨ p.tgt = 6 → t.mem = s.mem)) ∧
       { t with slots := s.slots, mem := s.mem, pres := s.pres, tlb := s.tlb, touch := s.touch, filled := s.filled, lmDirty := s.lmDirty,
                badHash := s.badHash, versions := s.versions, farKeys := s.farKeys, recoloured := s.recoloured, drawn := s.drawn,
                out := s.out, evc := s.evc, links := s.links } = s)) ∧
  (∀ (s t : State) (i : Instr) (l : List Src) (w : Nat) (acc : Access) (k : BitVec 3) (addr : Nat → Word) (d : List Src),
     vectorMemForm s i = some (l, w, acc, k, addr, d) → exec i s = .next t →
     s.endsEarly t ∨ (keepsRegs s t d ∧ s.sameOthers t ∧ (∀ a, t.presAt a = s.presAt a) ∧
       (∀ xs u, (s.seen l).accessAll acc (w / 8) ((actsOf s k w).map fun j => (j, addr j)) = .ok (xs, u) →
         ∀ a, (acc = .read ∨ ∀ x ∈ xs, a < x.acc.phys ∨ x.acc.phys + w / 8 ≤ a) → t.byteAt a = s.byteAt a) ∧
       { t with slots := s.slots, mem := s.mem, tlb := s.tlb, touch := s.touch, filled := s.filled, lmDirty := s.lmDirty,
                badHash := s.badHash, versions := s.versions, farKeys := s.farKeys, recoloured := s.recoloured, drawn := s.drawn,
                out := s.out, evc := s.evc, links := s.links } = s))

/-! ### The frame engine (R261–R281) -/

/-- The instruction is issued, and nothing has held it yet. -/
abbrev Sys2Proof.Said.FirstIssue (s : State) : Prop := s.me.resuming = false

/-- A frame command is issued, and every command received before it on its context has been performed (R16). -/
def Sys2Proof.Said.FrameTurn (s : State) : Prop := FirstIssue s ∧ s.frBefore s.who s.seq = false

/-- A frame command is issued, and no frame engine holds any. -/
def Sys2Proof.Said.FrameAlone (s : State) : Prop := FirstIssue s ∧ (∀ e ∈ s.slots, e.2.frQueued = false) ∧ s.unwinds = []

/-- The executing thread's context: its header and its records 0 to FMAX lie at `c` and on, with their translations held; the header is
`h`, and is good (R262). -/
def Sys2Proof.Said.Context (s : State) (h : CtxHead) (c : Nat) : Prop :=
  Calm s ∧ s.who.ftb ≠ 0 ∧ Held s s.who .die s.who.ftb c ∧ HeldWords s s.who s.frUnit s.who.ftb (16 * (h.fmax + 1)) c ∧ h = .ofNat (s.peek c 128) ∧ h.major = 1 ∧
    h.ctx = fld s.who.ctxid 0 20 ∧ h.res = 0

/-- Record `i` of the context at `c` (R263). -/
def Sys2Proof.Said.frameAt (s : State) (c i : Nat) : Frame := .ofNat (s.peek (c + 128 * i) 128)

/-- Record `i` is one of the context's, and its frame is live. -/
def Sys2Proof.Said.LiveAt (s : State) (h : CtxHead) (c : Nat) (i : Word) : Prop :=
  i ≠ 0 ∧ i.toNat ≤ h.fmax ∧ (frameAt s c i.toNat).depth ≠ 0

/-- The thread goes on at pc + 4 with FP and FD as given, and STAT of its context holds them, FULL. -/
def Sys2Proof.Said.frameGoes (s t : State) (fp fd : Word) : Prop :=
  t.me.pc = s.me.pc + 4 ∧ t.me.state = .ready ∧ t.me.status = s.me.status ∧ t.me.fp = fp ∧ t.me.fd = fd ∧
    t.erp .fr (s.myCtx .fr).1 (s.myCtx .fr).2 0 = (word (fld fp 0 16 + fld fd 0 4 * 65536), .full)

/-- Memory is as before outside some ranges. -/
def Sys2Proof.Said.sameBut (s t : State) (l : List (Nat × Nat)) : Prop :=
  ∀ a, (∀ e ∈ l, a < e.1 ∨ e.1 + e.2 ≤ a) → t.byteAt a = s.byteAt a ∧ t.presAt a = s.presAt a

/-- A push block is read: its eight words in one 64-byte access, every field legal, its block table in NEAR memory; then the context. -/
def Sys2Proof.Said.PushBlock (s : State) (addr : Word) (v : Nat) (h : CtxHead) (u : State) : Prop :=
  ∃ l t r, s.engBlock s.who s.frUnit addr 8 = .ok (l, t) ∧ v = wordsNat l ∧ pushLow v = none ∧
    t.btabNear s.who s.frUnit (word (nf v 64 64)) = .ok r ∧ pushHigh v = none ∧ r.head s.who s.frUnit = .ok (h, u)

/-- The record of a frame that a push makes (R264, R265): what its block asks for, and its parent, depth, base and scope. -/
def Sys2Proof.Said.newFrame (v parent depth base : Nat) (scope : List (Nat × Nat)) : Frame :=
  { parent := parent, depth := depth, sealed := false, spec := decide (nf v 33 1 = 1), inherit := decide (nf v 32 1 = 1),
    pinned := false, ref := 1, nscope := scope.length, nargs := nf v 40 8, base := base, length := 0, capacity := nf v 0 32,
    cut := noCut, btab := nf v 64 64, e := nf v 128 8, bcount := 0, scope := padScope scope }

/-- The parent's record after a pop that keeps the last `k` positions [lo, lo + k) of `c`, in `n` blocks (R274). -/
def Sys2Proof.Said.poppedInto (p c : Frame) (n k lo : Nat) : Frame :=
  { p with
    bcount := p.bcount + n, ref := p.ref - 1, sealed := if p.ref - 1 = 1 then p.pinned else p.sealed,
    length := if p.base + p.length = c.base + c.capacity then c.base + c.length - p.base else p.length,
    nscope := if k = 0 then p.nscope else p.nscope + 1,
    scope := if k = 0 then p.scope else p.scope.set p.nscope (lo, k) }

/-- R271–R275: `fr.push`, `fr.pop`, `fr.enter` and `fr.leave`. A push at depth 0 makes a root at NEXTPOS; one below FSL makes a
child at the end of its parent, whose length, reference count and seal rise. A pop keeps the last gA positions in the parent and
frees the rest; an enter takes a child of FP; a leave drops one reference, and the frame that it returns to must be live (R268). FP and
FD follow, STAT holds them, FULL. A miss parks the thread with its command held and STAT EMPTY (R21, R270), and a command that comes while
an earlier one on the context is not performed waits for its turn (R16).

In a context whose words have their translations held each of the four completes: stated for a root pushed onto a new record, the pop of
a frame without blocks, an enter, and a leave of a frame that other stacks hold, or of a root without blocks. -/
def Obligations.FrameStack : Prop :=
  (∀ (s : State) (a b : BitVec 5) (h : CtxHead) (c : Nat), FrameAlone s → s.me.ready [.g a] → Context s h c →
    (∀ v x y, Held s s.who s.frUnit (gv s a) x → (gv s a).toNat % 64 = 0 → v = s.peek x 64 → pushLow v = none → pushHigh v = none →
      Held s s.who s.frUnit (word (nf v 64 64)) y → isNear y = true → s.me.fd = 0 → h.nextpos + nf v 0 32 < 2 ^ 32 → nf v 40 8 = 0 →
      h.ffree = 0 → h.hiwater < h.fmax → ∃ t, exec (.frPush a b) s = .next t ∧ frameGoes s t (word (h.hiwater + 1)) 1 ∧
        (b ≠ 0 → t.me.gp b = (word (h.hiwater + 1), .full)) ∧
        t.peek (c + 128 * (h.hiwater + 1)) 128 = (newFrame v 0 1 h.nextpos []).toNat ∧
        t.peek c 128 = { h with nextpos := h.nextpos + nf v 0 32, hiwater := h.hiwater + 1 }.toNat ∧
        sameBut s t [(c, 128), (c + 128 * (h.hiwater + 1), 128)]) ∧
    (∀ f p : Frame, f = frameAt s c s.me.fp.toNat → p = frameAt s c f.parent → LiveAt s h c s.me.fp → LiveAt s h c (word f.parent) →
      word f.parent ≠ s.me.fp → 2 ≤ s.me.fd.toNat → f.ref = 1 → f.bcount = 0 → gv s a = 0 → p.bcount ≤ min (2 ^ p.e) 16383 →
      ∃ t, exec (.frPop a) s = .next t ∧ frameGoes s t (word f.parent) (s.me.fd - 1) ∧
        t.peek (c + 128 * s.me.fp.toNat) 128 = { f with depth := 0, parent := h.ffree }.toNat ∧
        t.peek (c + 128 * f.parent) 128 = (poppedInto p f 0 0 0).toNat ∧
        t.peek c 128 = { h with ffree := s.me.fp.toNat }.toNat ∧
        sameBut s t [(c, 128), (c + 128 * s.me.fp.toNat, 128), (c + 128 * f.parent, 128)]) ∧
    (∀ f : Frame, f = frameAt s c (gv s a).toNat → LiveAt s h c (gv s a) → s.me.fd.toNat < s.me.fsl.toNat →
      s.me.fd = 0 ∨ word f.parent = s.me.fp → f.ref < 255 → ∃ t, exec (.frEnter a) s = .next t ∧
        frameGoes s t (gv s a) (s.me.fd + 1) ∧ t.peek (c + 128 * (gv s a).toNat) 128 = { f with ref := f.ref + 1, sealed := true }.toNat ∧
        sameBut s t [(c + 128 * (gv s a).toNat, 128)]) ∧
    (∀ f : Frame, f = frameAt s c s.me.fp.toNat → LiveAt s h c s.me.fp → s.me.fd = 1 →
      (1 < f.ref → ∃ t, exec .frLeave s = .next t ∧ frameGoes s t 0 0 ∧
        t.peek (c + 128 * s.me.fp.toNat) 128 = { f with ref := f.ref - 1 }.toNat ∧ sameBut s t [(c + 128 * s.me.fp.toNat, 128)]) ∧
      (f.ref ≤ 1 → f.bcount = 0 → f.parent = 0 → ∃ t, exec .frLeave s = .next t ∧ frameGoes s t 0 0 ∧
        t.peek (c + 128 * s.me.fp.toNat) 128 = { f with depth := 0, parent := h.ffree }.toNat ∧
        t.peek c 128 = { h with ffree := s.me.fp.toNat }.toNat ∧ sameBut s t [(c, 128), (c + 128 * s.me.fp.toNat, 128)]))) ∧
  (∀ s : State, FirstIssue s → s.frBefore s.who s.seq = true → exec .frLeave s = .next (s.frPark [0] .turn)) ∧
  (∀ (s : State) (m : Miss), FrameTurn s → s.head s.who s.frUnit = .error (.miss m) → m.stage < 16 → m.stage ≠ 3 → ∃ t, exec .frLeave s = .next t ∧
    t.me.state = .parked ∧ t.me.wait = .frame [0] .miss ∧ t.me.miss = some m ∧ t.me.pc = s.me.pc ∧
    t.out = s.out ++ [shown s (coreSource s.curCore) (.miss (pagerOf s.curCore) (some s.curSlot) m)] ∧
    (t.erp .fr (s.myCtx .fr).1 (s.myCtx .fr).2 0).2 = .empty ∧ s.sameMemory t ∧ s.sameOthers t) ∧
  ∀ (s : State) (a b : BitVec 5) (sl : Slot), FrameTurn s → s.me.ready [.g a] → sl = s.me.seen [.g a] →
    (∀ v h u, PushBlock s (gv s a) v h u →
      (s.me.fd = 0 → h.nextpos + nf v 0 32 < 2 ^ 32 → nf v 40 8 = 0 → ∀ i h1 u1 u2 u3,
        u.takeRecord s.who s.frUnit h = .ok (i, h1, u1) → u1.putFrame s.who s.frUnit i (newFrame v 0 1 h.nextpos []) = .ok u2 →
        u2.putHead s.who s.frUnit { h1 with nextpos := h1.nextpos + nf v 0 32 } = .ok u3 →
        exec (.frPush a b) s = .next (u3.frDone ((sl.setFrame (word i) 1).wrG b (word i)))) ∧
      (s.me.fd ≠ 0 → ∀ p u1, u.live s.who s.frUnit h s.me.fp = .ok (p, u1) →
        (s.me.fsl.toNat ≤ s.me.fd.toNat ∨ 15 ≤ p.depth → exec (.frPush a b) s = .next (s.raise 0x30 s.me.fd)) ∧
        (s.me.fd.toNat < s.me.fsl.toNat → p.depth < 15 → 255 ≤ p.ref → exec (.frPush a b) s = .next (s.raise 0x34 s.me.fp)) ∧
        (s.me.fd.toNat < s.me.fsl.toNat → p.depth < 15 → p.ref < 255 → p.length + nf v 0 32 ≤ p.capacity →
          (∀ e ∈ pushSpans v, spanSeen p e.1 e.2 = true) → nf v 32 1 = 0 → (pushSpans v).length ≤ 16 → ∀ i h1 u2 u3 u4 u5,
          u1.takeRecord s.who s.frUnit h = .ok (i, h1, u2) →
          u2.putFrame s.who s.frUnit i (newFrame v (fld s.me.fp 0 16) (p.depth + 1) (p.base + p.length) (pushSpans v)) = .ok u3 →
          u3.putFrame s.who s.frUnit s.me.fp.toNat { p with length := p.length + nf v 0 32, ref := p.ref + 1, sealed := true } = .ok u4 →
          u4.putHead s.who s.frUnit h1 = .ok u5 →
          exec (.frPush a b) s = .next (u5.frDone ((sl.setFrame (word i) (s.me.fd + 1)).wrG b (word i)))))) ∧
    (∀ h u, s.head s.who s.frUnit = .ok (h, u) →
      (s.me.fd.toNat < 2 → exec (.frPop a) s = .next (s.raise 0x31 s.me.fd)) ∧
      (2 ≤ s.me.fd.toNat → ∀ c p u1 u2, u.live s.who s.frUnit h s.me.fp = .ok (c, u1) →
        (c.ref ≠ 1 → exec (.frPop a) s = .next (s.raise 0x35 s.me.fp)) ∧
        (c.ref = 1 → u1.live s.who s.frUnit h (word c.parent) = .ok (p, u2) → ∀ k n, k = (gv s a).toNat → n = min c.length c.cut →
          (n < k → exec (.frPop a) s = .next (s.raise 0x36 (gv s a))) ∧
          (k ≤ n → k = 0 ∨ p.nscope < 16 → ∀ l keep drop h1 h2 u3 u4 u5 u6 u7 u8 u9,
            u2.blocks s.who s.frUnit c 0 c.bcount = .ok (l, u3) →
            u3.splitBlocks s.who s.frUnit h (c.base + n - k) (c.base + n) l = .ok (keep, drop, u4) →
            p.bcount + keep.length ≤ min (2 ^ p.e) 16383 → u4.putTable s.who s.frUnit p p.bcount keep = .ok u5 →
            u5.freeBlocks s.who s.frUnit h drop = .ok (h1, u6) → u6.freeRecord s.who s.frUnit h1 s.me.fp.toNat c = .ok (h2, u7) →
            u7.putFrame s.who s.frUnit c.parent (poppedInto p c keep.length k (c.base + n - k)) = .ok u8 →
            u8.putHead s.who s.frUnit h2 = .ok u9 →
            exec (.frPop a) s = .next (u9.frDone (sl.setFrame (word c.parent) (s.me.fd - 1))))))) ∧
    (∀ h u, s.head s.who s.frUnit = .ok (h, u) →
      (s.me.fsl.toNat ≤ s.me.fd.toNat → exec (.frEnter a) s = .next (s.raise 0x30 s.me.fd)) ∧
      (s.me.fd.toNat < s.me.fsl.toNat → ∀ f u1, u.live s.who s.frUnit h (gv s a) = .ok (f, u1) →
        (s.me.fd ≠ 0 → word f.parent ≠ s.me.fp → exec (.frEnter a) s = .next (s.raise 0x35 (gv s a))) ∧
        (s.me.fd = 0 ∨ word f.parent = s.me.fp → 255 ≤ f.ref → exec (.frEnter a) s = .next (s.raise 0x34 (gv s a))) ∧
        (s.me.fd = 0 ∨ word f.parent = s.me.fp → f.ref < 255 → ∀ u2,
          u1.putFrame s.who s.frUnit (gv s a).toNat { f with ref := f.ref + 1, sealed := true } = .ok u2 →
          exec (.frEnter a) s = .next (u2.frDone (sl.setFrame (gv s a) (s.me.fd + 1)))))) ∧
    (∀ h u, s.head s.who s.frUnit = .ok (h, u) →
      (s.me.fd = 0 → exec .frLeave s = .next (s.raise 0x31 0)) ∧
      (s.me.fd ≠ 0 → ∀ f u1, u.live s.who s.frUnit h s.me.fp = .ok (f, u1) →
        (s.me.fd = 1 ∨ f.parent = 0 → ∀ h1 u2 u3, u1.dropRef s.who s.frUnit h s.me.fp.toNat (h.fmax + 1) = .ok (h1, u2) →
          u2.putHead s.who s.frUnit h1 = .ok u3 →
          exec .frLeave s = .next (u3.frDone (s.me.setFrame (if s.me.fd = 1 then 0 else word f.parent) (s.me.fd - 1)))) ∧
        (s.me.fd ≠ 1 → f.parent ≠ 0 → (∀ e, u1.live s.who s.frUnit h (word f.parent) = .error (.trap 0x35 e) →
            exec .frLeave s = .next (s.raise 0x35 e)) ∧
          ∀ p h1 u2 u3 u4 u5, u1.live s.who s.frUnit h (word f.parent) = .ok (p, u2) →
          u2.dropRef s.who s.frUnit h s.me.fp.toNat (h.fmax + 1) = .ok (h1, u3) → u3.putHead s.who s.frUnit h1 = .ok u4 →
          u4.unseal s.who s.frUnit f.parent = .ok u5 →
          exec .frLeave s = .next (u5.frDone (s.me.setFrame (word f.parent) (s.me.fd - 1))))))

/-- R271, R276–R279: `fr.app` appends gA positions to the frame in FP, in its last block's room and in new blocks, and
answers the first of them (stated where it needs only new blocks or only the last one's room); a sealed frame raises 0x32, a
full one 0x37. `fr.seal` pins, `fr.cut` sets the cut of a speculative
frame, `fr.rd` reads one field and `fr.scope` the scope list. A frame operand of 0 is FP.

In a context whose words have their translations held each of the five completes: `fr.app` stated for the first block of a frame. -/
def Obligations.FrameContents : Prop :=
  (∀ (s : State) (a b r : BitVec 5) (v : BitVec 4) (h : CtxHead) (c : Nat) (i : Word) (f : Frame), FrameAlone s → s.me.ready [.g a] →
    Context s h c → i = (if gv s a = 0 then s.me.fp else gv s a) → f = frameAt s c i.toNat → LiveAt s h c i →
    (∃ t, exec (.frRd a b r) s = .next t ∧ frameGoes s t s.me.fp s.me.fd ∧
      (b ≠ 0 → t.me.gp b = (frameField f h.nextpos r.toNat, .full)) ∧ s.sameMemory t) ∧
    (∃ t, exec (.frScope a v) s = .next t ∧ frameGoes s t s.me.fp s.me.fd ∧ s.sameMemory t ∧ (t.me.vp v).2 = .full ∧
      ∀ j, j < 16 → elOf (t.me.vp v).1 32 (2 * j) = (if j < f.nscope then (f.scope.getD j (0, 0)).1 % 2 ^ 32 else 0) ∧
        elOf (t.me.vp v).1 32 (2 * j + 1) = (if j < f.nscope then (f.scope.getD j (0, 0)).2 % 2 ^ 32 else 0)) ∧
    (∃ t, exec (.frSeal a) s = .next t ∧ frameGoes s t s.me.fp s.me.fd ∧
      t.peek (c + 128 * i.toNat) 128 = { f with pinned := true, sealed := true }.toNat ∧ sameBut s t [(c + 128 * i.toNat, 128)]) ∧
    (s.me.ready [.g a, .g b] → f.spec = true → (gv s b).toNat ≤ f.length → f.cut = noCut → ∃ t, exec (.frCut a b) s = .next t ∧
      frameGoes s t s.me.fp s.me.fd ∧
      t.peek (c + 128 * i.toNat) 128 = { f with cut := (gv s b).toNat, pinned := true, sealed := true }.toNat ∧
      sameBut s t [(c + 128 * i.toNat, 128)])) ∧
  (∀ (s : State) (a b : BitVec 5) (h : CtxHead) (c n x y : Nat) (f : Frame), FrameAlone s → s.me.ready [.g a] → Context s h c →
    f = frameAt s c s.me.fp.toNat → LiveAt s h c s.me.fp → s.me.fd ≠ 0 → f.sealed = false → n = (gv s a).toNat → 1 ≤ n → n ≤ 64 →
    f.length + n ≤ f.capacity → f.base + f.length < 2 ^ 32 → f.bcount = 0 → h.bfree = 0xFFFFFFFF → h.bhi < h.plen →
    HeldWords s s.who s.frUnit (blockAddr h h.bhi) 8 x → Held s s.who s.frUnit (word f.btab) y →
    apart [(c, 128 * (h.fmax + 1))] [(x, 64), (y, 4)] = true → apart [(x, 64)] [(y, 4)] = true →
    ∃ t, exec (.frApp a b) s = .next t ∧ frameGoes s t s.me.fp s.me.fd ∧
      (b ≠ 0 → t.me.gp b = (word (f.base + f.length), .full)) ∧
      t.peek (c + 128 * s.me.fp.toNat) 128 = { f with length := f.length + n, bcount := 1 }.toNat ∧
      t.peek c 128 = { h with bhi := h.bhi + 1 }.toNat ∧ t.peek y 4 = h.bhi ∧
      t.peek x 8 = h.ctx + s.me.fp.toNat % 2 ^ 16 * 2 ^ 32 + n * 2 ^ 48 ∧
      t.peek (x + 8) 8 = f.base + f.length + h.kvfmt * 2 ^ 32 ∧ t.peek (x + 16) 8 = h.soff ∧
      sameBut s t [(c, 128 * (h.fmax + 1)), (x, 64), (y, 4)]) ∧
  ∀ (s u : State) (a b f : BitVec 5) (v : BitVec 4) (h : CtxHead) (sl : Slot) (i : Word), FrameTurn s → s.me.ready [.g a] →
    sl = s.me.seen [.g a] → i = (if gv s a = 0 then s.me.fp else gv s a) → s.head s.who s.frUnit = .ok (h, u) →
    (s.me.fd = 0 → exec (.frApp a b) s = .next (s.raise 0x35 s.me.fp)) ∧
    (s.me.fd ≠ 0 → ∀ x u1 n, n = (gv s a).toNat → u.live s.who s.frUnit h s.me.fp = .ok (x, u1) →
      (x.sealed = true → exec (.frApp a b) s = .next (s.raise 0x32 s.me.fp)) ∧
      (x.sealed = false → x.capacity < x.length + n → exec (.frApp a b) s = .next (s.raise 0x37 (ev37 1 n))) ∧
      (x.sealed = false → x.length + n ≤ x.capacity → x.bcount = 0 ∨ n = 0 →
        x.bcount + (n + 63) / 64 ≤ min (2 ^ x.e) 16383 → ∀ h1 u2 u3 u4,
        u1.appendBlocks s.who s.frUnit x s.me.fp.toNat ((n + 63) / 64) (x.base + x.length) h n x.bcount ((n + 63) / 64) = .ok (h1, u2) →
        u2.putFrame s.who s.frUnit s.me.fp.toNat { x with length := x.length + n, bcount := x.bcount + (n + 63) / 64 } = .ok u3 →
        u3.putHead s.who s.frUnit h1 = .ok u4 →
        exec (.frApp a b) s = .next (u4.frDone (sl.wrG b (word (x.base + x.length))))) ∧
      (x.sealed = false → x.length + n ≤ x.capacity → x.bcount ≠ 0 → n ≠ 0 → x.bcount ≤ min (2 ^ x.e) 16383 →
        ∀ y p q u2 u3 u4 u5 u6 u7, u1.tableAt s.who s.frUnit x (x.bcount - 1) = .ok (y, u2) →
        u2.ctxRead s.who s.frUnit (blockAddr h y) 8 = .ok (p, u3) → u3.ctxRead s.who s.frUnit (blockAddr h y + 8) 8 = .ok (q, u4) →
        nf p 32 16 = s.me.fp.toNat → nf q 0 32 + nf p 48 16 = x.base + x.length → nf p 48 16 + n ≤ 64 →
        u4.ctxWrite s.who s.frUnit (blockAddr h y) 8 (p + n * 2 ^ 48) = .ok u5 →
        u5.putFrame s.who s.frUnit s.me.fp.toNat { x with length := x.length + n } = .ok u6 → u6.putHead s.who s.frUnit h = .ok u7 →
        exec (.frApp a b) s = .next (u7.frDone (sl.wrG b (word (x.base + x.length)))))) ∧
    (∀ x u1, u.live s.who s.frUnit h i = .ok (x, u1) →
      (∀ u2, u1.putFrame s.who s.frUnit i.toNat { x with pinned := true, sealed := true } = .ok u2 →
        exec (.frSeal a) s = .next (u2.frDone sl)) ∧
      exec (.frRd a b f) s = .next (u1.frDone (sl.wrG b (frameField x h.nextpos f.toNat))) ∧
      exec (.frScope a v) s = .next (u1.frDone (sl.wrV v (scopeVec x))) ∧
      (s.me.ready [.g a, .g b] → ∀ k t, k = gv s b → t = s.me.seen [.g a, .g b] →
        (x.spec = false → exec (.frCut a b) s = .next (s.raise 0x35 i)) ∧
        (x.spec = true → x.length < k.toNat ∨ (x.cut ≠ noCut ∧ k.toNat < x.cut) → exec (.frCut a b) s = .next (s.raise 0x36 k)) ∧
        (x.spec = true → k.toNat ≤ x.length →
          (x.cut = noCut → ∀ u2, u1.putFrame s.who s.frUnit i.toNat { x with cut := k.toNat, pinned := true, sealed := true } = .ok u2 →
            exec (.frCut a b) s = .next (u2.frDone t)) ∧
          (x.cut ≠ noCut → x.cut ≤ k.toNat → exec (.frCut a b) s = .next (u1.frDone t)))))

/-! ### The launch engine (R225–R238) -/

/-- A launch record and the supervisor block are read: each as one number, with who reads. -/
def Sys2Proof.Said.LaunchRead (s : State) (a : Word) (r k : Nat) (w : Who) (u : State) : Prop :=
  ∃ rw bw t, s.recordWords a = .ok (rw, t) ∧ w = t.who ∧
    t.ctxWords (s.me.spaceWho s.curCore s.curSlot) .data (recBlock (s.tenantRec s.me.tenant.toNat)) 16 = .ok (bw, u) ∧
    r = wordsNat rw ∧ k = wordsNat bw

/-- Whether a tenant's record governs launches: it is valid, and its supervisor block lies in no other than NEAR memory (R228, check 1). -/
def Sys2Proof.Said.governs (s : State) : Bool :=
  s.tenantOk s.me.tenant.toNat && s.blockOk (s.me.spaceWho s.curCore s.curSlot) (recBlock (s.tenantRec s.me.tenant.toNat))

/-- The state in which a launch stands last in queue `q` of tenant `t`, and the tenant's serial number is the launch's. -/
def Sys2Proof.Said.enqueued (s : State) (t q : Nat) (l : Launch) : State :=
  (s.setTenant t { s.tenantAt t with serial := l.serial }).setQueue t q
    { s.queueAt t q with launches := (s.queueAt t q).launches ++ [l] }

/-- R228–R230: `ln.launch` reads its record, checks it in order, puts the launch last in queue gB with the tenant's next serial
number, and answers it in STAT, FULL; what is stated names each check. `ln.qstat` answers the state of a queue; `ln.kill`, open to
modes S and H, ends every launch of a queue. That `ln.kill` has done its work within its step, so that its thread goes on at once, and that a
tenant whose VF is not enabled takes 0x91 are the model's choices (DEDUCED, log entry 26). A launch that takes its frame waits for the frame
commands received before on its context (R16).

Each of the three (`ln.launch`, `ln.qstat`, `ln.kill`) completes: the launch where its record, the supervisor block and the completion
word, if it names one, have their translations held and every check of R228 passes. -/
def Obligations.LaunchCommands : Prop :=
  (∀ (s : State) (a b : BitVec 5) (t q x y r k v : Nat) (region : Word), t = s.me.tenant.toNat → q = (gv s b).toNat →
    s.me.ready [.g a, .g b] → Calm s → s.me.kept = [] → governs s = true → v = s.tenantRec t → (gv s a).toNat % 128 = 0 →
    Held s s.who .data (gv s a) x → r = s.peek x 128 →
    HeldWords s (s.me.spaceWho s.curCore s.curSlot) .data (recBlock v) 16 y → k = s.peek y 128 → q ≤ 7 → recQueue v q = true →
    (s.queueAt t q).launches.length < Config.queueDepth → recordBad r = none → (bytesAt r 4 4).testBit 1 = false →
    (bytesAt r 80 8 = 0 ∨ ∃ z, bytesAt r 80 8 % 8 = 0 ∧ Held s s.who .data (word (bytesAt r 80 8)) z ∧ s.presAt z = .full ∧
      s.peek z 8 < 2 ^ 57) →
    region = (s.erp .ln (s.myCtx .ln).1 (s.myCtx .ln).2 0).1 → fld region 32 11 ≠ 0 → recBase v ≤ fld region 0 10 →
    fld region 0 10 + fld region 32 11 ≤ recBase v + recLen v →
    ∃ u n, exec (.lnLaunch a b) s = .next u ∧ n = ((s.tenantAt t).serial + 1) % 2 ^ 32 ∧ u.me = (s.me.seen [.g a, .g b]).advance ∧
      (u.queueAt t q).launches = (s.queueAt t q).launches ++ [launchOf r k q n region s.who (s.me.seen [.g a, .g b])] ∧
      (u.tenantAt t).serial = n ∧ u.erp .ln (s.myCtx .ln).1 (s.myCtx .ln).2 2 = (word (n + q * 2 ^ 32), .full) ∧ s.sameMemory u) ∧
  (∀ (s : State) (a b : BitVec 5), s.me.ready [.g a] → (gv s a).toNat < 16 → Completes s (.lnQstat a b)) ∧
  (∀ (s : State) (a : BitVec 5), s.me.mode ≠ 0 → s.me.ready [.g a] → (gv s a).toNat < 8 →
    (s.queueAt s.me.tenant.toNat (gv s a).toNat).launches = [] → Completes s (.lnKill a)) ∧
  ∀ (s : State) (a b : BitVec 5) (l : List Src) (t : Nat), l = [.g a, .g b] → t = s.me.tenant.toNat →
    (s.me.ready l → governs s = false → exec (.lnLaunch a b) s = .next (s.raise 0x91 0)) ∧
    (s.me.ready l → governs s = true → (gv s a).toNat % 128 ≠ 0 → exec (.lnLaunch a b) s = .next (s.raise 0x05 (gv s a))) ∧
    (s.me.ready l → governs s = true → (gv s a).toNat % 128 = 0 → ∀ r k w u q v, LaunchRead s (gv s a) r k w u →
      q = (gv s b).toNat → v = s.tenantRec t →
      (7 < q ∨ recQueue v q = false → exec (.lnLaunch a b) s = .next (s.raise 0x90 (gv s b))) ∧
      (q ≤ 7 → recQueue v q = true → Config.queueDepth ≤ (u.queueAt t q).launches.length →
        exec (.lnLaunch a b) s = .next (s.raise 0x90 (word (0x100 + q)))) ∧
      (q ≤ 7 → recQueue v q = true → (u.queueAt t q).launches.length < Config.queueDepth →
        (∀ o, recordBad r = some o → exec (.lnLaunch a b) s = .next (s.raise 0x02 (word o))) ∧
        (recordBad r = none → ∀ u1, (bytesAt r 80 8 = 0 ∧ u1 = u) ∨
            (bytesAt r 80 8 ≠ 0 ∧ ∃ p e, u.cwFind w .data (word (bytesAt r 80 8)) = .ok (p, e, u1)) →
          ∀ region x y, region = (u1.erp .ln (u1.myCtx .ln).1 (u1.myCtx .ln).2 0).1 → x = fld region 0 10 → y = fld region 32 11 →
          (y = 0 ∨ x < recBase v ∨ recBase v + recLen v < x + y → exec (.lnLaunch a b) s = .next (s.raise 0x91 region)) ∧
          (y ≠ 0 → recBase v ≤ x → x + y ≤ recBase v + recLen v → ∀ la u2,
            la = launchOf r k q (((u1.tenantAt t).serial + 1) % 2 ^ 32) region w (s.me.seen l) →
            (la.frame = false ∧ u2 = u1) ∨
              (la.frame = true ∧ u1.frBefore w (u1.placeFor .frTurn) = false ∧
                u1.frameLaunch w u1.frUnit (s.me.seen l) (bytesAt r 8 4) la.total = .ok u2) →
            exec (.lnLaunch a b) s = .next (((enqueued (u2.setEvsel t (bytesAt k 72 16)) t q la).setEr .ln (u1.myCtx .ln).1
              (u1.myCtx .ln).2 2 (word (la.serial + q * 2 ^ 32)) .full).setMe (s.me.seen l).advance))))) ∧
    (s.me.ready [.g a] → (16 ≤ (gv s a).toNat → exec (.lnQstat a b) s = .next (s.raise 0x02 (gv s a))) ∧
      ((gv s a).toNat < 16 → ∀ q, q = (if bit (gv s a) 3 then fld (s.erp .ln (s.myCtx .ln).1 (s.myCtx .ln).2 1).1 0 3
          else fld (gv s a) 0 3) → exec (.lnQstat a b) s = .next (s.givesG [.g a] b (s.qstat t q)))) ∧
    (s.me.mode ≠ 0 → s.me.ready [.g a] → (8 ≤ (gv s a).toNat → exec (.lnKill a) s = .next (s.raise 0x02 (gv s a))) ∧
      ((gv s a).toNat < 8 → ∀ q u, q = (gv s a).toNat →
        u = (((s.seen [.g a]).evictSet t q .discard).endLaunches t q .killed
          (((s.seen [.g a]).queueAt t q).launches.map (·.serial))).evictFinish →
        exec (.lnKill a) s = .next (if u.me.state = .free then u else u.setMe u.me.advance)))

/-! ### The attention engine (R298–R312) -/

/-- No outstanding command of the issuer's stream in a context touches, as `f` names it, a byte of some ranges (R66). -/
def Sys2Proof.Said.Apart (s : State) (k : EngKind) (c : Nat × Nat) (u : TlbUnit) (f : Cmd → List (Word × Nat)) (l : List (Word × Nat)) : Prop :=
  ∀ e ∈ s.streamOf k c.1 c.2 s.who.core s.who.slot, s.apartIn u e.who s.who (f e) l = true

/-- The thread waits until its stream in a context has fewer commands outstanding than now. -/
abbrev Sys2Proof.Said.waitsForStream (s : State) (k : EngKind) (c : Nat × Nat) : State :=
  s.parkMe (.stream k c.1 c.2 (s.streamOf k c.1 c.2 s.who.core s.who.slot).length)

/-- The headers that a list of block numbers names, as virtual ranges. -/
abbrev Sys2Proof.Said.headRanges (r : List Word) (v : VWord) (n : Nat) : List (Word × Nat) :=
  (List.range n).map (fun j => (reg r 5 + word (vlane v j * fld (reg r 6) 32 32), 64))

/-- The attention context of the issuer has space, and the snapshot keeps the limits of the registers that are used. -/
def Sys2Proof.Said.AtOpen (s : State) (used : List Nat) : Prop :=
  (∀ i ∈ used, atRegOk (s.snap .at (s.myCtx .at).1 (s.myCtx .at).2 12) i = true) ∧ s.atSpace (s.myCtx .at) = .ok ()

/-- `n` words of memory from `x` on. -/
abbrev Sys2Proof.Said.wordsAt (s : State) (x n : Nat) : List Word := (List.range n).map (fun i => word (s.peek (x + 8 * i) 8))

/-- The `n` blocks that `v` names are blocks of the geometry in `r`, and the eight words of each header lie in memory, with their
translations held, and keep the limits of R286 and R303. -/
def Sys2Proof.Said.HeadersHere (s : State) (r : List Word) (v : VWord) (n : Nat) : Prop :=
  ∀ j, j < n → vlane v j < fld (reg r 6) 0 32 ∧ ∃ x,
    HeldWords s s.who .attn (reg r 5 + word (vlane v j * fld (reg r 6) 32 32)) 8 x ∧
    headOk (wordsAt s x 8) (fld s.who.ctxid 0 20) (atFmt r) (atH r) (atD r) (fld (reg r 6) 32 32) = true

/-- R20, R299–R309: the attention commands are accepted at the end of their context's stream, with the registers as they stand:
STAT becomes EMPTY and the thread goes on. All but `at.q`, `at.tree`, `at.fold` and `at.reset` need latched queries whose rows and
width are the snapshot's, else 0x42 with EVAL 0x100. One that would read bytes that an outstanding command of its stream is still to write
waits (R66). `at.reset` ends what fills the queue, and is accepted whatever space its context has (DESIGN CHOICE, log entry 13).

Each of the eight (`at.q`, `at.kv`, `at.tree`, `at.fold`, `at.lin`, `at.merge`, `at.out`, `at.reset`) completes where its registers and
operands keep their limits, and what it reads at acceptance lies in memory with its translations held and is written by no outstanding
command of its stream; all but `at.reset` need space in the context. -/
def Obligations.AttentionCommands : Prop :=
  (∀ (s : State) (a b : BitVec 5) (v : BitVec 4) (k : BitVec 1) (c : Nat × Nat) (r : List Word), c = s.myCtx .at →
    r = s.snap .at c.1 c.2 12 →
    (AtOpen s [0, 1, 2, 3, 4] → reg r 3 ≠ 0 ∨ s.me.fd ≠ 0 → (reg r 4).toNat + atR r ≤ 2 ^ 32 → Completes s .atQ) ∧
    (s.me.ready [.g a, .v v] → 1 ≤ (gv s a).toNat → (gv s a).toNat ≤ 32 → Calm s → HeadersHere s r (s.me.vv v) (gv s a).toNat →
      Apart s .at c .attn Cmd.atWrites (headRanges r (s.me.vv v) (gv s a).toNat) →
      (AtOpen s [0, 5, 6] → s.atLatched c = some (atR r, atD r) → Completes s (.atKv a v)) ∧
      (AtOpen s [0, 5, 6, 10] → Completes s (.atFold a v))) ∧
    (s.me.ready [.g a, .g b] → AtOpen s [7] → (gv s b).toNat ≤ 64 → (reg r 7).toNat + (gv s b).toNat ≤ 2 ^ 32 → Calm s →
      Apart s .at c .attn Cmd.atWrites [(gv s a, 8 * (gv s b).toNat)] → ∀ x, HeldWords s s.who .attn (gv s a) (gv s b).toNat x →
        (∀ j, j < (gv s b).toNat → maskOk (wordsAt s x (gv s b).toNat) j = true) → Completes s (.atTree a b)) ∧
    (AtOpen s [0, 10, 11] → s.atLatched c = some (atR r, atD r) → Completes s .atLin) ∧
    (s.me.ready [.g a] → AtOpen s [0] → s.atLatched c = some (atR r, atD r) → (gv s a).toNat % 8 = 0 → Completes s (.atMerge a)) ∧
    (AtOpen s [0, if k = 0 then 8 else 9] → s.atLatched c = some (atR r, atD r) → Completes s (.atOut k)) ∧
    Completes s .atReset) ∧
  ∀ (s : State) (a b : BitVec 5) (v : BitVec 4) (k : BitVec 1) (c : Nat × Nat) (r : List Word) (n : Nat), c = s.myCtx .at →
    r = s.snap .at c.1 c.2 12 → n = s.time.toNat →
    (∀ used i, used.find? (fun i => !atRegOk r i) = some i →
      (used = [0, 1, 2, 3, 4] → exec .atQ s = .next (s.raise 0x42 (word i))) ∧
      (used = [0, 10, 11] → exec .atLin s = .next (s.raise 0x42 (word i))) ∧
      (used = [0, if k = 0 then 8 else 9] → exec (.atOut k) s = .next (s.raise 0x42 (word i)))) ∧
    (AtOpen s [0, 1, 2, 3, 4] → reg r 3 ≠ 0 ∨ s.me.fd ≠ 0 → (reg r 4).toNat + atR r ≤ 2 ^ 32 →
      exec .atQ s = .next ((s.accept .at c { Cmd.start 2 s.who 0 (if reg r 3 = 0 then s.me.fp else reg r 3) r 0 n with awaits := 1 }).setMe
        s.me.advance)) ∧
    (s.me.ready [.g a, .v v] → 1 ≤ (gv s a).toNat → (gv s a).toNat ≤ 32 →
      (¬ Apart s .at c .attn Cmd.atWrites (headRanges r (s.me.vv v) (gv s a).toNat) →
        (AtOpen s [0, 5, 6] → s.atCheck c r = .ok () → exec (.atKv a v) s = .next (waitsForStream s .at c)) ∧
        (AtOpen s [0, 5, 6, 10] → exec (.atFold a v) s = .next (waitsForStream s .at c))) ∧
      (Apart s .at c .attn Cmd.atWrites (headRanges r (s.me.vv v) (gv s a).toNat) → ∀ h u, s.readHeads s.who r (s.me.vv v) 0 (gv s a).toNat = .ok (h, u) →
        (AtOpen s [0, 5, 6] → s.atCheck c r = .ok () → exec (.atKv a v) s =
          .next ((u.accept .at c { Cmd.start 3 s.who (gv s a) 0 r 0 u.time.toNat with heads := h }).setMe
            (s.me.seen [.g a, .v v]).advance)) ∧
        (AtOpen s [0, 5, 6, 10] → exec (.atFold a v) s =
          .next ((u.accept .at c { Cmd.start 5 s.who (gv s a) 0 r 0 u.time.toNat with heads := h }).setMe
            (s.me.seen [.g a, .v v]).advance)))) ∧
    (s.me.ready [.g a, .g b] → AtOpen s [7] → (gv s b).toNat ≤ 64 → (reg r 7).toNat + (gv s b).toNat ≤ 2 ^ 32 →
      (gv s a).toNat % 8 = 0 → Apart s .at c .attn Cmd.atWrites [(gv s a, 8 * (gv s b).toNat)] → ∀ l u, s.engReadWords s.who .attn (gv s a) (gv s b).toNat = .ok (l, u) →
        (∀ j, (List.range (gv s b).toNat).find? (fun j => !maskOk l j) = some j →
          exec (.atTree a b) s = .next (s.raise 0x43 (word j))) ∧
        ((∀ j, j < (gv s b).toNat → maskOk l j = true) → exec (.atTree a b) s =
          .next ((u.accept .at c (.start 4 s.who 0 0 (r ++ l) 0 u.time.toNat)).setMe (s.me.seen [.g a, .g b]).advance))) ∧
    (AtOpen s [0, 10, 11] → s.atCheck c r = .ok () →
      exec .atLin s = .next ((s.accept .at c (.start 6 s.who 0 0 r 0 n)).setMe s.me.advance)) ∧
    (s.me.ready [.g a] → AtOpen s [0] → s.atCheck c r = .ok () →
      ((gv s a).toNat % 8 = 0 → exec (.atMerge a) s =
        .next ((s.accept .at c (.start 7 s.who (gv s a) 0 r 0 n)).setMe (s.me.seen [.g a]).advance)) ∧
      ((gv s a).toNat % 8 ≠ 0 → exec (.atMerge a) s = .next (s.raise 0x05 (gv s a)))) ∧
    (AtOpen s [0, if k = 0 then 8 else 9] → s.atCheck c r = .ok () →
      exec (.atOut k) s = .next ((s.accept .at c (.start 8 s.who 0 (word k.toNat) r 0 n)).setMe s.me.advance)) ∧
    exec .atReset s = .next (((s.setCmds .at c.1 c.2 ((s.cmdsOf .at c.1 c.2).map (fun x => if x.finished then x else x.end 2 0 0))).accept
      .at c (.start 9 s.who 0 0 [] 0 n)).setMe s.me.advance) ∧
    (∀ rows d, s.atLatched c = some (rows, d) → (s.atCheck c r = .ok () ↔ rows = atR r ∧ d = atD r)) ∧
    (s.atLatched c = none → AtOpen s [0, 10, 11] → exec .atLin s = .next (s.raise 0x42 0x100))

/-! ### The matrix engine (R321–R332) -/

/-- The permutation entries of groups b to b + n − 1 in every column, each with its place in the B-slice (R315, R325). -/
def Sys2Proof.Said.permEntries (s : State) (r : List Word) (n b : Nat) : List (Nat × Nat) :=
  ((List.range (mxN r)).map (fun c => (List.range n).map (fun i =>
    (bsBase + s.curCore * 1048576 + 16384 * c + (reg r 4).toNat + 32 * (b + i),
      sortEntry (mxL r) ((List.range 32).map (s.code s.curCore r c (b + i))))))).flatten

/-- The bytes of the B-slice that hold the codes of groups b to b + n − 1 in every column. -/
abbrev Sys2Proof.Said.codeReads (r : List Word) (n b : Nat) : List Nat :=
  ((List.range (mxN r)).map (fun c => (List.range n).map (fun i => 16384 * c + (reg r 3).toNat + 4 * mxL r * (b + i)))).flatten

/-- R321–R332: `mx.begin` opens a chain at exponent gA; `mx.perm` writes the permutation entries that a stable sort of the codes
gives; `mx.step` takes up a step, or the held one, and its thread waits; `mx.end` closes every element of the chain into C;
`mx.drain` writes C as words, FULL or VOID; `mx.clear` empties the engine. STAT is FULL with the engine's state after each. A read of
codes in an invalid page of the B-slice takes 0x0A, with its offset in the B-slice (R47; the offset is the model's choice, log entry 64).

Each of the six (`mx.begin`, `mx.perm`, `mx.step`, `mx.end`, `mx.drain`, `mx.clear`) takes its effect where its registers and operands
keep their limits and no step is held or performed; for `mx.step` that is the step taken up, which its thread waits for. -/
def Obligations.MatrixCommands : Prop :=
  (∀ (s : State) (a b : BitVec 5) (k : BitVec 4) (x : MxCore) (r : List Word), x = s.mxAt s.curCore →
    r = s.snap .mx s.curCore 0 8 → x.running = none → x.held = none →
    (s.me.ready [.g a] → -320 ≤ (gv s a).toInt → (gv s a).toInt ≤ 320 → x.chain = false → Completes s (.mxBegin a)) ∧
    (s.me.ready [.g a, .g b] → mxLimits r 1 [0, 3, 4] = .ok () → 1 ≤ (gv s a).toNat → (gv s a).toNat ≤ 256 →
      mxRange r (gv s a).toNat (gv s b).toNat false = none → s.badHash = [] → Completes s (.mxPerm a b)) ∧
    (s.me.ready [.g a, .g b] → mxLimits r 1 [0, 1, 2, 3, 4, 5] = .ok () → 1 ≤ (gv s a).toNat → (gv s a).toNat ≤ 16 → x.chain = true →
      x.groups + (gv s a).toNat ≤ 65535 → mxRange r (gv s a).toNat (gv s b).toNat true = none →
      ∃ t st, exec (.mxStep a b) s = .next t ∧ (t.mxAt s.curCore).running = some st ∧ st.who = s.who ∧ st.regs = r ∧
        st.a = (gv s a).toNat ∧ st.b = (gv s b).toNat ∧ (t.mxAt s.curCore).mxdone = 0 ∧ t.me.state = .parked ∧ t.me.wait = .mxStep ∧
        t.me.pc = s.me.pc ∧ s.sameMemory t ∧ s.sameOthers t) ∧
    (mxLimits r 1 [0] = .ok () → x.chain = true → bit s.me.fpcsr 6 = false ∨ (∀ e ∈ mxElems r, x.overflows e = false) →
      Completes s .mxEnd) ∧
    (k.toNat ≤ 4 → mxLimits r (drainBytes k.toNat) [0, 6, 7] = .ok () → Calm s →
      (∀ m, m < mxM r → ∃ y, HeldWords s s.who .data (reg r 6 + word (m * (reg r 7).toNat)) ((mxN r * drainBytes k.toNat + 7) / 8) y) →
      Completes s (.mxDrain k)) ∧
    Completes s .mxClear) ∧
  ∀ (s : State) (a b : BitVec 5) (k : BitVec 4) (x : MxCore) (r : List Word), x = s.mxAt s.curCore →
    r = s.snap .mx s.curCore 0 8 →
    (x.running = none → exec .mxClear s = .next (s.mxDone { MxCore.empty with steps := x.steps } s.me)) ∧
    (s.mxTurn = .ok () →
      (s.me.ready [.g a] → x.held = none → -320 ≤ (gv s a).toInt → (gv s a).toInt ≤ 320 →
        (x.chain = true → exec (.mxBegin a) s = .next (s.raise 0x51 1)) ∧
        (x.chain = false → exec (.mxBegin a) s = .next (s.mxDone
          { x with chain := true, ec := (gv s a).toInt, groups := 0, total := [], satf := [], inval := [] }
          (s.me.seen [.g a])))) ∧
      (s.me.ready [.g a, .g b] → mxLimits r 1 [0, 3, 4] = .ok () → 1 ≤ (gv s a).toNat → (gv s a).toNat ≤ 256 →
        (∀ o, mxRange r (gv s a).toNat (gv s b).toNat false = some o → exec (.mxPerm a b) s = .next (s.raise 0x53 (word o))) ∧
        (mxRange r (gv s a).toNat (gv s b).toNat false = none →
          ∀ o, (codeReads r (gv s a).toNat (gv s b).toNat).find? (s.bsBad s.curCore) = some o →
            exec (.mxPerm a b) s = .next (s.raise 0x0A (word o))) ∧
        (mxRange r (gv s a).toNat (gv s b).toNat false = none →
          (∀ o ∈ codeReads r (gv s a).toNat (gv s b).toNat, s.bsBad s.curCore o = false) → exec (.mxPerm a b) s =
          .next (((permEntries s r (gv s a).toNat (gv s b).toNat).foldl (fun u e => u.poke e.1 32 e.2) s).mxDone x
            (s.me.seen [.g a, .g b])))) ∧
      (s.me.ready [.g a, .g b] → ∀ h, x.held = some h → exec (.mxStep a b) s = .next (((s.setMx s.curCore
        { x with held := none, running := some { h with started := mxSolo h.regs, miss := none, places := [], got := [] } }).setMe
          (s.me.seen [.g a, .g b])).parkMe .mxStep)) ∧
      (s.me.ready [.g a, .g b] → x.held = none → mxLimits r 1 [0, 1, 2, 3, 4, 5] = .ok () → 1 ≤ (gv s a).toNat →
        (gv s a).toNat ≤ 16 →
        (x.chain = false → exec (.mxStep a b) s = .next (s.raise 0x51 2)) ∧
        (x.chain = true → 65535 < x.groups + (gv s a).toNat → exec (.mxStep a b) s = .next (s.raise 0x51 3)) ∧
        (x.chain = true → x.groups + (gv s a).toNat ≤ 65535 → mxRange r (gv s a).toNat (gv s b).toNat true = none →
          ∀ st : MxStep,
            st = { who := s.who, regs := r, a := (gv s a).toNat, b := (gv s b).toNat, started := mxSolo r,
                   index := tabGet 0 x.steps (mxRowKey r), miss := none, places := [], got := [] } →
            exec (.mxStep a b) s = .next (((s.setMx s.curCore
              { x with mxdone := 0, running := some st, steps := tabPut 0 x.steps (mxRowKey r) (st.index + 1) }).setMe
                (s.me.seen [.g a, .g b])).parkMe .mxStep))) ∧
      (mxLimits r 1 [0] = .ok () → x.held = none →
        (x.chain = false → exec .mxEnd s = .next (s.raise 0x51 0)) ∧
        (x.chain = true → bit s.me.fpcsr 6 = false ∨ (∀ e ∈ mxElems r, x.overflows e = false) →
          exec .mxEnd s = .next (s.mxDone
            { (mxElems r).foldl (MxCore.close s.me.fzo) x with
              chain := false, ec := 0, groups := 0, total := [], satf := [], inval := [] } s.me))) ∧
      (k.toNat ≤ 4 → mxLimits r (drainBytes k.toNat) [0, 6, 7] = .ok () → x.held = none → ∀ u t,
        s.eachRow (fun v m => v.checkWords s.who .data (reg r 6 + word (m * (reg r 7).toNat))
          ((mxN r * drainBytes k.toNat + 7) / 8)) (List.range (mxM r)) = .ok u →
        u.eachRow (fun v m => v.drainWords s.who (reg r 6 + word (m * (reg r 7).toNat)) (drainRow x r s.me.fzo k.toNat m))
          (List.range (mxM r)) = .ok t →
        exec (.mxDrain k) s = .next (t.mxDone x s.me))) ∧
    (x.running ≠ none → exec .mxClear s = .next (s.parkMe .mxRuns))

/-! ### The copy engine (R336–R348) -/

/-- The state in which the context's command id has risen. -/
def Sys2Proof.Said.nextId (s : State) (c : Nat × Nat) : State :=
  { s with cpSerial := tabPut 0 s.cpSerial (ctxKey .cp c.1 c.2) (cpNext (tabGet 0 s.cpSerial (ctxKey .cp c.1 c.2))) }

/-- The command `cp.go` accepts: it awaits the command of the context whose id is gA, if there is one. -/
def Sys2Proof.Said.cpCommand (s : State) (c : Nat × Nat) (r : List Word) (x : Word) (id : Nat) : Cmd :=
  { Cmd.start 2 s.who x 0 r id s.time.toNat with awaits := if (s.cmdsOf .cp c.1 c.2).any (·.id = x.toNat) then x.toNat else 0 }

/-- The sections of a record from offset `off` on, of the lengths in the list, up to `len` (R346): each header's two words lie in memory
with their translations held, its kind is 1 to 6, and its core is one of a region of `rlen`. -/
def Sys2Proof.Said.SectionsHere (s : State) (va : Word) (rlen len off : Nat) : List Nat → Prop
  | [] => len ≤ off
  | n :: t => off < len ∧ (∃ y, HeldWords s s.who .data (va + word off) 2 y ∧ 1 ≤ s.peek y 8 % 65536 ∧ s.peek y 8 % 65536 ≤ 6 ∧
      s.peek y 8 / 65536 % 65536 < rlen ∧ s.peek (y + 8) 8 = n) ∧ SectionsHere s va rlen len (off + 16 + n) t

/-- No outstanding copy of the issuer's stream has still to read or write a byte of a record, or to touch one with its completion word (R66). -/
def Sys2Proof.Said.Untouched (s : State) (c : Nat × Nat) (va : Word) (n : Nat) : Prop :=
  ∀ e ∈ s.streamOf .cp c.1 c.2 s.who.core s.who.slot,
    apart ((s.cpLeft c.1 e).1 ++ (s.cpLeft c.1 e).2 ++ s.spans e.who (.copy c.1) (cpWord e.regs)) (s.spans s.who (.copy c.1) [(va, n)]) = true

/-- A complete save of a launch: what is kept beside its record. -/
abbrev Sys2Proof.Said.keptOf (t q n : Nat) (v : Save) : Bool := decide (v.tenant = t ∧ v.queue = q ∧ v.serial = n ∧ v.complete = true)

/-- R338, R341, R347, R348: `cp.go` checks its registers in order, is accepted and answers its id; a full context makes it wait.
`cp.cancel` ends the commands it names and waits for them, or goes on at once. `cp.save`, in mode H, and `cp.restore`, in S and H,
are accepted; a restore's record must be complete, of a queue of the tenant, with good sections, else 0x60 with its address. A restore
waits at acceptance while a copy of its stream has still to touch the record (R66).

The model's choices: an address that is no multiple of 256 takes 0x05 (DESIGN CHOICE, log entry 31: R348 gives no code); what the spec
gives no place in a record is kept beside it by tenant, queue and serial number, and a record that nothing was kept of brings its serial
number and its number of fibres only (DESIGN CHOICE, log entry 19).

Each of the four (`cp.go`, `cp.cancel`, `cp.save`, `cp.restore`) completes where its registers and operands keep their limits and its
context has space; a cancel where it names no command, or those that it named have ended; a restore where its record's headers lie in
memory with their translations held and are good, and no copy of its stream is outstanding. -/
def Obligations.CopyCommands : Prop :=
  (∀ (s : State) (a b : BitVec 5) (c : Nat × Nat), c = s.myCtx .cp → s.me.ready [.g a] →
    (s.pending .cp c.1 c.2 < Config.cpDepth →
      ((∀ i, i < 10 → cpRegOk (s.snap .cp c.1 c.2 10) i = true) → Completes s (.cpGo a b)) ∧
      (s.me.mode = 3 → fld (gv s a) 3 5 = 0 → fld (gv s a) 15 49 = 0 → Completes s (.cpSave a)) ∧
      (s.me.mode ≠ 0 → Calm s → s.me.kept = [] → (gv s a).toNat % 256 = 0 → s.streamOf .cp c.1 c.2 s.who.core s.who.slot = [] → ∀ x t q, HeldWords s s.who .data (gv s a) 4 x →
        2 ^ 63 ≤ s.peek x 8 → s.peek (x + 8) 8 % 65536 = 1 → t = s.peek (x + 8) 8 / 2 ^ 40 % 256 →
        q = s.peek (x + 8) 8 / 2 ^ 32 % 256 → s.me.mode = 3 ∨ t = s.me.tenant.toNat → q ≤ 7 → s.tenantOk t = true →
        recQueue (s.tenantRec t) q = true →
        (∃ l, SectionsHere s (gv s a) (recLen (s.tenantRec t)) (s.peek (x + 16) 8) 256 l) →
        Completes s (.cpRestore a))) ∧
    (s.me.ended (some .cp) = true ∨ (∀ y ∈ s.cmdsOf .cp c.1 c.2, y.finished = false →
        (gv s a).toNat ≠ 0xFFFFFFFF ∧ y.id ≠ (gv s a).toNat) → Completes s (.cpCancel a))) ∧
  ∀ (s : State) (a b : BitVec 5) (c : Nat × Nat) (r : List Word), c = s.myCtx .cp → r = s.snap .cp c.1 c.2 10 → s.me.ready [.g a] →
    (∀ i, (List.range 10).find? (fun i => !cpRegOk r i) = some i → exec (.cpGo a b) s = .next (s.raise 0x60 (word i))) ∧
    ((∀ i, i < 10 → cpRegOk r i = true) →
      (Config.cpDepth ≤ s.pending .cp c.1 c.2 → exec (.cpGo a b) s = .next (s.parkMe (.accept .cp c.1 c.2))) ∧
      (s.pending .cp c.1 c.2 < Config.cpDepth → ∀ id, id = cpNext (tabGet 0 s.cpSerial (ctxKey .cp c.1 c.2)) →
        exec (.cpGo a b) s = .next (((nextId s c).accept .cp c (cpCommand s c r (gv s a) id)).setMe
          ((s.me.seen [.g a]).wrG b (word id)).advance))) ∧
    (∀ named, named = (fun x : Cmd => !x.finished && ((gv s a).toNat = 0xFFFFFFFF || x.id = (gv s a).toNat)) →
      (s.me.ended (some .cp) = true ∨ (s.cmdsOf .cp c.1 c.2).any named = false →
        exec (.cpCancel a) s = .next (s.goesPast [.g a])) ∧
      (s.me.ended (some .cp) = false → (s.cmdsOf .cp c.1 c.2).any named = true → exec (.cpCancel a) s =
        .next ((s.setCmds .cp c.1 c.2 ((s.cmdsOf .cp c.1 c.2).map (fun x => if named x then x.end 2 0 0 else x))).parkMe
          (.commands (some .cp) (ctxKey .cp c.1 c.2)
            (if (gv s a).toNat = 0xFFFFFFFF then none else some (gv s a).toNat))))) ∧
    (s.me.mode = 3 → (fld (gv s a) 3 5 ≠ 0 ∨ fld (gv s a) 15 49 ≠ 0 → exec (.cpSave a) s = .next (s.raise 0x02 (gv s a))) ∧
      (fld (gv s a) 3 5 = 0 → fld (gv s a) 15 49 = 0 → ∀ u, s.cpAccept 5 (gv s a) = .ok u →
        exec (.cpSave a) s = .next (u.setMe (s.me.seen [.g a]).advance))) ∧
    (∀ op x u, s.cpAccept op x = .ok u → u = (nextId s c).accept .cp c
      (Cmd.start op s.who x 0 [] (cpNext (tabGet 0 s.cpSerial (ctxKey .cp c.1 c.2))) s.time.toNat)) ∧
    (s.me.mode ≠ 0 → (gv s a).toNat % 256 ≠ 0 → exec (.cpRestore a) s = .next (s.raise 0x05 (gv s a))) ∧
    (s.me.mode ≠ 0 → (gv s a).toNat % 256 = 0 →
      ¬ Untouched s c (gv s a) 256 → exec (.cpRestore a) s = .next (waitsForStream s .cp c)) ∧
    (s.me.mode ≠ 0 → (gv s a).toNat % 256 = 0 → Untouched s c (gv s a) 256 → ∀ h0 h1 h2 h3 u0 u1 u2 u t q, s.threadRead (gv s a) 8 = .ok (h0, u0) →
      u0.threadRead (gv s a + 8) 8 = .ok (h1, u1) → u1.threadRead (gv s a + 16) 8 = .ok (h2, u2) →
      u2.threadRead (gv s a + 24) 8 = .ok (h3, u) → t = h1 / 2 ^ 40 % 256 → q = h1 / 2 ^ 32 % 256 →
      (h0 < 2 ^ 63 ∨ h1 % 65536 ≠ 1 ∨ (u.me.mode ≠ 3 ∧ t ≠ u.me.tenant.toNat) ∨ 7 < q →
        exec (.cpRestore a) s = .next (s.raise 0x60 (gv s a))) ∧
      (2 ^ 63 ≤ h0 → h1 % 65536 = 1 → u.me.mode = 3 ∨ t = u.me.tenant.toNat → q ≤ 7 → u.tenantOk t = true →
        recQueue (u.tenantRec t) q = true → Untouched u c (gv s a) h2 → ∀ u3 u4 u5 id,
        id = cpNext (tabGet 0 s.cpSerial (ctxKey .cp c.1 c.2)) → u.sectionsOk (gv s a) h2 (recLen (u.tenantRec t)) (h2 / 16 + 1) 256 = .ok (true, u3) →
        u3.cpAccept 6 (gv s a) = .ok u4 → u4.threadWrite (gv s a) 8 (h0 - 2 ^ 63) = .ok u5 →
        ∃ w l fs cs, exec (.cpRestore a) s = .next w ∧
          w.restores = u5.restores ++ [⟨t, q, l, fs, cs, gv s a, h2, false, (c.1, c.2, id)⟩] ∧ l.serial = h3 % 2 ^ 32 ∧
          (∀ v, u5.saves.find? (keptOf t q (h3 % 2 ^ 32)) = some v → l.x = v.launch.x ∧ l.cword = v.launch.cword ∧ fs = v.fibres ∧ cs = v.cores) ∧
          (u5.saves.find? (keptOf t q (h3 % 2 ^ 32)) = none → l.x = h3 / 2 ^ 32 ∧ fs = [] ∧ cs = []) ∧
          w.saves = u5.saves.filter (fun v => !keptOf t q (h3 % 2 ^ 32) v) ∧ w.mem = u5.mem ∧ w.me = (s.me.seen [.g a]).advance))

/-! ### The fabric engine (R350–R362) -/

/-- The group table that `r` names lies in memory, with its translations held, and passes its check for the context `c` (R353, check 4). -/
def Sys2Proof.Said.TableHere (s : State) (c : Nat × Nat) (r : List Word) : Prop :=
  ∃ x, HeldWords s s.who .die (reg r 0) (8 + (reg r 2).toNat) x ∧
    fxTableOk (wordsAt s x 8) (wordsAt s (x + 64) (reg r 2).toNat) (reg r 2).toNat (reg r 1).toNat (s.packageIndex, c.1, c.2) = .ok ()

/-- MASK is 0, or the bitmap at it lies in memory with its translations held, holds the member's own rank, and no rank from the group's
size on (R353, check 5). -/
def Sys2Proof.Said.MaskHere (s : State) (r : List Word) : Prop :=
  reg r 10 = 0 ∨ ∃ x, HeldWords s s.who .die (reg r 10) (((reg r 2).toNat + 63) / 64) x ∧
    (wordsNat (wordsAt s x (((reg r 2).toNat + 63) / 64))).testBit (reg r 1).toNat = true ∧
    wordsNat (wordsAt s x (((reg r 2).toNat + 63) / 64)) < 2 ^ (reg r 2).toNat

/-- The group table and the bitmap of a snapshot, as virtual ranges. -/
abbrev Sys2Proof.Said.tableRange (r : List Word) : List (Word × Nat) := [(reg r 0, 64 + 8 * (reg r 2).toNat)]
abbrev Sys2Proof.Said.maskRange (r : List Word) : List (Word × Nat) :=
  if reg r 10 = 0 then [] else [(reg r 10, ((reg r 2).toNat + 63) / 64 * 8)]

/-- No outstanding command of the issuer's stream touches the group table, or writes the bitmap, that a collective reads as it is accepted;
none writes the table of a send or receive (R66). -/
def Sys2Proof.Said.GroupFree (s : State) (c : Nat × Nat) (r : List Word) (coll : Bool) : Prop :=
  if coll then Apart s .fx c .die Cmd.fxRanges (tableRange r) ∧ Apart s .fx c .die Cmd.fxWrites (maskRange r)
  else Apart s .fx c .die Cmd.fxWrites (tableRange r)

/-- R352–R354, R359–R361: a fabric command is accepted where its registers, its group table and its peer pass their checks in
order; a collective answers and carries SEQ, which rises by 1. `fx.go` answers it in gB; `fx.send`, `fx.recv` and `fx.bar` go on at
once. `fx.abort` ends what is open, and goes on once every command of the context has completed. Acceptance waits while an outstanding
command of the thread's stream has still to touch what it reads (R66).

Each of the five (`fx.go`, `fx.send`, `fx.recv`, `fx.bar`, `fx.abort`) completes where its registers and operand keep their limits, its
context has space, and its group table and bitmap lie in memory, with their translations held, pass their checks and are left alone by the
outstanding commands of its stream; an abort where no command of the context is outstanding. -/
def Obligations.FabricCommands : Prop :=
  (∀ (s : State) (a b : BitVec 5) (c : Nat × Nat) (r : List Word), c = s.myCtx .fx → r = s.snap .fx c.1 c.2 11 →
    (Calm s → s.pending .fx c.1 c.2 < Config.fxDepth → TableHere s c r →
      (MaskHere s r → GroupFree s c r true → (∀ i ∈ fxUses 2, fxRegOk r true i = true) →
        (reg r 4).toNat + (reg r 5).toNat ≤ (reg r 3).toNat ∨ (reg r 3).toNat + (reg r 5).toNat ≤ (reg r 4).toNat →
        Completes s (.fxGo b)) ∧
      (MaskHere s r → GroupFree s c r true → (∀ i ∈ fxUses 5, fxRegOk r false i = true) → Completes s .fxBar) ∧
      (s.me.ready [.g a] → GroupFree s c r false → (gv s a).toNat < (reg r 2).toNat → gv s a ≠ reg r 1 →
        ((∀ i ∈ fxUses 3, fxRegOk r false i = true) → Completes s (.fxSend a)) ∧
        ((∀ i ∈ fxUses 4, fxRegOk r false i = true) → Completes s (.fxRecv a)))) ∧
    (s.me.ended (some .fx) = true ∨ (∀ x ∈ s.cmdsOf .fx c.1 c.2, x.finished = true) → Completes s .fxAbort)) ∧
  ∀ (s : State) (a b : BitVec 5) (c : Nat × Nat) (r : List Word), c = s.myCtx .fx → r = s.snap .fx c.1 c.2 11 →
    (∀ q u, s.fxAccept 2 r 0 none = .ok (q, u) → exec (.fxGo b) s = .next (u.setMe (u.me.wrG b q).advance)) ∧
    (∀ q u, s.fxAccept 5 r 0 none = .ok (q, u) → exec .fxBar s = .next (u.setMe u.me.advance)) ∧
    (s.me.ready [.g a] → ∀ q u,
      (s.fxAccept 3 r (gv s a) none = .ok (q, u) →
        exec (.fxSend a) s = .next ((u.fxLate c.1 c.2 s.seq).setMe (s.me.seen [.g a]).advance)) ∧
      (s.fxAccept 4 r (gv s a) none = .ok (q, u) →
        exec (.fxRecv a) s = .next ((u.fxLate c.1 c.2 s.seq).setMe (s.me.seen [.g a]).advance))) ∧
    (∀ op x k q u, s.fxAccept op r x k = .ok (q, u) → op = 2 ∨ op = 5 →
      ∃ h t, s.engReadWords s.who .die (reg r 0) 8 = .ok (h, t) ∧ q = reg h 1) ∧
    (∀ i, (fxUses 2).find? (fun i => !fxRegOk r true i) = some i → exec (.fxGo b) s = .next (s.raise 0x02 (word i))) ∧
    (∀ i, (fxUses 5).find? (fun i => !fxRegOk r false i) = some i → exec .fxBar s = .next (s.raise 0x02 (word i))) ∧
    ((∀ i ∈ fxUses 5, fxRegOk r false i = true) → ¬ GroupFree s c r true → exec .fxBar s = .next (waitsForStream s .fx c)) ∧
    ((∀ i ∈ fxUses 5, fxRegOk r false i = true) → reg r 10 = 0 → GroupFree s c r true → ∀ h es t u code eval,
      s.engReadWords s.who .die (reg r 0) 8 = .ok (h, t) →
      t.engReadWords s.who .die (reg r 0 + 64) (reg r 2).toNat = .ok (es, u) →
      fxTableOk h es (reg r 2).toNat (reg r 1).toNat (u.packageIndex, c.1, c.2) = .error (.trap code eval) →
      exec .fxBar s = .next (s.raise code eval)) ∧
    (s.me.ended (some .fx) = true → exec .fxAbort s = .next (s.setMe s.me.advance)) ∧
    (s.me.ended (some .fx) = false → (∀ x ∈ s.cmdsOf .fx c.1 c.2, x.finished = true) →
      exec .fxAbort s = .next (s.setMe s.me.advance)) ∧
    (s.me.ended (some .fx) = false → ∀ u, u = (s.cmdsOf .fx c.1 c.2).foldl (fun v x => match v.fxCmd c.1 c.2 x.id with
        | some x => v.fxEnd c.1 c.2 x 5 0 0xFFFF
        | none => v) s →
      ((u.cmdsOf .fx c.1 c.2).all (·.finished) = true → exec .fxAbort s = .next (u.setMe u.me.advance)) ∧
      ((u.cmdsOf .fx c.1 c.2).all (·.finished) = false →
        exec .fxAbort s = .next (u.parkMe (.commands (some .fx) (ctxKey .fx c.1 c.2) none))))

/-! ### The mask engine (R372–R380) -/

/-- The state in which a move of the automaton has happened: STATE, SP and STAT are written and a production begins. -/
def Sys2Proof.Said.mkMoved (s u : State) (r : List Word) (st d t steps : Nat) : State :=
  (u.mkRegs (s.myCtx .mk) st d (word steps)).mkProduce (s.myCtx .mk) s.who r st t

/-- R376, R377: `mk.load` starts at a state with an empty stack and steps 0; `mk.step` follows a token's entry, which keeps, pushes or
pops; both make the ready word EMPTY and begin a production. A token, state or class out of range raises 0x82, a pop of an empty
stack 0x81, a push past the depth 0x80. `mk.reset` stops production and makes the ready word VOID with value 0.

Each of the three (`mk.load`, `mk.step`, `mk.reset`) completes where its registers keep their limits and the sequence block, and of
`mk.step` the class byte and the entry, lie in memory with their translations held, and the entry is one that the stack allows. -/
def Obligations.MaskMoves : Prop :=
  (∀ (s : State) (a b : BitVec 5) (r : List Word) (x : Nat), r = s.snap .mk (s.myCtx .mk).1 (s.myCtx .mk).2 11 →
    mkLimits r = .ok () → Calm s → HeldWords s s.who .die (reg r 9) 5 x →
    (s.me.ready [.g a] → (gv s a).toNat < mkNs r → Completes s (.mkLoad a)) ∧
    (s.me.ready [.g a] → (gv s a).toNat < mkV r → ∀ d t y z, d = (reg r 8).toNat →
      t = (if d = 0 then 0 else s.peek (x + 8 + 8 * ((d - 1) / 16)) 8 / 16 ^ ((d - 1) % 16) % 16) →
      Held s s.who .die (reg r 5 + gv s a) y → s.peek y 1 < mkNc r →
      Held s s.who .die (mkEntryAddr r (reg r 7).toNat t (s.peek y 1)) z → mkValid r (s.peek z 2) = true →
      ¬ (mkAction (s.peek z 2) = 3 ∧ t = 0) → ¬ (mkAction (s.peek z 2) = 2 ∧ (reg r 3).toNat ≤ d) → Completes s (.mkStep a b)) ∧
    Completes s .mkReset) ∧
  ∀ (s : State) (a b : BitVec 5) (r : List Word), r = s.snap .mk (s.myCtx .mk).1 (s.myCtx .mk).2 11 →
    mkLimits r = .ok () →
    (s.me.ready [.g a] → mkNs r ≤ (gv s a).toNat → exec (.mkLoad a) s = .next (s.raise 0x82 (gv s a))) ∧
    (s.me.ready [.g a] → (gv s a).toNat < mkNs r → ∀ u p v,
      (List.range 4).foldlM (fun (u : State) i => do
        let (p, u) ← u.mkWord s.who .write (mkStackAddr r (16 * i))
        pure (u.poke p 8 0)) s = .ok u → u.mkWord s.who .write (reg r 9) = .ok (p, v) →
      exec (.mkLoad a) s = .next ((mkMoved s (v.setPres p .empty) r (gv s a).toNat 0 0 0).setMe (s.me.seen [.g a]).advance)) ∧
    (s.me.ready [.g a] → ∀ tok, tok = gv s a →
      (mkV r ≤ tok.toNat → exec (.mkStep a b) s = .next (s.raise 0x82 tok)) ∧
      (tok.toNat < mkV r → ∀ d t cl e u u1 u2, d = (reg r 8).toNat →
        (d = 0 ∧ t = 0 ∧ u = s) ∨ (d ≠ 0 ∧ s.mkNibble s.who r (d - 1) = .ok (t, u)) →
        u.mkTable s.who (reg r 5 + tok) 1 = .ok (cl, u1) →
        (mkNc r ≤ cl → exec (.mkStep a b) s = .next (s.raise 0x82 tok)) ∧
        (cl < mkNc r → u1.mkTable s.who (mkEntryAddr r (reg r 7).toNat t cl) 2 = .ok (e, u2) →
          (mkAction e = 3 → t = 0 → exec (.mkStep a b) s = .next (s.raise 0x81 tok)) ∧
          (¬ (mkAction e = 3 ∧ t = 0) → mkValid r e = false → exec (.mkStep a b) s = .next (s.raise 0x82 tok)) ∧
          (mkValid r e = true → mkAction e = 2 → (reg r 3).toNat ≤ d → exec (.mkStep a b) s = .next (s.raise 0x80 (word d))) ∧
          (mkValid r e = true → ¬ (mkAction e = 3 ∧ t = 0) → ¬ (mkAction e = 2 ∧ (reg r 3).toNat ≤ d) →
            ∀ d1 t1 u3 p u4, u2.mkAct s.who r e d t = .ok (d1, t1, u3) → u3.mkWord s.who .write (reg r 9) = .ok (p, u4) →
            exec (.mkStep a b) s = .next ((mkMoved s (u4.setPres p .empty) r (mkNext e) d1 t1
              ((fld (reg r 10) 0 32 + 1) % 2 ^ 32)).setMe
                ((s.me.seen [.g a]).wrG b (word (mkNext e + 256 * t1 + 4096 * d1))).advance) ∧
            (mkAction e = 1 → d1 = d ∧ t1 = t) ∧ (mkAction e = 2 → d1 = d + 1 ∧ t1 = mkSym e) ∧
            (mkAction e = 3 → d1 = d - 1))))) ∧
    (∀ p u, s.mkWord s.who .write (reg r 9) = .ok (p, u) → exec .mkReset s =
      .next ((((u.pokeWord p 0 .void).setEr .mk (s.myCtx .mk).1 (s.myCtx .mk).2 10 (word (fld (reg r 10) 0 32)) .full).setProd
        (s.myCtx .mk).1 (s.myCtx .mk).2 none).setMe s.me.advance))

/-- R380: the readers of a mask. With a FULL ready word `mk.wait` answers 0, 1 or 2 for several, one or no allowed tokens,
`mk.forced` the only token or all ones, and `mk.mask` the 512 bits of a chunk; with a VOID one they answer 4, all ones and a VOID
register, and set V. While it is EMPTY, or others reached it before (R65), they wait; `mk.wait` with a limit of 0, or past its limit,
answers 3 or raises 0x83.

Each of the three (`mk.wait`, `mk.forced`, `mk.mask`) completes with a FULL or VOID ready word that lies in memory with its translation
held; of `mk.mask` with a FULL one the chunk's eight words do so too, none of them EMPTY; `mk.wait` completes with an EMPTY one and limit 0. -/
def Obligations.MaskReaders : Prop :=
  (∀ (s : State) (a b : BitVec 5) (v : BitVec 4) (r : List Word) (x : Nat), r = s.snap .mk (s.myCtx .mk).1 (s.myCtx .mk).2 11 →
    FirstIssue s → Calm s → mkLimits r = .ok () → Held s s.who .die (reg r 9) x → FirstAt s x →
    (s.me.ready [.g a] → s.presAt x ≠ .empty ∨ gv s a = 0 → Completes s (.mkWait a b)) ∧
    (s.presAt x ≠ .empty → Completes s (.mkForced b)) ∧
    (s.me.ready [.g a] → (gv s a).toNat < mkNch r →
      (s.presAt x = .void → Completes s (.mkMask a v)) ∧
      (s.presAt x = .full → ∀ y, HeldWords s s.who .die
          (mkChunkAddr r (fld (word (s.peek x 8)) 32 8) (fld (word (s.peek x 8)) 40 4) (gv s a).toNat 0) 8 y →
        (∀ i, i < 8 → s.presAt (y + 8 * i) ≠ .empty ∧ FirstAt s (y + 8 * i)) → Completes s (.mkMask a v)))) ∧
  (∀ (s : State) (a : BitVec 5), FirstIssue s → s.me.ready [.g a] → s.mkOperand a = .ok (gv s a, s.me.seen [.g a])) ∧
  ∀ (s u w : State) (a b : BitVec 5) (v : BitVec 4) (c : Nat × Nat) (r : List Word) (p : Nat) (q : Presence) (o : Word) (sl : Slot),
    c = s.myCtx .mk → r = s.mkSnap c → w = s.mkDrop c → mkLimits r = .ok () → w.mkWord w.who .read (reg r 9) = .ok (p, u) →
    q = (if u.queuedBefore u.myPlace p then .empty else u.presAt p) → s.mkOperand a = .ok (o, sl) →
    (q = .full → ∀ x, x = word (u.peek p 8) →
      exec (.mkWait a b) s = .next (u.setMe (sl.wrG b (if fld x 0 21 = 0 then 2 else if fld x 0 21 = 1 then 1 else 0)).advance) ∧
      exec (.mkForced b) s = .next (u.setMe (u.me.wrG b
        (if fld x 0 21 = 1 then word (fld x 44 20) else 0xFFFFFFFFFFFFFFFF)).advance) ∧
      (o.toNat < mkNch r → ∀ l vd t,
        u.maskWords r (fld x 32 8) (fld x 40 4) o.toNat (List.range 8) = .ok (.inr (l, vd, t)) →
        exec (.mkMask a v) s = .next (t.setMe ((if vd then sl.setV else sl).wrV v
          (BitVec.ofNat 1024 (l.foldr (fun w t => w + 2 ^ 64 * t) 0))).advance))) ∧
    (q = .void →
      exec (.mkWait a b) s = .next (u.setMe (u.me.setV.wrG b 4).advance) ∧
      exec (.mkForced b) s = .next (u.setMe (u.me.setV.wrG b 0xFFFFFFFFFFFFFFFF).advance) ∧
      (o.toNat < mkNch r → exec (.mkMask a v) s = .next (u.setMe (u.me.setV.setVr v 0 .void).advance))) ∧
    (q = .empty →
      (s.me.reply = .gaveUp ∨ fld o 0 63 = 0 →
        (bit o 63 = false → exec (.mkWait a b) s = .next (u.setMe (sl.wrG b 3).advance)) ∧
        (bit o 63 = true → exec (.mkWait a b) s = .next (w.raise 0x83 (word (fld o 0 63))))) ∧
      (s.me.reply ≠ .gaveUp → fld o 0 63 ≠ 0 →
        (FirstIssue s → exec (.mkWait a b) s = .next (u.mkPark c r o (decide (sl ≠ s.me))
          (.ready p (s.time.toNat + fld o 0 63) (bit o 63) (word (fld o 0 63))))) ∧
        (¬ FirstIssue s → ∀ p0 d e y, s.me.wait = .ready p0 d e y → exec (.mkWait a b) s =
          .next (u.mkPark c r o (decide (sl ≠ s.me)) (.ready p d (bit o 63) (word (fld o 0 63)))))) ∧
      exec (.mkForced b) s = .next (u.mkPark c r 0 false (.word p .notEmpty)) ∧
      (o.toNat < mkNch r → exec (.mkMask a v) s = .next (u.mkPark c r o (decide (sl ≠ s.me)) (.word p .notEmpty)))) ∧
    (mkNch r ≤ o.toNat → exec (.mkMask a v) s = .next (w.raise 0x82 o))

/-! ### How waits end (R20, R34–R36, R46, R49, R173, R186, R187, R214, R380) -/

/-- What a slot is parked on. -/
def Sys2Proof.Said.ParkedOn (s : State) (core slot : Nat) (w : Wait) : Prop :=
  slotExists core slot = true ∧ (s.slotAt core slot).state = .parked ∧ (s.slotAt core slot).wait = w ∧
    (s.slotAt core slot).preempted = false

/-- The state in which a parked instruction goes on, with a reply where there is one. -/
def Sys2Proof.Said.goesOn (s : State) (core slot : Nat) (r : Reply) : State :=
  s.setSlot core slot { (s.slotAt core slot) with state := .ready, resuming := true, reply := r }

/-- The slot as a reply reaches the access at `va` that its parked instruction waits for: the instruction goes on, and the access keeps
the translation of its issue (R33, R120). -/
def Sys2Proof.Said.replied (sl : Slot) (va : Word) (r : Reply) : Slot :=
  { sl with
    state := .ready, resuming := true, reply := r
    kept := sl.kept.map (fun a => if a.va = va then { a with reply := r } else a) }

/-- R20, R65, R173, R214, R217, R380: a parked instruction goes on once what it waits for has occurred, and not before: a register that
is no longer EMPTY, a word at its turn, a barrier's phase that has flipped, whatever it is by now, space for a command; a `wait` at its
event; `mk.wait` at its deadline. One that waits for an input word of the bit-buffer takes that word at its turn and issues again. A halted
transform thread starts again at its entry. -/
def Obligations.WaitsEnd : Prop :=
  ∀ (s : State) (core slot : Nat) (w : Wait), ParkedOn s core slot w →
    (s.waitOver core slot = true → (∀ p, w ≠ .input p) →
      exec (.parkWake (.fibre core slot)) s = .next (goesOn s core slot (s.slotAt core slot).reply)) ∧
    (∀ p, w = .input p → (s.waitOver core slot = true ↔ s.presAt p ≠ .empty ∧ s.queuedBefore (s.slotAt core slot).seq p = false) ∧
      (s.waitOver core slot = true → exec (.parkWake (.fibre core slot)) s = .next (s.setSlot core slot { s.slotAt core slot with
        state := .ready, wait := .none, fetched := none, words := (p, word (s.peek p 8), s.presAt p) :: (s.slotAt core slot).words }))) ∧
    (s.waitOver core slot = false → exec (.parkWake (.fibre core slot)) s = .next s) ∧
    (∀ r, w = .reg r → (s.waitOver core slot = true ↔ (s.slotAt core slot).presOf r ≠ .empty)) ∧
    (∀ k ph, w = .barrier k ph →
      (s.waitOver core slot = true ↔ (s.slotAt core slot).reply = .flipped ∨ (s.barAt k).phase ≠ ph)) ∧
    (∀ p, w = .word p .notEmpty →
      (s.waitOver core slot = true ↔ s.presAt p ≠ .empty ∧ s.queuedBefore (s.slotAt core slot).seq p = false)) ∧
    (∀ m t v, w = .event m t v →
      (s.eventOver core slot m t = true →
        exec (.waitWake core slot) s = .next (goesOn s core slot (s.slotAt core slot).reply)) ∧
      (s.eventOver core slot m t = false → exec (.waitWake core slot) s = .next s)) ∧
    (∀ k i c, w = .accept k i c → s.pending k i c < (match k with | .cp => Config.cpDepth | .fx => Config.fxDepth | _ => Config.atDepth) →
      exec (.engineCommandAccept core slot) s = .next (goesOn s core slot (s.slotAt core slot).reply)) ∧
    (∀ p d e x, w = .ready p d e x → d ≤ s.time.toNat →
      exec (.mkWaitTimeout core slot) s = .next (goesOn s core slot .gaveUp)) ∧
    (w = .queueEvent → slot = 7 → core < 1024 → s.queueEventAt core 7 = true →
      exec (.transformRestart core) s = .next (s.setSlot core 7 ((s.slotAt core 7).jump (s.slotAt core 7).entry)))

/-- R33, R46, R49, R51, R186, R187: replies. FAR data arrive at the thread that waits for them; a tag that fails quarantines the page
and is reported once, by the tier engine (that it is the tier engine's report is the model's choice, log entry 22). A PCIe request ends with
the completion's outcome, or as timed out once its timeout has passed. The end of a refresh window lets go on exactly the slots that wait for
that bank. -/
def Obligations.RepliesArrive : Prop :=
  ∀ (s : State) (core slot : Nat), slotExists core slot = true → (s.slotAt core slot).state = .parked →
    (∀ va p t, (s.slotAt core slot).wait = .far va p → t = s.setSlot core slot (replied (s.slotAt core slot) va (.far false)) →
      ((p / 4096 * 4096) ∉ s.badTags → exec (.memoryReply core slot true) s =
        .next (s.setSlot core slot (replied (s.slotAt core slot) va (.far true)))) ∧
      ((p / 65536 * 65536) ∉ s.quarantine → exec (.memoryReply core slot false) s = .next { t with
        quarantine := (p / 65536 * 65536) :: s.quarantine, out := s.out ++ [shown s (.tier (s.farDie ((p - farBase) / 65536))) (.report 0x09 p 0)] }) ∧
      ((p / 65536 * 65536) ∈ s.quarantine → exec (.memoryReply core slot false) s = .next t) ∧
      ((p / 4096 * 4096) ∈ s.badTags → exec (.memoryReply core slot true) s = exec (.memoryReply core slot false) s)) ∧
    (∀ va a r i, (s.slotAt core slot).wait = .host va a r i →
      (∀ o, exec (.pcieCompletion (.fibre core slot) o) s =
        .next (s.setSlot core slot (replied (s.slotAt core slot) va (.host o)))) ∧
      (i + s.pcieTimeout ≤ s.time.toNat → exec (.completionTimeout (.fibre core slot)) s =
        .next (s.setSlot core slot (replied (s.slotAt core slot) va .timeout))) ∧
      (s.time.toNat < i + s.pcieTimeout → exec (.completionTimeout (.fibre core slot)) s = .next s)) ∧
    (∀ die bank, die < 4 → bank < 64 → s.inRefresh bank = false → ∃ t, exec (.refreshWindowEnd die bank) s = .next t ∧
      { t with slots := s.slots } = s ∧ t.slots = s.slots.map (fun e => (e.1,
        if e.2.state = .parked ∧ e.2.wait = .refresh die bank ∧ e.2.preempted = false then
          { e.2 with state := .ready, resuming := true } else e.2)))

/-- R34–R36, R260, R270, R273: the pager. A miss of a page of the host issues a page request under the least free index, with the tenant's
generation; a wake lets go on every thread that waits on that page, unless the tenant's generation has changed since; a decline raises 0x07, or
0x06 for a permission, with the address as EVAL; of a push block's table it raises 0x02 with EVAL 8. A thread that is pre-empted while it
sleeps takes neither: it issues again as it goes on. -/
def Obligations.PagerEvents : Prop :=
  ∀ (s : State) (core slot : Nat) (m : Miss), (s.slotAt core slot).onPager = true → (s.slotAt core slot).miss = some m →
    (∀ i, m.stage = 3 → s.pris.any (fun p => p.agent = .fibre core slot && p.va = m.va) = false →
      (List.range 512).find? (fun i => decide (i ∉ (s.pris.filter (fun p => decide (p.tenant = m.tenant.toNat))).map (·.index))) = some i →
      exec (.missMessage (.fibre core slot)) s = .next { s with
        pris := s.pris ++
          [⟨m.tenant.toNat, m.tenant.toNat, i, (s.tenantAt m.tenant.toNat).gen, s.time.toNat, .fibre core slot, m.va⟩],
        out := s.out ++ [shown s .host (.pri m.tenant.toNat m.tenant.toNat i)] }) ∧
    (∀ gen, (s.slotAt core slot).gen ≠ gen → exec (.pagerWake (.fibre core slot) gen) s = .next s) ∧
    (∃ t, exec (.pagerWake (.fibre core slot) (s.slotAt core slot).gen) s = .next t ∧ t = s.wakePage m ∧
      ((s.slotAt core slot).state = .asleep → (s.slotAt core slot).preempted = false →
        t.slotAt core slot = { s.slotAt core slot with state := .ready, miss := none }) ∧
      ((s.slotAt core slot).state = .asleep → (s.slotAt core slot).preempted = true → t.slotAt core slot = s.slotAt core slot) ∧
      ((s.slotAt core slot).state = .parked →
        t.slotAt core slot = { s.slotAt core slot with state := .ready, resuming := true, miss := none })) ∧
    (∀ perm code, code = (if perm then 0x06 else 0x07) →
      ((s.slotAt core slot).state = .asleep → (s.slotAt core slot).preempted = true →
        exec (.pagerDecline (.fibre core slot) perm) s = .next s) ∧
      ((s.slotAt core slot).state = .asleep → (s.slotAt core slot).preempted = false → (s.slotAt core slot).wait = .none →
        exec (.pagerDecline (.fibre core slot) perm) s = .next (s.raiseAt core slot code m.va)) ∧
      (∀ l u, (s.slotAt core slot).state = .parked →
        ((s.slotAt core slot).wait = .frame l .miss → u = s.raiseAt core slot code m.va →
          exec (.pagerDecline (.fibre core slot) perm) s = .next (u.frIdle (s.frCtx core slot))) ∧
        ((s.slotAt core slot).wait = .frame l .btab → u = s.raiseAt core slot 0x02 8 →
          exec (.pagerDecline (.fibre core slot) perm) s = .next (u.frIdle (s.frCtx core slot))))) ∧
    (∀ c : Nat × Nat, (s.frIdle c).erp .fr c.1 c.2 0 = ((s.erp .fr c.1 c.2 0).1, if s.frBusy c then .empty else .full)) ∧
    ((s.slotAt core slot).mode ≠ 3 → ∀ code e, s.raiseAt core slot code e =
      s.setSlot core slot ({ s.slotAt core slot with miss := none }.raise code e))

/-! ### Steps of the engines -/

/-- The state that a unit of an attention command gives: its cycles are counted, where it has changed anything (R258). -/
def Sys2Proof.Said.counted (s t : State) (c : Cmd) : State := if t = s then s else t.countTimed c.who.acct.toNat 16

/-- The word at `va` lies at `p`, with its translation held; it is not EMPTY, and nobody waits on it before (R65). -/
def Sys2Proof.Said.Readable (s : State) (w : Who) (u : TlbUnit) (va : Word) (p : Nat) : Prop :=
  HeldWords s w u va 1 p ∧ s.presAt p ≠ .empty ∧ s.queuedBefore s.seq p = false

/-- What `lds.pkg` reads from a word: a VOID one reads as 0 (R182). -/
def Sys2Proof.Said.syncValue (s : State) (p : Nat) : Word := if s.presAt p = .void then 0 else word (s.peek p 8)

/-- The block that header `h` names lies in memory from `y` on, every byte with its translation held, and keeps the limits of R286, R298
and R303. -/
def Sys2Proof.Said.BlockHere (u : State) (c : Cmd) (h : KvHead) (y : Nat) : Prop :=
  atRegOk c.regs 0 = true ∧ atRegOk c.regs 5 = true ∧ atRegOk c.regs 6 = true ∧ h.valid ≤ 64 ∧ h.soff % 2 = 0 ∧ 64 ≤ h.soff ∧
    (h.soff + 16 * atH c.regs + 63) / 64 * 64 + 128 * atH c.regs * atD c.regs * kvBytes (atFmt c.regs) ≤ fld (reg c.regs 6) 32 32 ∧ Calm u ∧
    ∀ o, o < fld (reg c.regs 6) 32 32 → Held u c.who .attn (reg c.regs 5 + word (h.block * fld (reg c.regs 6) 32 32 + o)) (y + o)

/-- κ·k_i of token `j`, or λ·v_i (`val`), of a block at `y` (R285): its scale is BF16, and a narrow element is flushed under FZI. -/
def Sys2Proof.Said.kvAt (u : State) (c : Cmd) (h : KvHead) (y : Nat) (val : Bool) (j i : Nat) : Machine.Num :=
  let eb := kvBytes (atFmt c.regs)
  let sc := u.peek (y + h.soff + 2 * ((if val then 4 * atH c.regs else 0) + 4 * atHead c.regs + j / 16)) 2
  let start := (h.soff + 16 * atH c.regs + 63) / 64 * 64 + (if val then 64 * atH c.regs * atD c.regs * eb else 0)
  mulNum (Fmt.bf16.decode sc) ((kvFmt (atFmt c.regs)).decodeFlush (bit c.who.fpcsr 2 && decide (atFmt c.regs ≠ 1))
    (u.peek (y + start + ((64 * atHead c.regs + j) * atD c.regs + i) * eb) eb))

/-- The running sum of R288 after chunk `n`: window28 of each 32 products, added in ascending order. -/
def Sys2Proof.Said.chunks (fzo : Bool) (q k : Nat → Machine.Num) : Nat → F32
  | 0 => window28 fzo ((List.range 32).map (fun i => mulNum (q i) (k i)))
  | n + 1 => rne32 fzo (addExact 0 (num (chunks fzo q k n))
      (num (window28 fzo ((List.range 32).map (fun i => mulNum (q (32 * (n + 1) + i)) (k (32 * (n + 1) + i)))))))

/-- Key position `k` of a block of frame `g` is visible to a row at `p` in frame `f` (R266, R287, R304). -/
def Sys2Proof.Said.Visible (x : AtCtx) (gid : Nat) (f g : Frame) (p k : Nat) : Prop :=
  (g.cut = noCut ∨ k < g.base + g.cut) ∧
    ((x.frame = gid ∧ (if f.spec = true ∧ x.treeBase ≤ k ∧ k < x.treeBase + x.tree.length ∧ x.treeBase ≤ p ∧ p < x.treeBase + x.tree.length then
        bit (x.tree.getD (p - x.treeBase) 0) (k - x.treeBase) = true else k ≤ p)) ∨
      ∃ e ∈ f.scope.take f.nscope, e.1 ≤ k ∧ k < e.1 + e.2)

/-- R289: triple `t` becomes `t'` by one block of 64 scores `sc` and values `v`, in the named quantities of the rule. -/
def Sys2Proof.Said.BlockGives (fzo : Bool) (t t' : Triple) (sc : Nat → F32) (v : Nat → Nat → Machine.Num) : Prop :=
  (t.status = 2 → t' = t) ∧
  (t.status ≠ 2 → (∃ j, j < 64 ∧ (isNan32 (sc j) = true ∨ sc j = posInf32)) → t' = { Triple.invalid t.o.length with voided := t.voided }) ∧
  (t.status ≠ 2 → (∀ j, j < 64 → isNan32 (sc j) = false ∧ sc j ≠ posInf32) → ∀ (m f l : F32) (p : Nat → Machine.Num) (h o : Nat → F32)
      (b : Nat → Nat → F32),
    (m = t.m ∨ ∃ j, j < 64 ∧ m = sc j) → ordKey t.m ≤ ordKey m → (∀ j, j < 64 → ordKey (sc j) ≤ ordKey m) →
    p = (fun j => if sc j = negInf32 then .fin false 0 0 else toBf (expDiff fzo (sc j) m)) → f = expDiff fzo t.m m →
    l = rne32 fzo (exact (addNum (mulNum (num t.l) (num f)) (sumNum ((List.range 64).map p)))) →
    b = (fun n i => window28 fzo ((((List.range 32).map (32 * n + ·)).filter (fun j => decide (sc j ≠ negInf32))).map
      (fun j => mulNum (p j) (v j i)))) → h = (fun i => rne32 fzo (addExact 0 (num (b 0 i)) (num (b 1 i)))) →
    o = (fun i => rne32 fzo (fmaExact 0 (num (t.o.getD i 0)) (num f) (num (h i)))) →
    (m = negInf32 → t' = t) ∧
    (m ≠ negInf32 → isNan32 l = true ∨ (∃ i, i < t.o.length ∧ isNan32 (o i) = true) →
      t' = { Triple.invalid t.o.length with voided := t.voided }) ∧
    (m ≠ negInf32 → isNan32 l = false → (∀ i, i < t.o.length → isNan32 (o i) = false) →
      t' = { m := m, l := l, o := (List.range t.o.length).map o, status := 0, voided := t.voided }))

/-- R292: what the Saddle merge of two triples of `d` elements is. -/
def Sys2Proof.Said.Merges (fzo : Bool) (d : Nat) (x y t : Triple) : Prop :=
  (x.status = 2 ∨ y.status = 2 → t = { Triple.invalid d with voided := x.voided || y.voided }) ∧
  (x.status ≠ 2 → y.status ≠ 2 → ∀ (m f1 f2 l : F32) (o : Nat → F32), m = (if ordKey x.m < ordKey y.m then y.m else x.m) →
    f1 = expDiff fzo x.m m → f2 = expDiff fzo y.m m →
    l = rne32 fzo (addExact 0 (mulNum (num x.l) (num f1)) (mulNum (num y.l) (num f2))) →
    o = (fun i => rne32 fzo (addExact 0 (mulNum (num (x.o.getD i 0)) (num f1)) (mulNum (num (y.o.getD i 0)) (num f2)))) →
    (m = negInf32 → t = { Triple.masked d with voided := x.voided || y.voided }) ∧
    (m ≠ negInf32 → isNan32 l = true ∨ (∃ i, i < d ∧ isNan32 (o i) = true) → t = { Triple.invalid d with voided := x.voided || y.voided }) ∧
    (m ≠ negInf32 → isNan32 l = false → (∀ i, i < d → isNan32 (o i) = false) →
      t = { m := m, l := l, o := (List.range d).map o, status := 0, voided := x.voided || y.voided }))

/-- φ of R294, of the FP32 value of an element. -/
def Sys2Proof.Said.featureOf (fzo : Bool) (x : F32) : F32 :=
  if isNan32 x = false ∧ 0 < valKey x then rne32 fzo (addExact 0 (num x) (ofInt 1))
  else flushExp (exp2c fzo (num (rne32 fzo (mulExact (num x) (num 0x3FB8AA3B)))))

/-- R294: the fold state after the keys and values of a list: element n of S, row-major, then of z. -/
def Sys2Proof.Said.folded (fzo : Bool) (d : Nat) (st : Nat → F32) : List ((Nat → Machine.Num) × (Nat → Machine.Num)) → Nat → F32
  | [] => st
  | (k, v) :: l => folded fzo d (fun n =>
      if n < d * d then rne32 fzo (fmaExact 0 (num (featureOf fzo (rne32 fzo (exact (k (n / d)))))) (num (rne32 fzo (exact (v (n % d))))) (num (st n)))
      else rne32 fzo (addExact 0 (num (st n)) (num (featureOf fzo (rne32 fzo (exact (k (n - d * d)))))))) l

/-- R283–R309: a unit of an attention command: the latch of an `at.q`, a query word of it, a block, a tree, a linear fold, an output,
a reset, a word of a record of a merge; a word that is EMPTY is waited for. A block of `at.kv` changes every row's triple as R287–R289 say,
and one of `at.fold` the fold state as R294 says; a merge is the Saddle merge of R292. That the keys of a frame whose record is free are
visible through a scope entry is the model's reading (DEDUCED, log entry 65), which State.frames holds.

ATTENTION_BLOCK_UPDATE, QUERY_WORD_READ and PARTIAL_RECORD_READ each complete: stated for a block that lies in memory with its translations
held, for a tree, a reset, and a linear fold, a query word and a record's word that do so. -/
def Obligations.AttentionEvents : Prop :=
  ∀ (s : State) (q i : Nat) (c : Cmd) (x : AtCtx), s.active .at q i = some c → c.miss = none → c.ending = none → x = s.atCtx q i →
    (c.op = 2 → c.awaits ≠ 0 → exec (.queryWordRead q i) s =
      .next ((s.setAt q i (x.latch c)).setActive .at q i { c with awaits := 0 })) ∧
    (c.op = 2 → c.awaits = 0 → c.place = none → Calm s → ∀ p, Readable s c.who .attn (reg c.regs 1 + word (8 * c.pos)) p →
      ∃ t, exec (.queryWordRead q i) s = .next t ∧ s.sameMemory t ∧
        t.atCtx q i = { x with
          q := x.q.modify (c.pos / (x.d / 4)) (· ++ (List.range 4).map (fun j => (syncValue s p).extractLsb' (16 * j) 16))
          triples := if s.presAt p = .void then x.triples.modify (c.pos / (x.d / 4)) (fun e => { e with voided := true })
            else x.triples } ∧
        t.cmdsOf .at q i = updFirst (fun _ => { c with pos := c.pos + 1, finished := decide (x.rows * (x.d / 4) ≤ c.pos + 1) })
          (s.cmdsOf .at q i)) ∧
    (c.op = 2 → c.awaits = 0 → ∀ p t, s.engSync c.who .attn c.place (reg c.regs 1 + word (8 * c.pos)) = .ok (.error p, t) →
      ∃ u, exec (.queryWordRead q i) s = .next u ∧ u.atCtx q i = t.atCtx q i) ∧
    (∀ h, c.heads[c.pos]? = some h →
      (c.op = 3 → ∀ t, s.atApply q i c h = .ok t → exec (.attentionBlockUpdate q i) s = .next (counted s t c)) ∧
      (c.op = 5 → ∀ t, s.atFoldBlock q i c h = .ok t → exec (.attentionBlockUpdate q i) s = .next (counted s t c)) ∧
      (c.op = 3 → ∀ fr u y, s.frames (x.who c.who) x.frame h.frame = .ok (fr, u) → BlockHere u c h y →
        ∃ t, exec (.attentionBlockUpdate q i) s = .next t ∧
          t.cmdsOf .at q i = updFirst (fun _ => { c with pos := c.pos + 1, finished := decide (c.heads.length ≤ c.pos + 1) }) (s.cmdsOf .at q i) ∧
          ∀ n e, x.triples[n]? = some e → (x.q.getD n []).length = atD c.regs → ∃ e', (t.atCtx q i).triples[n]? = some e' ∧
            ∀ sc : Nat → F32, (∀ j, j < 64 → (∃ f g, fr = some (f, g) ∧ j < h.valid ∧ Visible x h.frame f g (x.qpos + n) (h.hbase + j)) →
                sc j = rne32 (bit c.who.fpcsr 3) (mulExact (num (chunks (bit c.who.fpcsr 3) (fun i => bf ((x.q.getD n []).getD i 0).toNat)
                  (kvAt u c h y false j) (atD c.regs / 32 - 1))) (num x.scale))) →
              (∀ j, j < 64 → (¬ ∃ f g, fr = some (f, g) ∧ j < h.valid ∧ Visible x h.frame f g (x.qpos + n) (h.hbase + j)) → sc j = negInf32) →
              e.o.length = atD c.regs → BlockGives (bit c.who.fpcsr 3) e e' sc (kvAt u c h y true)) ∧
      (c.op = 5 → ∀ fr u y z d keys, s.frames c.who h.frame h.frame = .ok (fr, u) → BlockHere u c h y → d = atD c.regs → z % 8 = 0 →
        HeldWords u c.who .attn (reg c.regs 10) ((d * d + d) / 2) z →
        keys = (List.range h.valid).filter (fun j => match fr with
          | some (_, g) => decide (g.cut = noCut ∨ h.hbase + j < g.base + g.cut)
          | none => false) → ∃ t, exec (.attentionBlockUpdate q i) s = .next t ∧ (keys = [] → s.sameMemory t) ∧
        (keys ≠ [] → sameBut u t [(z, 4 * (d * d + d))] ∧ ∀ n, n < d * d + d → t.presAt (z + 4 * n) = .full ∧
          t.peek (z + 4 * n) 4 = (folded (bit c.who.fpcsr 3) d (fun n => BitVec.ofNat 32 (u.peek (z + 4 * n) 4))
            (keys.map (fun j => (kvAt u c h y false j, kvAt u c h y true j))) n).toNat))) ∧
    (∀ fzo d a b, a.o.length = d → b.o.length = d → Merges fzo d a b (saddle fzo a b)) ∧
    (c.op = 4 → ∃ t, exec (.attentionBlockUpdate q i) s = .next t ∧ s.sameMemory t ∧
      t.atCtx q i = { x with treeBase := (reg c.regs 7).toNat, tree := c.regs.drop 12 } ∧
      t.cmdsOf .at q i = updFirst (fun _ => { c with finished := true }) (s.cmdsOf .at q i)) ∧
    (c.op = 9 → ∃ t, exec (.attentionBlockUpdate q i) s = .next t ∧ s.sameMemory t ∧ t.atCtx q i = .empty ∧
      t.cmdsOf .at q i = updFirst (fun _ => { c with finished := true }) (s.cmdsOf .at q i)) ∧
    (c.op = 6 → Calm s → ∀ p l, HeldWords s c.who .attn (reg c.regs 10) ((x.d * x.d + x.d) / 2) p →
      l = wordsAt s p ((x.d * x.d + x.d) / 2) → ∃ t, exec (.attentionBlockUpdate q i) s = .next t ∧ s.sameMemory t ∧
        t.atCtx q i = { x with triples := x.triples.zipIdx.map (fun e => saddle (bit c.who.fpcsr 3) e.1
          (linPartial (bit c.who.fpcsr 3) x.d (halves l) (x.q.getD e.2 []) ((reg c.regs 11).setWidth 32))) } ∧
        t.cmdsOf .at q i = updFirst (fun _ => { c with finished := true }) (s.cmdsOf .at q i)) ∧
    (c.op = 8 → ∀ t, s.atOutput q i c = .ok t → exec (.attentionBlockUpdate q i) s = .next (counted s t c)) ∧
    (c.op = 7 → c.place = none → Calm s → ∀ p n l, n = 2 + x.d / 2 →
      Readable s c.who .attn (c.a + word (8 * (c.pos * n + (recSoFar c).length))) p → l = recSoFar c ++ [syncValue s p] →
      ∃ t, exec (.partialRecordRead q i) s = .next t ∧ s.sameMemory t ∧
        t.atCtx q i = { x with triples := x.triples.modify c.pos (fun e =>
          let e := { e with voided := e.voided || decide (s.presAt p = .void) }
          if l.length < n then e else saddle (bit c.who.fpcsr 3) e (.ofRecord l)) } ∧
        t.cmdsOf .at q i = updFirst (fun _ => if l.length < n then { c with regs := c.regs ++ [syncValue s p] }
          else { c with regs := c.regs.take 12, pos := c.pos + 1, finished := decide (x.rows ≤ c.pos + 1) }) (s.cmdsOf .at q i)) ∧
    (∀ code va, c.op = 8 → code ≠ 0x09 → s.atOutput q i c = .error (.trap code va) → exec (.attentionBlockUpdate q i) s =
      .next ((s.setAt q i { x with fail := code, triples := x.triples.map (fun t => { t with voided := true }) }).setActive .at q i
        { c with ending := some (1, code, 0), miss := none, place := none }))

/-- The A words of row `m` and group `g` of a step lie at `p` and on, with their translations held, and none of them is EMPTY or waited for. -/
def Sys2Proof.Said.ARow (s : State) (st : MxStep) (m g p : Nat) : Prop :=
  HeldWords s st.who .data (reg st.regs 1 + word (m * (reg st.regs 2).toNat + 32 * g * mxEa st.regs)) (4 * mxEa st.regs) p ∧
    ∀ i, i < 4 * mxEa st.regs → s.presAt (p + 8 * i) ≠ .empty ∧ s.queuedBefore s.seq (p + 8 * i) = false

/-- sign(x)·floor(|x|) of x = ±m·2^e. -/
def Sys2Proof.Said.trunc2 (neg : Bool) (m : Nat) (e : Int) : Int :=
  (if neg then -1 else 1) * ((if 0 ≤ e then m * 2 ^ e.toNat else m / 2 ^ (-e).toNat : Nat) : Int)

/-- R317: the block of 32 elements `a` is finite, with integers `X` and shift `e`. -/
def Sys2Proof.Said.BlockInts (afmt : Nat) (fzi : Bool) (a : Nat → Nat) (X : Nat → Int) (e : Int) : Prop :=
  (afmt = 0 → e = 0 ∧ ∀ i, i < 32 → X i = (BitVec.ofNat 8 (a i)).toInt) ∧
  (afmt ≠ 0 → ∃ (n : Nat → Bool) (m : Nat → Nat) (k : Nat → Int),
    (∀ i, i < 32 → (if afmt = 1 then Fmt.e4m3 else Fmt.bf16).decodeFlush (fzi && decide (afmt = 1)) (a i) = .fin (n i) (m i) (k i)) ∧
    (((∀ i, i < 32 → m i = 0 ∧ X i = 0)) ∨
      ∃ top : Int, (∃ i, i < 32 ∧ m i ≠ 0 ∧ top = (Nat.log2 (m i) : Int) + k i) ∧
        (∀ i, i < 32 → m i ≠ 0 → (Nat.log2 (m i) : Int) + k i ≤ top) ∧ e = top - (if afmt = 1 then 15 else 23) ∧
        ∀ i, i < 32 → X i = trunc2 (n i) (m i) (k i - e)))

/-- T_j of R318: the sum of Y_i = X_π(i) from place c_j on. -/
def Sys2Proof.Said.terrace (perm : Nat) (X : Nat → Int) (j : Nat) : Int :=
  ((List.range 32).filter (fun i => decide ((if j = 0 then 0 else perm / 2 ^ (160 + 6 * (j - 1)) % 64) ≤ i))).foldl
    (fun a i => a + X (perm / 2 ^ (5 * i) % 32)) 0

/-- d_j of a codebook entry (R316). -/
def Sys2Proof.Said.stepOf (df book j : Nat) : Nat :=
  if df = 8 then book / 2 ^ (8 * (3 + j)) % 256 else book / 2 ^ (8 * (4 + (j - 1) / 2) + 4 * ((j - 1) % 2)) % 16

/-- R318, R319: the term of column entry `perm` and codebook `book` with base ±bm·2^be and step ±qm·2^qe, truncated toward zero at 2^E_c. -/
def Sys2Proof.Said.termOf (l df perm book : Nat) (X : Nat → Int) (e ec : Int) (bs qs : Bool) (bm qm : Nat) (be qe : Int) : Int :=
  let P : Int := (List.range (2 ^ l - 1)).foldl (fun a j => a + (stepOf df book (j + 1) : Int) * terrace perm X (j + 1)) 0
  let M : Int := (if bs then -1 else 1) * (bm : Int) * terrace perm X 0 * 2 ^ (be - min be qe).toNat +
    (if qs then -1 else 1) * (qm : Int) * P * 2 ^ (qe - min be qe).toNat
  trunc2 (decide (M < 0)) M.natAbs (min be qe + e - ec)

/-- R319: what a micro-tile does to element `k`: `void` tells that its row is VOID, `term` is t, none where the term is non-finite. -/
def Sys2Proof.Said.ElemGives (x y : MxCore) (k : Nat) (void : Bool) (term : Option Int) : Prop :=
  let same := tabGet 0 y.total k = tabGet 0 x.total k ∧ tabGet false y.satf k = tabGet false x.satf k
  (tabGet false x.voidm k = true → same ∧ tabGet false y.voidm k = true ∧ tabGet false y.inval k = tabGet false x.inval k) ∧
  (tabGet false x.voidm k = false → void = true → same ∧ tabGet false y.voidm k = true ∧ tabGet false y.inval k = tabGet false x.inval k) ∧
  (tabGet false x.voidm k = false → void = false → tabGet false y.voidm k = false ∧
    (term = none → same ∧ tabGet false y.inval k = true) ∧
    (∀ t, term = some t → tabGet false y.inval k = tabGet false x.inval k ∧
      tabGet 0 y.total k = tabGet 0 x.total k + max (-(2 ^ 63)) (min (2 ^ 63 - 1) t) ∧
      tabGet false y.satf k = (tabGet false x.satf k || decide (t < -(2 ^ 63)) || decide (2 ^ 63 - 1 < t))))

/-- R319, R327, R334: a step starts once every core of its row has issued the step of its number with the reader's a, b, M and afmt; a
core that differs takes 0x50 with EVAL 0x1000. A micro-tile is done on every core of the row that lacks it, and the step of a core whose last
one it is ends: its thread goes on and MXDONE is 0. A bad entry holds the step and raises 0x52; a page of the B-slice that failed its hash
check raises 0x0A, with the offset in the B-slice (the offset is the model's choice, log entry 64). A micro-tile changes each element as
R316–R319 say: its totals, its marks.

TILE_STEP_START completes where the row is whole, and MICRO_TILE, stated for a solo step, where its A words lie in memory with their
translations held and its permutation entries are good. -/
def Obligations.MatrixEvents : Prop :=
  ∀ (s : State) (core : Nat) (st : MxStep), (s.mxAt core).running = some st →
    (st.started = false → ∀ row rd differs, row = s.paired core st false → row.find? (fun e => decide (mxTc e.2.regs = 0)) = some rd →
      (∀ j, j < 2 ^ mxSc st.regs → ∃ e ∈ row, mxTc e.2.regs = j) →
      differs = (fun e : Nat × MxStep => decide (e.2.a ≠ rd.2.a) || decide (e.2.b ≠ rd.2.b) || decide (mxM e.2.regs ≠ mxM rd.2.regs) ||
        decide (mxAfmt e.2.regs ≠ mxAfmt rd.2.regs)) →
      (row.filter differs = [] → exec (.tileStepStart core) s = .next (row.foldl (fun s e => s.putMx e.1
        { s.mxAt e.1 with held := none, running := some { e.2 with started := true, miss := none, places := [], got := [] } }) s)) ∧
      (row.filter differs ≠ [] → exec (.tileStepStart core) s = .next ((row.filter differs).foldl (fun s e =>
        (s.putMx e.1 { s.mxAt e.1 with
          running := none, held := none, steps := tabPut 0 (s.mxAt e.1).steps (mxRowKey e.2.regs) e.2.index }).setSlot e.1 e.2.who.slot
            ((s.slotAt e.1 e.2.who.slot).raise 0x50 0x1000)) s))) ∧
    (∀ g b, st.started = true → st.miss = none → g < st.a → b < (mxM st.regs + 15) / 16 → mxTc st.regs = 0 →
      bit (s.mxAt core).mxdone (4 * g + b) = false →
      (mxSolo st.regs = true → 4 * g + b < 64 → mxM st.regs ≤ 64 → mxN st.regs ≤ 64 → mxL st.regs ≤ 4 → mxDf st.regs = 4 ∨ mxDf st.regs = 8 →
        st.places = [] → st.got = [] → Calm s → ∀ p : Nat → Nat, (∀ m ∈ bandRows (mxM st.regs) b, ARow s st m (st.b + g) (p m)) →
        (∀ n, n < mxN st.regs → permOk (mxL st.regs) (s.permEntry core st.regs n (st.b + g)) = true) →
        ∃ t, exec (.microTile core g b) s = .next t ∧ s.sameMemory t ∧
          (bit (t.mxAt core).mxdone (4 * g + b) = true ∨
            ((t.mxAt core).running = none ∧ (t.mxAt core).mxdone = 0 ∧ (t.mxAt core).groups = (s.mxAt core).groups + st.a)) ∧
          ∀ m ∈ bandRows (mxM st.regs) b, ∀ n, n < mxN st.regs → ∀ (a : Nat → Nat) (perm book : Nat) (void : Bool),
            a = (fun i => s.peek (p m + i * mxEa st.regs) (mxEa st.regs)) →
            perm = s.peek (bsBase + core * 1048576 + 16384 * n + (reg st.regs 4).toNat + 32 * (st.b + g)) 32 →
            book = s.peek (bsBase + core * 1048576 + 16384 * n + (reg st.regs 5).toNat + 32 * ((st.b + g) / 8)) 32 →
            void = decide (∃ i < 4 * mxEa st.regs, s.presAt (p m + 8 * i) = .void) →
            (∀ (X : Nat → Int) (e : Int) (bs qs : Bool) (bm qm : Nat) (be qe : Int), BlockInts (mxAfmt st.regs) (bit st.who.fpcsr 2) a X e →
              Fmt.bf16.decode (book % 2 ^ 16) = .fin bs bm be → Fmt.bf16.decode (book / 2 ^ 16 % 2 ^ 16) = .fin qs qm qe →
              ElemGives (s.mxAt core) (t.mxAt core) (64 * m + n) void
                (some (termOf (mxL st.regs) (mxDf st.regs) perm book X e (s.mxAt core).ec bs qs bm qm be qe))) ∧
            ((mxAfmt st.regs ≠ 0 ∧ (∃ i, i < 32 ∧ ∀ n m k, (if mxAfmt st.regs = 1 then Fmt.e4m3 else Fmt.bf16).decodeFlush
                (bit st.who.fpcsr 2 && decide (mxAfmt st.regs = 1)) (a i) ≠ .fin n m k)) ∨
              (∀ n m k, Fmt.bf16.decode (book % 2 ^ 16) ≠ .fin n m k) ∨ (∀ n m k, Fmt.bf16.decode (book / 2 ^ 16 % 2 ^ 16) ≠ .fin n m k) →
              ElemGives (s.mxAt core) (t.mxAt core) (64 * m + n) void none)) ∧
      (∀ z t, s.aBlocks st (4 * g + b) (st.b + g) (bandRows (mxM st.regs) b) = .ok (none, z, t) →
        exec (.microTile core g b) s = .next (t.setMx core { t.mxAt core with running := some z })) ∧
      ∀ rows z t, s.aBlocks st (4 * g + b) (st.b + g) (bandRows (mxM st.regs) b) = .ok (some rows, z, t) → ∀ row,
      row = (t.tileRow core z).filter (fun e => !bit (t.mxAt e.1).mxdone (4 * g + b)) →
      (∀ l, t.tileCores g b rows row = .ok l → ∃ u v, u = (l.foldl (fun s e => s.setMx e.1 e.2) t).countTimed st.who.acct.toNat 17 ∧
        v = u.setMx core { u.mxAt core with running := some (z.spent (4 * g + b)) } ∧
        exec (.microTile core g b) s = .next (v.rowDone (v.tileRow core z))) ∧
      (∀ c w code va, t.tileCores g b rows row = .error (c, w, .trap code va) →
        exec (.microTile core g b) s = .next ((t.stepFault c w code va).stepsWait ((t.tileRow core z).map (·.1))))) ∧
    (∀ c g b rows n, (List.range (mxN st.regs)).find? (fun n => s.bsBad c (16384 * n + (reg st.regs 4).toNat + 32 * (st.b + g))) = some n →
      s.tileCore c st g b rows = .error (.trap 0x0A (word (16384 * n + (reg st.regs 4).toNat + 32 * (st.b + g))))) ∧
    (st.who.slot < 16 → ∃ t, t = s.stepEnd core st ∧ (t.slotAt core st.who.slot) = (s.slotAt core st.who.slot).advance ∧
      (t.mxAt core).running = none ∧ (t.mxAt core).mxdone = 0 ∧ (t.mxAt core).groups = (s.mxAt core).groups + st.a)

/-- A copy that has not ended, the first outstanding command of its context, which holds copies only. -/
def Sys2Proof.Said.FirstCopy (s : State) (cl i : Nat) (c : Cmd) : Prop :=
  (∃ l, (s.cmdsOf .cp cl i).filter (fun c => !c.finished) = c :: l ∧ ∀ x ∈ l, x.op = 2) ∧ c.op = 2 ∧ c.miss = none

/-- The commands of a copy context once `c` has completed: it stands behind those that completed before it, and before those that have not
(R336: STAT describes the last to complete). -/
def Sys2Proof.Said.completed (s : State) (cl i : Nat) (c : Cmd) : State :=
  s.setCmds .cp cl i ((s.cmdsOf .cp cl i).filter (·.finished) ++ [{ c with finished := true }] ++
    (s.cmdsOf .cp cl i).filter (fun x => !x.finished && decide (x.id ≠ c.id)))

/-- R21, R339–R348: a unit of a copy: a destination page, the value of a register copy and its delivery, the bytes that it owes its completion
word, the end; a save or a restore command's; and the completion of commands: STAT is FULL once none of the context is left, and describes the
last to complete. A completion word whose page is declined ends its copy with 0x62, and is not updated again (R399). A restore reads its
record's sections; a section of kind 1 gives a slot its pc and its registers with their presence (R346).

COPY_PAGE completes for a plain copy whose source and destination lie in memory with their translations held, and for one that is done;
COPY_REGISTER_DELIVERY for a value that has been read; ENGINE_COMMAND_COMPLETE for finished commands. -/
def Obligations.CopyEvents : Prop :=
  (∀ (s : State) (cl i : Nat) (c : Cmd), FirstCopy s cl i c → ∀ r, r = c.regs →
    (c.ending = none → reg r 6 = 0 → reg r 7 = 0 → Calm s → c.got = [] → c.owed = 0 → ∀ n y z, (reg r 2).toNat = c.pos + 8 * n → 0 < n →
      HeldWords s c.who (.copy cl) (reg r 0 + word c.pos) n y → HeldWords s c.who (.copy cl) (reg r 1 + word c.pos) n z → z % 8 = 0 →
      ∃ t k, exec (.copyPage cl i) s = .next t ∧ 0 < k ∧ k ≤ n ∧
        (∀ j, j < k → t.peek (z + 8 * j) 8 = s.peek (y + 8 * j) 8 ∧ t.presAt (z + 8 * j) = .full) ∧ sameBut s t [(z, 8 * k)] ∧
        t.cmdsOf .cp cl i = (s.cmdsOf .cp cl i).map (fun x =>
          if x.id = c.id ∧ x.finished = false then { c with pos := c.pos + 8 * k, place := none } else x)) ∧
    (cpKind r ≠ 2 → cpStamp r = false → reg r 7 = 0 → c.owed = 0 → cpTotal r ≤ c.pos →
      exec (.copyPage cl i) s = .next (completed s cl i c)) ∧
    (c.owed ≠ 0 → ∀ t, s.cpPay cl i c = .ok t → t ≠ s → exec (.copyPage cl i) s = .next t) ∧
    (cpKind r ≠ 2 → c.owed = 0 → c.pos < cpTotal r → ∀ t, t ≠ s →
      (c.ending = none → s.cpPage cl i true c = .ok t → exec (.copyPage cl i) s = .next t) ∧
      (c.ending ≠ none → s.cpVoidPage cl i true c = .ok t → exec (.copyPage cl i) s = .next t)) ∧
    (cpKind r ≠ 2 → c.owed = 0 → cpTotal r ≤ c.pos → ∀ t, s.cpFinish cl i c = .ok t → t ≠ s → exec (.copyPage cl i) s = .next t) ∧
    (cpKind r = 2 → c.owed = 0 → c.ending = none → c.pos = 0 → ∀ t, s.cpRegRead cl i c = .ok t → t ≠ s → exec (.copyPage cl i) s = .next t) ∧
    (cpKind r ≠ 2 → c.owed = 0 → c.ending = none → c.pos < cpTotal r → ∀ code va, code ≠ 0x62 → code ≠ 0x09 →
      s.cpPage cl i true c = .error (.trap code va) → exec (.copyPage cl i) s =
        .next (s.setCp cl i { c with ending := some (1, code, 0), miss := none, place := none }))) ∧
  (∀ (s : State) (cl i : Nat) (c : Cmd), (s.cmdsOf .cp cl i).filter (fun c => !c.finished) = [c] → c.miss = none →
    (c.op = 5 → exec (.copyPage cl i) s = .next (s.saveUnit cl i c)) ∧
    (c.op = 6 → exec (.copyPage cl i) s = s.restoreUnit cl i c ∧
      ∀ r, s.restores.find? (fun r => decide (r.ctx = (cl, i, c.id))) = some r → c.ending = none →
        (r.started = false → ∀ l u, s.readSections c.who (.copy cl) r.addr r.len (r.len / 16 + 1) 256 = .ok (l, u) →
          ∃ t, exec (.copyPage cl i) s = .next t ∧ t.restores = u.restores.map (fun v => if v = r then r.read l else v)) ∧
        (r.started = true → r.todo = [] → ∃ t, exec (.copyPage cl i) s = .next t ∧ (∀ v, v ∈ t.restores ↔ v ∈ s.restores ∧ v ≠ r)))) ∧
  (∀ (old : Slot) (b : List Word), (slotOf old b).pc = b.getD 0 0 ∧
    (∀ n : BitVec 5, n ≠ 0 → (slotOf old b).gp n = (b.getD (2 + n.toNat) 0,
      presOfCode (fld (b.getD (294 + n.toNat / 32) 0) (2 * (n.toNat % 32)) 2))) ∧
    (∀ n : BitVec 4, ((slotOf old b).vp n).2 = presOfCode (fld (b.getD (294 + (32 + n.toNat) / 32) 0) (2 * ((32 + n.toNat) % 32)) 2) ∧
      ∀ j, j < 16 → ((slotOf old b).vp n).1.extractLsb' (64 * j) 64 = b.getD (34 + 16 * n.toNat + j) 0)) ∧
  (∀ (s : State) (cl i : Nat) (c : Cmd) (m : Miss) (perm : Bool), cl ≠ 64 → s.missed .cp cl i = some c → c.miss = some m →
    (∀ v ∈ s.saves, v.miss = none) → m.access = .readWrite → reg c.regs 7 ≠ 0 → m.va = reg c.regs 7 →
    exec (.pagerDecline (.engine .cp cl i) perm) s = .next (s.setCp cl i { c.end 1 0x62 0 with miss := none, regs := c.regs.set 7 0 })) ∧
  (∀ (s : State) (cl i : Nat) (c : Cmd), (s.cmdsOf .cp cl i).find? (fun c => !c.finished && decide (c.op = 2) && decide (cpKind c.regs = 2)) =
      some c → c.miss = none → c.pos ≠ 0 → cpStamp c.regs = false → reg c.regs 7 = 0 →
    ∀ core r u v, s.placeOf c.who.core c.who.place c.who.rbase c.who.rlen (word (fld (reg c.regs 1) 16 16)) = (some core, u) →
      r = (if bit (reg c.regs 1) 5 then Src.v (BitVec.ofNat 4 (fld (reg c.regs 1) 0 4)) else Src.g (BitVec.ofNat 5 (fld (reg c.regs 1) 0 5))) →
      v = (fun (x : VWord) (p : Presence) => u.deliver c.who.acct.toNat core (fld (reg c.regs 1) 6 3) r x p) →
      (c.ending = none → exec (.copyRegisterDelivery cl i) s =
        .next (completed ((if c.b = 1 then v 0 .void else v c.vec .full).countEv c.who.acct.toNat 7 (cpTotal c.regs)) cl i c)) ∧
      (c.ending ≠ none → exec (.copyRegisterDelivery cl i) s = .next (completed (v 0 .void) cl i c))) ∧
  ∀ (s : State) (cl i : Nat) (d e : Cmd),
    (s.cmdsOf .cp cl i = [d] → d.finished = true →
      exec (.engineCommandComplete .cp cl i) s = .next ((s.setCmds .cp cl i []).statFull .cp cl i (cpStat d))) ∧
    (s.cmdsOf .cp cl i = [d, e] → d.finished = true → e.finished = false →
      exec (.engineCommandComplete .cp cl i) s = .next (s.setCmds .cp cl i [e])) ∧
    (s.cmdsOf .cp cl i = [d, e] → d.finished = true → e.finished = true →
      exec (.engineCommandComplete .cp cl i) s = .next ((s.setCmds .cp cl i []).statFull .cp cl i (cpStat e))) ∧
    (s.cmdsOf .fx cl i = [d] → d.finished = true →
      exec (.engineCommandComplete .fx cl i) s = .next ((s.setCmds .fx cl i []).statFull .fx cl i (fxStat d)))

/-- R355–R363, R378: a mask production takes its next chunk, or writes the ready word, FULL, as its end. A message of a collective
is combined, written, held or answered; a notice, a timeout or a mismatch ends its command; a matched pair moves its data. A send or receive
of another package meets its partner here, or, where the partner has ended, is answered with a notice. That a notice for a command that is not
accepted is discarded is the model's reading (DEDUCED, log entry 25).

Each of MASK_PRODUCTION_CHUNK, MASK_READY, FABRIC_MESSAGE, FABRIC_NOTICE, COLLECTIVE_TIMEOUT and P2P_TRANSFER completes: a chunk that is in
the cache, and a ready word, that lie in memory with their translations held; a pair whose source does so. -/
def Obligations.MaskAndFabricEvents : Prop :=
  (∀ (s : State) (die i : Nat) (p : MkProd), s.prodOf die i = some p → p.miss = none →
    (p.chunk < mkNch p.regs → Calm s → ∀ y, HeldWords s p.who .die (mkChunkAddr p.regs p.state p.top p.chunk 0) 8 y →
      (∀ j, j < 8 → s.presAt (y + 8 * j) = .full) → ∃ t, exec (.maskProductionChunk die i) s = .next t ∧ s.sameMemory t ∧
        t.prodOf die i = some (p.take ((List.range 8).map (fun j => s.peek (y + 8 * j) 8)))) ∧
    (p.chunk = mkNch p.regs → Calm s → ∀ y, HeldWords s p.who .die (reg p.regs 9) 1 y → y % 8 = 0 → ∃ t, exec (.maskReady die i) s = .next t ∧
      t.prodOf die i = none ∧ t.peek y 8 = (readyWord p).toNat ∧ t.presAt y = .full ∧ sameBut s t [(y, 8)]) ∧
    (p.chunk < mkNch p.regs → ∀ q t, s.mkChunk p = .ok (q, t) →
      exec (.maskProductionChunk die i) s = .next (t.setProd die i (some q))) ∧
    (p.chunk < mkNch p.regs → ∀ code va, code ≠ 0x09 → s.mkChunk p = .error (.trap code va) →
      exec (.maskProductionChunk die i) s = .next (s.mkFail die i p code)) ∧
    (p.chunk = mkNch p.regs → ∀ a t, s.mkWord p.who .write (reg p.regs 9) = .ok (a, t) →
      exec (.maskReady die i) s = .next ((t.pokeWord a (readyWord p) .full).setProd die i none))) ∧
  (∀ (s t : State) (die i : Nat) (m : FabMsg), die < 4 → i < 320 →
    t = { s with fabNet := s.fabNet.erase ((die, i), m) } →
    (t.fxFate die i m = .hold → exec (.fabricMessage die i m) s = .next { t with fabNet := t.fabNet ++ [((die, i), m)] }) ∧
    (t.fxFate die i m = .late → exec (.fabricMessage die i m) s = .next (t.sendNotice die 0xFF m.package m.die m.ctx
      ⟨m.key.tag, m.key.seq, none, 2, m.receiver⟩)) ∧
    (∀ c, t.fxFate die i m = .mismatch c → exec (.fabricMessage die i m) s = .next (t.fxEnd die i c 4 0x73 m.sender)) ∧
    (∀ c f x y, t.fxFate die i m = .combine c f x y → exec (.fabricMessage die i m) s = .next ((t.setFx die i
      { c with fab := some { f with acc := some (fxCombine f.key.op f.key.dcode x y), level := f.level + 1 } }).fxProgress die i c.id)) ∧
    (∀ c f d, t.fxFate die i m = .result c f d → exec (.fabricMessage die i m) s =
      .next ((t.setFx die i { c with fab := some { f with result := some d } }).fxProgress die i c.id))) ∧
  (∀ (s t : State) (die i : Nat) (n : FabNotice), die < 4 → i < 320 → n.p2p = none →
    t = { s with fabNotices := s.fabNotices.erase ((die, i), n) } →
    (∀ c f, t.fxMatch die i n.tag n.seq = some (c, f) → 1 ≤ n.status → n.status ≤ 4 →
      exec (.fabricNotice die i n) s = .next (t.fxEnd die i c n.status (0x6F + n.status) n.culprit)) ∧
    (t.fxMatch die i n.tag n.seq = none → exec (.fabricNotice die i n) s = .next t)) ∧
  (∀ (s : State) (die i : Nat) (c : Cmd) (f : FabCmd), die < 4 → i < 320 → (s.cmdsOf .fx die i).find? s.fxExpired = some c →
    c.fab = some f → exec (.collectiveTimeout die i) s = .next (s.fxEnd die i c 2 0x71 (c.awaited f).1)) ∧
  (∀ (s : State) (die i package pd pc : Nat) (m : PeerMsg), die < 4 → i < 320 → m.done = false →
    (∀ c f, s.fxRemote die i package pd pc m = some c → c.fab = some f →
      (c.ending.isSome = true → exec (.p2pTransfer die i (.remote package pd pc m)) s =
        .next (s.sendNotice die 0xFF package pd pc ⟨m.tag, m.seq, some (m.named, m.send), 2, m.named⟩)) ∧
      (c.open = true → (reg c.regs 5).toNat = m.len → c.op = 4 → exec (.p2pTransfer die i (.remote package pd pc m)) s =
        .next ((s.setFx die i { c with fab := some { f with result := some m.data } }).fxSettle die i c.id)) ∧
      (c.open = true → (reg c.regs 5).toNat ≠ m.len → exec (.p2pTransfer die i (.remote package pd pc m)) s =
        .next ((s.setFx die i (c.end 4 0x73 m.issuer)).fxSettle die i c.id))) ∧
    (s.fxRemote die i package pd pc m = none → m.seq < tabGet 0 s.p2p (p2pKey die i m.tag m.issuer m.send) →
      exec (.p2pTransfer die i (.remote package pd pc m)) s =
        .next (s.sendNotice die 0xFF package pd pc ⟨m.tag, m.seq, some (m.named, m.send), 2, m.named⟩))) ∧
  (∀ (s : State) (die i pd pc : Nat) (rc sc : Cmd), die < 4 → i < 320 → s.fxLocalPair die i pd pc = some (rc, sc) →
    rc.miss = none → sc.miss = none →
    (reg rc.regs 5 = reg sc.regs 5 → Calm s → sc.got = [] → bit (reg sc.regs 6) 4 = false → ∀ n y, (reg sc.regs 5).toNat = 8 * n →
      s.fxClear pd pc sc [(reg sc.regs 3, 8 * n)] = true → HeldWords s sc.who .die (reg sc.regs 3) n y →
      ∃ t, s.sameMemory t ∧ t.cmds = s.cmds ∧ exec (.p2pTransfer die i (.here pd pc)) s =
        .next (((t.setFx pd pc { sc with place := none }).setFx die i
          (rc.withResult ((wordsAt s y n).map (fun v => (v, false))))).fxSettle die i rc.id)) ∧
    (reg rc.regs 5 = reg sc.regs 5 → ∀ d x t, s.fxSource pd pc sc = .ok (some d, x, t) → exec (.p2pTransfer die i (.here pd pc)) s =
      .next (((t.setFx pd pc x).setFx die i (rc.withResult d)).fxSettle die i rc.id)) ∧
    (reg rc.regs 5 ≠ reg sc.regs 5 → exec (.p2pTransfer die i (.here pd pc)) s = .next
      ((((s.setFx die i (rc.end 4 0x73 sc.rank)).setFx pd pc (sc.end 4 0x73 rc.rank)).fxSettle die i rc.id).fxSettle pd pc sc.id)))

/-! ### Launches, tenants, evictions, saves (R117, R127, R136, R231–R252, R346–R348) -/

/-- R127, R231–R235: a dispatch binds the next fibre of the selected launch to its slot: READY in mode U at the launch's entry, with
g1 the arguments, g2 the linear index, and g28 and g30 the bounds of its slice. A queue that has waited rises one level. A thread
whose fault has escalated, and a STOPPED slot, are ended. A tenant exists from boot step 6 on, and is installed by its record: every
slot of its region, a slot that holds a thread keeping it; one whose resident slot another tenant's resident fibre holds is refused. A host
whose mailbox ABI has no major in common is refused at VF_ENABLE (R390). That every install of a tenant that is not installed raises its
generation, and that the roots of its weight sets enter the attestation log with the install, are the model's choices (DESIGN CHOICE, log
entry 63). FIBRE_DISPATCH, QUEUE_AGING, FAULTED_BEYOND_RECOVERY, STOPPED_SLOT_CLEAR, VF_ENABLE and TENANT_INSTALL complete here. -/
def Obligations.LaunchEvents : Prop :=
  ∀ s : State,
    (∀ die k l core slot off t, die < 4 → core < 1024 → slot < 7 →
      s.select die (s.candidates die) = some ((k, l, core, slot, off), t) →
      ∃ u f, exec (.fibreDispatch die) s = .next u ∧ f = u.slotAt core slot ∧ f.state = .ready ∧ f.pc = l.entry ∧ f.mode = 0 ∧
        f.gp 1 = (l.args, .full) ∧ f.gp 2 = (word l.next, .full) ∧ f.gp 28 = (l.lmva + word off, .full) ∧
        f.gp 30 = (l.lmva + word off + word l.lmbytes, .full) ∧ f.csrv 0x031 = l.budget ∧ f.csrv 0x009 = word (l.serial + k % 8 * 2 ^ 32) ∧
        f.occupant = .fibre (k / 8) (k % 8) l.serial l.next ∧ f.lastIssue = (s.slotAt core slot).lastIssue) ∧
    (∀ die, die < 4 → s.select die (s.candidates die) = none → exec (.fibreDispatch die) s = .next s) ∧
    (∀ t q x, t < 128 → q < 8 → x = s.queueAt t q →
      (s.waiting t q = false → exec (.queueAging t q) s = .next (s.setQueue t q { x with since := none, boost := 0 })) ∧
      (s.waiting t q = true → x.since = none → exec (.queueAging t q) s = .next (s.setQueue t q { x with since := some s.time.toNat })) ∧
      (∀ b, s.waiting t q = true → x.since = some b → exec (.queueAging t q) s =
        .next (s.setQueue t q { x with boost := if x.boost < min 7 ((s.time.toNat - b) / 4000000) then x.boost + 1 else x.boost }))) ∧
    (∀ core slot sl, slotExists core slot = true → sl = s.slotAt core slot →
      (sl.state = .stopped ∨ (sl.state ≠ .free ∧ sl.mode = 3 ∧ sl.entered = false) →
        exec (.faultedBeyondRecovery core slot) s = .next (s.leaveSlot core slot .faulted)) ∧
      (sl.state = .free ∨ (sl.state ≠ .stopped ∧ (sl.mode ≠ 3 ∨ sl.entered = true)) →
        exec (.faultedBeyondRecovery core slot) s = .next s) ∧
      (sl.state = .stopped → exec (.stoppedSlotClear core slot) s = .next (s.leaveSlot core slot .faulted)) ∧
      (sl.state ≠ .stopped → exec (.stoppedSlotClear core slot) s = .next s)) ∧
    (∀ t a, t < 128 → (6 ≤ s.boot % 256 → a.abiMajor = 1 → exec (.vfEnable t a) s = .next (s.setTenant t { s.tenantAt t with
        enabled := true, mailbox := a.mailbox, installed := (s.tenantAt t).enabled && (s.tenantAt t).installed })) ∧
      (s.boot % 256 < 6 ∨ a.abiMajor ≠ 1 → exec (.vfEnable t a) s = .next s)) ∧
    (∀ t r v x, t < 128 → v = s.tenantRec t → x = s.tenantAt t →
      (recOk v = false ∨ x.enabled = false → exec (.tenantInstall t r) s = .next s) ∧
      (recOk v = true → x.enabled = true → s.residentTaken t = true →
        exec (.tenantInstall t r) s = .next (s.setTenant t { x with refused := true })) ∧
      (∀ u : State, recOk v = true → x.enabled = true → s.residentTaken t = false →
        u = { s.setTenant t { x with
          gen := if x.installed then x.gen else x.gen + 1, roots := r, installed := true, refused := false } with
            attest := s.attest ++ r.weightRoots } →
        exec (.tenantInstall t r) s = .next (((List.range (recLen v)).foldl (fun v' i =>
          let core := recBase v + i
          let v' := (List.range 7).foldl (fun v' n => if v'.mayInstall t core n then v'.installSlot t core n else v') v'
          let v' := v'.installRegion t core 0
          if v'.mayInstall t core 7 then v'.installTransform t core else v') (u.identityTable t)).bindResident t)) ∧
      (∀ core n old, core < 1024 → n < 8 → old = s.slotAt core n →
        (old.state = .free → (s.installSlot t core n).slotAt core n = { old.cleaned with
          csr := tabPut 0 (installCsrs x v old.cleaned.csr) 0 (mkStatus t n false 0 0), gen := x.gen.toNat, owner := some t }) ∧
        (old.state ≠ .free → (s.installSlot t core n).slotAt core n = { old with
          csr := regionCsrs x v old.csr, gen := x.gen.toNat, owner := some t }.setTenant t)))

/-- R239–R247, R346–R348: a posting is refused within 12,000 ns of its deadline or over another eviction; an evaluation lets a queue
finish, saves it or discards it, in that order of preference; the forced instant discards what has not finished. A slot's sections
are written, then the complete bit; a restore binds a fibre where one finds a place; an empty slot of the interval is cleaned, and with
it what no slot holds of the core's LM. EVICTION_POSTING, EVICTION_EVALUATION, FORCED_INSTANT, SAVE_SECTIONS_WRITE, SAVE_COMPLETE_BIT,
RESTORE_BIND and SLOT_CLEANING complete here. A restore binds nothing while an eviction holds its launch, and a fibre that it binds ends its
queue's wait (R232). The model's choices: that evaluations and saves are charged under codes 10 and 11, by a free number of cycles (log entry
3); that a cleaned slot below 7 leaves the TLBs as they are and that cleaning clears all LM that no slice holds (DEDUCED, log entry 33); that a
restored fibre waits on at the barrier where it arrived (DESIGN CHOICE, log entry 61). -/
def Obligations.EvictionEvents : Prop :=
  ∀ s : State,
    (∀ b n (d : Word) i, 1 ≤ n → b + n ≤ 1024 →
      (d.toNat < s.time.toNat + 12000 → exec (.evictionPosting b n d i) s = .next s) ∧
      ((∃ e ∈ s.evicts, e.done = false ∧ b < e.base + e.len ∧ e.base < b + n) → exec (.evictionPosting b n d i) s = .next s) ∧
      (s.time.toNat + 12000 ≤ d.toNat → (∀ e ∈ s.evicts, e.done = false → e.base + e.len ≤ b ∨ b + n ≤ e.base) →
        exec (.evictionPosting b n d i) s = .next { s with evicts := s.evicts ++
          [⟨b, n, d.toNat, s.time.toNat, i, (s.affected b n).map (fun q => (q.1, q.2, .rtc)), 0, [], false⟩] })) ∧
    (∀ n e t q st u, s.evictFinish.evicts[n]? = some e → e.done = false → e.queues = [(t, q, st)] →
      u = { s.evictFinish with evicts := s.evictFinish.evicts.set n { e with evals := e.evals + 1 } } →
      (st = .finished ∨ st = .discard → exec (.evictionEvaluation n) s = .next (u.countTimed t 10).evictFinish) ∧
      (st = .rtc → u.canFinish t q e.deadline = true → exec (.evictionEvaluation n) s = .next (u.countTimed t 10).evictFinish) ∧
      (st = .rtc → u.canFinish t q e.deadline = false → u.canSave t q e.deadline = true →
        exec (.evictionEvaluation n) s = .next (((u.evictSet t q .ckpt).startSave t q none).countTimed t 10).evictFinish) ∧
      (st = .ckpt → u.canSave t q e.deadline = true → exec (.evictionEvaluation n) s = .next (u.countTimed t 10).evictFinish) ∧
      (st = .ckpt ∨ (st = .rtc ∧ u.canFinish t q e.deadline = false) → u.canSave t q e.deadline = false →
        exec (.evictionEvaluation n) s = .next ((u.discardQueue t q).countTimed t 10).evictFinish)) ∧
    (∀ n e t q st, s.evicts[n]? = some e → e.done = false → e.queues = [(t, q, st)] →
      (st = .finished → exec (.forcedInstant n) s = .next s) ∧
      (st ≠ .finished → exec (.forcedInstant n) s = .next (s.discardQueue t q))) ∧
    (∀ n v core slot, s.saveAt n = some v →
      (v.control = true → exec (.saveSectionsWrite n core slot) s = .next (s.saveControl n v)) ∧
      (v.control = false → v.miss = none → v.buf ≠ [] → exec (.saveSectionsWrite n core slot) s = .next (s.saveOut n)) ∧
      (v.buf = [] → s.saveReady n (core * 16 + slot) = true → ∃ (u : State) (w : Save),
        exec (.saveSectionsWrite n core slot) s = .next ((u.saveOut n).countTimed v.tenant 11) ∧
        u.saveAt n = some w ∧ w.pending = v.pending.filter (· ≠ core * 16 + slot) ∧
        u.slotAt core slot = (if (s.slotAt core slot).entered = true then s.slotAt core slot else (s.slotAt core slot).enter) ∧
        w.fibres = v.fibres ++ [⟨s.logical v.tenant core, slot, u.slotAt core slot, s.dirtyWords core slot⟩]) ∧
      (v.complete = false → v.pending = [] → v.buf = [] → v.miss = none → v.control = false → v.written ≠ 0 →
        (∀ u, s.saveEnds v = .ok u → exec (.saveCompleteBit n) s = .next (u.saveCompleted n v)) ∧
        (∀ y, v.written < 2 ^ 40 → Calm s → HeldWords s s.saver (.copy v.cluster) v.addr 32 y → ∃ t w, exec (.saveCompleteBit n) s = .next t ∧
          t.saveAt n = some w ∧ w.complete = true ∧ t.peek y 8 = 2 ^ 63 + v.written ∧ t.peek (y + 16) 8 = v.written % 2 ^ 64 ∧
          (s.saver.acct.toNat ≠ v.tenant → ∀ i, i < 16 → t.peek (y + (128 + 8 * i)) 8 = (s.evcGet v.tenant i).toNat)))) ∧
    (∀ n r, s.restores[n]? = some r → s.restoreHeld r = true → exec (.restoreBind n) s = .next s) ∧
    (∀ n r f core slot, s.restores[n]? = some r → r.started = true → s.restoreHeld r = false → s.restoreNext r = some (f, core, slot) → slot < 16 →
      ∃ t, exec (.restoreBind n) s = .next t ∧
        (t.queueAt r.tenant r.queue).bound = some s.time.toNat ∧ (t.queueAt r.tenant r.queue).since = none ∧
        (t.queueAt r.tenant r.queue).boost = 0 ∧
        t.slotAt core slot = restoredSlot (s.slotAt core slot) f r.tenant slot (s.tenantAt r.tenant).gen.toNat ∧
        t.restores[n]? = some { r with todo := r.todo.filter (· ≠ f), cores := r.cores.filter (fun x => decide (x.core ≠ f.core)) }) ∧
    (∀ core slot e, s.evictOver core = some e → s.mayClean e core slot = true → slot < 7 → e.incoming = none →
      e.cleaned.length + 1 ≠ 8 * e.len → ∃ t, exec (.slotCleaning core slot) s = .next t ∧
        t.slotAt core slot = (s.slotAt core slot).cleaned ∧ t.pcsr = s.pcsr ∧ t.tlb = s.tlb ∧
        (∀ m ∈ t.putNet, m ∈ s.putNet) ∧
        ∀ x, x < 524288 → (∀ i, i < 7 → i ≠ slot → x < (s.slotAt core i).slice.1 ∨
          (s.slotAt core i).slice.1 + (s.slotAt core i).slice.2 ≤ x) → t.byteAt (lmBase + core * 524288 + x) = 0)

/-! ### Links (R367–R370) -/

/-- R367–R370: a link that the configuration enables trains with a peer of major 1 and no other; a link that goes down leaves
state 2 and nothing unacknowledged on it, and a flit that was not acknowledged takes another route to its destination; a good flit that is the
next of its channel is taken, and any other, or a bad one, changes nothing; a replay sends the unacknowledged flits of a channel again, and
counts them; CODEN is the hypervisor's, and changes with a flit of channel 3. That a flit which is taken acknowledges all that this end has
sent is the model's choice (DESIGN CHOICE, log entry 21). -/
def Obligations.LinkEvents : Prop :=
  ∀ (s : State) (die link : Nat) (k : Link), die < 4 → link < 4 → k = s.linkAt die link →
    (∀ c peer, s.config = some c → c.links.getLsbD (die * 4 + link) = true →
      (peer.major = 1 → exec (.linkUp die link peer) s = .next (s.setLink die link
        { Link.down with state := 2, peer := { peer with major := 1, minor := 0 }, coden := k.coden, codenIn := k.coden })) ∧
      (peer.major ≠ 1 → exec (.linkUp die link peer) s = .next (s.setLink die link { k with state := 0 }))) ∧
    (k.state ≠ 2 → exec (.linkDown die link) s = .next s) ∧
    (k.state = 2 → s.cmds = [] → k.unacked = [] → ∃ t, exec (.linkDown die link) s = .next t ∧
      t.linkAt die link = { k with state := 0 }) ∧
    (∀ f u, k.state = 2 → s.cmds = [] → k.unacked = [f] → f.coden = none → u = s.setLink die link { k with state := 0, unacked := [] } →
      (u.firstHop f.dst = none → exec (.linkDown die link) s = .next u) ∧
      (∀ d l, u.firstHop f.dst = some (d, l) → exec (.linkDown die link) s = .next (u.setLink d l ((u.linkAt d l).send f)))) ∧
    (∀ f : Flit, f.channel < 4 → (f.crcOk = false ∨ k.state ≠ 2 → exec (.rhoiqFlit die link f) s = .next s) ∧
      (f.crcOk = true → k.state = 2 → ∃ t, exec (.rhoiqFlit die link f) s = .next t ∧ { t with links := s.links } = s ∧
        (f.seq ≠ k.next f.channel 1 → t.linkAt die link = k) ∧
        (f.seq = k.next f.channel 1 → (t.linkAt die link).state = 2 ∧ (t.linkAt die link).next f.channel 1 = f.seq + 1 ∧
          tabGet 0 (t.linkAt die link).counts (4 * f.channel + 1) = (tabGet 0 k.counts (4 * f.channel + 1) + 1) % 2 ^ 64 ∧
          (f.coden = none → (t.linkAt die link).unacked = [] ∧ (t.linkAt die link).coden = k.coden) ∧
          (∀ v, f.coden = some v → (t.linkAt die link).codenIn = v ∧ (t.linkAt die link).coden = v ∧
            (k.coden ≠ v → (t.linkAt die link).unacked.map (fun g => (g.channel, g.coden)) = [(3, some v)]))))) ∧
    (∀ c l, c < 4 → l = k.unacked.filter (fun f => decide (f.channel = c)) → k.state = 2 → l ≠ [] →
      ∃ t, exec (.flitReplay die link c) s = .next t ∧ t.out = s.out ++ l.map (fun f => shown s (.link die link) (.flit die link f)) ∧
        (t.linkAt die link).replays = (k.replays + l.length) % 2 ^ 64 ∧ (t.linkAt die link).unacked = k.unacked) ∧
    (∀ c, c < 4 → (k.dirAt (2 * c)).flits < 256 → 256 ≤ (k.dirAt (2 * c + 1)).flits → exec (.exponentCountHalving die link c) s =
      .next (s.setLink die link { k with dirs := tabPut .start k.dirs (2 * c + 1) (k.dirAt (2 * c + 1)).halve })) ∧
    (∀ v, (k.state ≠ 2 → exec (.codenWrite die link v) s = .next (s.setLink die link { k with coden := v, codenIn := v })) ∧
      (k.state = 2 → ∃ t, exec (.codenWrite die link v) s = .next t ∧ (t.linkAt die link).coden = v ∧ (t.linkAt die link).codenIn = k.codenIn ∧
        ∃ g : Flit, (t.linkAt die link).unacked = k.unacked ++ [g] ∧ g.channel = 3 ∧ g.coden = some v ∧ g.seq = k.next 3 0))

/-! ### The host, the tenants' functions, boot and power (R384–R393) -/

/-- A slot as the function of tenant `t` is reset: one that holds a thread, or whose thread is still to be bound, is addressed by the new
generation (R260). -/
def Sys2Proof.Said.renewed (s : State) (t core slot : Nat) : Slot :=
  let sl := s.slotAt core slot
  if (sl.tenant.toNat = t ∧ sl.state ≠ .free) ∨
      ((s.tenantAt t).unbound.any (fun u => decide (u.1 = core * 16 + slot)) = true ∧ s.slots.any (fun e => decide (e.1 = core * 16 + slot)) = true)
    then { sl with gen := ((s.tenantAt t).gen + 1).toNat } else sl

/-- R252, R259, R260, R384, R385, R388, R392: what the host does. A write of the mailbox stores data and keeps presence; one of the alias
makes the word FULL; a read of the alias gives presence. Anything else is an unsupported request. Page requests end; a reset or a
disable of a function raises its generation, and a reset makes the tags of what was written under its far-tier key fail; measurements answer a
DOE request, and in recovery the step that failed. Every event of the host port, of page requests and of the tenants' functions completes here.
The model's choices: that what the host port answers counts as its own source (log entry 22), and that a destroyed key shows as failing tags
(DEDUCED, log entry 55). -/
def Obligations.HostEvents : Prop :=
  ∀ (s : State) (t off : Nat) (v : Word),
    (s.barOk t off = true → off < 0x8000 →
      exec (.hostMailboxWrite t off v) s = .next (s.poke ((s.tenantAt t).mailbox + off) 8 v.toNat) ∧
      exec (.hostAliasRead t off) s = .next (s.emit .host (.hostData (word (s.peek ((s.tenantAt t).mailbox + off) 8)))) ∧
      exec (.hostAliasWrite t off v) s = .next (s.emit .host .unsupported)) ∧
    (s.barOk t off = true → 0x8000 ≤ off → ∀ a, a = (s.tenantAt t).mailbox + (off - 0x8000) →
      exec (.hostAliasWrite t off v) s = .next (s.pokeWord a v .full) ∧
      exec (.hostAliasRead t off) s = .next (s.emit .host (.hostData (word (presCode (s.presAt a))))) ∧
      exec (.hostMailboxWrite t off v) s = .next (s.emit .host .unsupported)) ∧
    (s.barOk t off = false → exec (.hostMailboxWrite t off v) s = .next (s.emit .host .unsupported) ∧
      exec (.hostAliasWrite t off v) s = .next (s.emit .host .unsupported) ∧ exec (.hostAliasRead t off) s = .next (s.emit .host .unsupported)) ∧
    (∀ b, exec (.unsupportedRequest b) s = .next (s.emit .host .unsupported)) ∧
    exec (.hostWriteErrorReport v) s = .next (s.emit .host (.report 0 v.toNat 0)) ∧
    (∀ i p, s.pris.find? (fun p => decide (p.tenant = t) && decide (p.index = i)) = some p → p.gen ≠ (s.tenantAt t).gen →
      ∀ ok, exec (.priResponse t i ok) s =
        .next (({ s with pris := s.pris.filter (· ≠ p) } : State).emit .host (.report 0 i t))) ∧
    (∀ i core slot p m, s.pris.find? (fun p => decide (p.tenant = t) && decide (p.index = i)) = some p →
      p.gen = (s.tenantAt t).gen → p.agent = .fibre core slot → (s.slotAt core slot).state = .asleep →
      (s.slotAt core slot).miss = some m →
      ((s.slotAt core slot).wait = .none → (s.slotAt core slot).preempted = false → exec (.priResponse t i false) s =
        .next (({ s with pris := s.pris.filter (· ≠ p) } : State).raiseAt core slot 0x07 m.va)) ∧
      (∃ u : State, exec (.priResponse t i true) s = .next (u.wakePage m) ∧
        { u with atsOk := s.atsOk } = { s with pris := s.pris.filter (· ≠ p) })) ∧
    (∀ i, ∃ u, exec (.priResponseTimeout t i) s = .next u ∧ { u with pris := s.pris } = s ∧
      (∀ p, p ∈ u.pris ↔ p ∈ s.pris ∧ ¬ (p.tenant = t ∧ p.index = i ∧ p.issued + s.priTimeout ≤ s.time.toNat))) ∧
    (t < 128 → ∃ u, exec (.vfDisable t) s = .next u ∧ { u with tenants := s.tenants, slots := s.slots } = s ∧
      u.tenantAt t = { s.tenantAt t with gen := (s.tenantAt t).gen + 1, enabled := false } ∧
      ∀ core slot, u.slotAt core slot = renewed s t core slot) ∧
    (t < 128 → (∀ e ∈ s.slots, ¬ (e.2.occupant = .resident ∧ e.2.owner = some t)) → ∃ u, exec (.functionLevelReset t) s = .next u ∧
      u.tenantAt t = { s.tenantAt t with
        gen := (s.tenantAt t).gen + 1, unbound := (s.tenantAt t).unbound.filter (fun e => decide (e.1 / 16 < 1024)) } ∧
      (∀ n, n < 16 → tabGet 0 u.evc (t * 16 + n) = 0) ∧ (∀ e, e ∈ u.atsOk ↔ e ∈ s.atsOk ∧ e.1 ≠ t) ∧
      (∀ a, a ∈ s.badTags → a ∈ u.badTags) ∧ (∀ k, tabGet 0 s.farKeys k = t + 1 → 4096 * k ∈ u.badTags) ∧
      ∀ core slot, u.slotAt core slot = renewed s t core slot) ∧
    (s.boot % 256 < 2 → exec (.doeRequest 0) s = .next (s.emit .host (.recovery (s.boot % 256 + 1)))) ∧
    (t < 129 → ¬ (t = 0 ∧ s.boot % 256 < 2) →
      (t = 0 ∨ (s.tenantAt (t - 1)).enabled = true → exec (.doeRequest t) s = .next (s.emit .host (.measurements t s.attest))) ∧
      (t ≠ 0 → (s.tenantAt (t - 1)).enabled = false → exec (.doeRequest t) s = .next s))

/-- R46, R48, R51–R53, R387–R393: a cold reset leaves the package as it is at reset, at boot step 6 with a good record, at 1 with a
bad one and at 0 with bad firmware, its enabled links in training and hypervisor firmware READY in mode H on every control core; a freeze stops
every step until one; the clock steps down by 100 MHz, and over-temperature freezes the package 10 µs later. The model's choices: that the
firmware starts in slot 0, at free values (DESIGN CHOICE, log entry 34); the clock's floor (DESIGN CHOICE, log entry 12); which source reports an
error of memory (log entry 22). The tier engine zeroes, promotes and demotes pages of every leaf size, but none that is poisoned or
quarantined (DEDUCED, log entry 30); an error that cannot be repaired poisons, and one that is repaired is counted. Every event of power,
boot, the tier engine and memory errors completes here. -/
def Obligations.PowerAndMemoryEvents : Prop :=
  ∀ s : State,
    (∀ f c, configOk c = true → ∃ t, exec (.coldReset (some f) c) s = .next t ∧
      { t with slots := State.reset.slots, links := State.reset.links, drawn := s.drawn } = { State.reset with
        agenda := s.agenda, drawn := s.drawn, out := s.out, cycle := s.cycle, attest := [f, c.digest], config := some c,
        packageIndex := c.packageIndex, boot := 6 } ∧
      (∀ d l, d < 4 → l < 4 → (t.linkAt d l).state = if c.links.getLsbD (4 * d + l) then 1 else 0) ∧
      (∀ i, i < 16 → ∃ sl, t.slotAt (1024 + i) 0 = sl ∧ sl.state = .ready ∧ sl.mode = 3 ∧ sl.tenant = 0xFF ∧ sl.occupant = .hypervisor ∧
        sl.pc.toNat % 4 = 0) ∧
      ∀ core slot, slot < 16 → ¬ (slot = 0 ∧ 1024 ≤ core ∧ core < 1040) → t.slotAt core slot = State.reset.slotAt core slot) ∧
    (∀ f c, configOk c = false → exec (.coldReset (some f) c) s = .next { State.reset with
      agenda := s.agenda, drawn := s.drawn, out := s.out, cycle := s.cycle, attest := [f], boot := 1 }) ∧
    (∀ c, exec (.coldReset none c) s = .next { State.reset with
      agenda := s.agenda, drawn := s.drawn, out := s.out, cycle := s.cycle }) ∧
    exec .freezeInput s = .next { s with frozen := true } ∧ exec .freezeRegisterWrite s = .next { s with frozen := true } ∧
    (s.frozen = true → (∀ e ∈ s.agenda, ∀ f r, e.2 ≠ .coldReset f r) → step s = .next s) ∧
    exec .clockThrottle s = .next { s with clockMHz := max Config.minClockMHz (s.clockMHz - 100) } ∧
    exec .overTemperature s = .next { s with
      boot := s.boot % 256 + 256, thermal := some (s.thermal.getD s.time.toNat), out := s.out ++ [shown s .host (.msix 0 7)] } ∧
    (∀ t, s.thermal = some t → (t + 10000 ≤ s.time.toNat → exec .thermalFreeze s = .next { s with frozen := true }) ∧
      (s.time.toNat < t + 10000 → exec .thermalFreeze s = .next s)) ∧
    (∀ p bits a n, s.canonical → a = p * 65536 → n = 2 ^ bits → nearPage a bits = true → ∃ t, exec (.tierMigration (.zero p bits)) s = .next t ∧
      (∀ x, a ≤ x → x < a + n → t.byteAt x = 0 ∧ t.presAt x = .full) ∧
      (∀ x, x < a ∨ a + n ≤ x → t.byteAt x = s.byteAt x ∧ t.presAt x = s.presAt x)) ∧
    (∀ p f leaf bits tenant a b n, a = p * 65536 → b = farBase + f * 65536 → n = 2 ^ bits → nearPage a bits = true → farPage b bits = true →
      isNear leaf = true →
      (s.sound b n = false → ∀ ok, exec (.tierMigration (.promote p f leaf bits tenant ok)) s = .next s) ∧
      (s.sound b n = true → s.badTags = [] → exec (.tierMigration (.promote p f leaf bits tenant false)) s = .next { s with
        quarantine := b :: s.quarantine, out := s.out ++ [shown s (.tier (s.farDie f)) (.report 0x09 b 0)] }) ∧
      (s.canonical → s.sound b n = true → s.badTags = [] → leaf + 8 ≤ a ∨ a + n ≤ leaf →
        ∃ t, exec (.tierMigration (.promote p f leaf bits tenant true)) s = .next t ∧
          (∀ x, x < n → t.byteAt (a + x) = s.byteAt (b + x) ∧ t.presAt (a + x) = .full) ∧
          t.peek leaf 8 = (leafMoved (word (s.peek leaf 8)) 0 p).toNat) ∧
      (s.pageFull a n = false ∨ s.sound a n = false → exec (.tierMigration (.demote p f leaf bits tenant)) s = .next s) ∧
      (s.canonical → s.pageFull a n = true → s.sound a n = true → ∃ t, exec (.tierMigration (.demote p f leaf bits tenant)) s = .next t ∧
        (∀ x, x < n → t.byteAt (b + x) = s.byteAt (a + x)) ∧ t.peek leaf 8 = (leafMoved (word (s.peek leaf 8)) 1 f).toNat ∧
        (∀ i, i < n / 4096 → tabGet 0 t.versions (b / 4096 + i) = tabGet 0 s.versions (b / 4096 + i) + 1 ∧
          (tenant < 128 → tabGet 0 t.farKeys (b / 4096 + i) = tenant + 1)))) ∧
    (∀ a, exec (.uncorrectableError a .line) s = .next { s with
      poison := (a / 128 * 128) :: s.poison, out := s.out ++ [shown s (s.errorSource a) (.report 0x08 (a / 128 * 128) 0)] }) ∧
    (∀ a leaf, exec (.uncorrectableError a (.farPage true leaf)) s = .next { s with refetched := s.refetched + 1 } ∧
      exec (.uncorrectableError a (.farPage false leaf)) s = .next { s with
        poison := (a / 65536 * 65536 + 1) :: s.poison, out := s.out ++ [shown s (s.errorSource a) (.report 0x08 (a / 65536 * 65536) leaf)] }) ∧
    (∀ a, exec (.uncorrectableError a .corrected) s = .next { s with softErrors := s.softErrors + 1 }) ∧
    (∀ a, isFar a = true → (a / 4096 * 4096) ∉ s.badTags →
      exec (.uncorrectableError a .farTag) s = .next { s with badTags := (a / 4096 * 4096) :: s.badTags })

end Statements
end

