-- ==== Sys2Proof/Laws/State.lean ====
section
/-! SUPPORT. The state and its updates, field by field: what an update leaves alone, by rfl, so that no proof unfolds a record
update. -/

namespace Sys2Proof.Machine

set_option Elab.async false

@[simp] theorem State.setSlot_mem (s : State) (c k : Nat) (x : Slot) : (s.setSlot c k x).mem = s.mem := rfl
@[simp] theorem State.setSlot_pres (s : State) (c k : Nat) (x : Slot) : (s.setSlot c k x).pres = s.pres := rfl
@[simp] theorem State.setSlot_lmDirty (s : State) (c k : Nat) (x : Slot) : (s.setSlot c k x).lmDirty = s.lmDirty := rfl
@[simp] theorem State.setSlot_er (s : State) (c k : Nat) (x : Slot) : (s.setSlot c k x).er = s.er := rfl
@[simp] theorem State.setSlot_cmds (s : State) (c k : Nat) (x : Slot) : (s.setSlot c k x).cmds = s.cmds := rfl
@[simp] theorem State.setSlot_cpSerial (s : State) (c k : Nat) (x : Slot) : (s.setSlot c k x).cpSerial = s.cpSerial := rfl
@[simp] theorem State.setSlot_atc (s : State) (c k : Nat) (x : Slot) : (s.setSlot c k x).atc = s.atc := rfl
@[simp] theorem State.setSlot_mx (s : State) (c k : Nat) (x : Slot) : (s.setSlot c k x).mx = s.mx := rfl
@[simp] theorem State.setSlot_mkp (s : State) (c k : Nat) (x : Slot) : (s.setSlot c k x).mkp = s.mkp := rfl
@[simp] theorem State.setSlot_barriers (s : State) (c k : Nat) (x : Slot) : (s.setSlot c k x).barriers = s.barriers := rfl
@[simp] theorem State.setSlot_pod (s : State) (c k : Nat) (x : Slot) : (s.setSlot c k x).pod = s.pod := rfl
@[simp] theorem State.setSlot_tlb (s : State) (c k : Nat) (x : Slot) : (s.setSlot c k x).tlb = s.tlb := rfl
@[simp] theorem State.setSlot_placeCache (s : State) (c k : Nat) (x : Slot) : (s.setSlot c k x).placeCache = s.placeCache := rfl
@[simp] theorem State.setSlot_putNet (s : State) (c k : Nat) (x : Slot) : (s.setSlot c k x).putNet = s.putNet := rfl
@[simp] theorem State.setSlot_fabNet (s : State) (c k : Nat) (x : Slot) : (s.setSlot c k x).fabNet = s.fabNet := rfl
@[simp] theorem State.setSlot_fabNotices (s : State) (c k : Nat) (x : Slot) : (s.setSlot c k x).fabNotices = s.fabNotices := rfl
@[simp] theorem State.setSlot_p2p (s : State) (c k : Nat) (x : Slot) : (s.setSlot c k x).p2p = s.p2p := rfl
@[simp] theorem State.setSlot_fxSeq (s : State) (c k : Nat) (x : Slot) : (s.setSlot c k x).fxSeq = s.fxSeq := rfl
@[simp] theorem State.setSlot_queues (s : State) (c k : Nat) (x : Slot) : (s.setSlot c k x).queues = s.queues := rfl
@[simp] theorem State.setSlot_tenants (s : State) (c k : Nat) (x : Slot) : (s.setSlot c k x).tenants = s.tenants := rfl
@[simp] theorem State.setSlot_deficit (s : State) (c k : Nat) (x : Slot) : (s.setSlot c k x).deficit = s.deficit := rfl
@[simp] theorem State.setSlot_served (s : State) (c k : Nat) (x : Slot) : (s.setSlot c k x).served = s.served := rfl
@[simp] theorem State.setSlot_evicts (s : State) (c k : Nat) (x : Slot) : (s.setSlot c k x).evicts = s.evicts := rfl
@[simp] theorem State.setSlot_saves (s : State) (c k : Nat) (x : Slot) : (s.setSlot c k x).saves = s.saves := rfl
@[simp] theorem State.setSlot_restores (s : State) (c k : Nat) (x : Slot) : (s.setSlot c k x).restores = s.restores := rfl
@[simp] theorem State.setSlot_evc (s : State) (c k : Nat) (x : Slot) : (s.setSlot c k x).evc = s.evc := rfl
@[simp] theorem State.setSlot_evsel (s : State) (c k : Nat) (x : Slot) : (s.setSlot c k x).evsel = s.evsel := rfl
@[simp] theorem State.setSlot_pcsr (s : State) (c k : Nat) (x : Slot) : (s.setSlot c k x).pcsr = s.pcsr := rfl
@[simp] theorem State.setSlot_tck (s : State) (c k : Nat) (x : Slot) : (s.setSlot c k x).tck = s.tck := rfl
@[simp] theorem State.setSlot_tccol (s : State) (c k : Nat) (x : Slot) : (s.setSlot c k x).tccol = s.tccol := rfl
@[simp] theorem State.setSlot_touch (s : State) (c k : Nat) (x : Slot) : (s.setSlot c k x).touch = s.touch := rfl
@[simp] theorem State.setSlot_dropping (s : State) (c k : Nat) (x : Slot) : (s.setSlot c k x).dropping = s.dropping := rfl
@[simp] theorem State.setSlot_poison (s : State) (c k : Nat) (x : Slot) : (s.setSlot c k x).poison = s.poison := rfl
@[simp] theorem State.setSlot_quarantine (s : State) (c k : Nat) (x : Slot) : (s.setSlot c k x).quarantine = s.quarantine := rfl
@[simp] theorem State.setSlot_badHash (s : State) (c k : Nat) (x : Slot) : (s.setSlot c k x).badHash = s.badHash := rfl
@[simp] theorem State.setSlot_generations (s : State) (c k : Nat) (x : Slot) : (s.setSlot c k x).generations = s.generations := rfl
@[simp] theorem State.setSlot_versions (s : State) (c k : Nat) (x : Slot) : (s.setSlot c k x).versions = s.versions := rfl
@[simp] theorem State.setSlot_wsphase (s : State) (c k : Nat) (x : Slot) : (s.setSlot c k x).wsphase = s.wsphase := rfl
@[simp] theorem State.setSlot_links (s : State) (c k : Nat) (x : Slot) : (s.setSlot c k x).links = s.links := rfl
@[simp] theorem State.setSlot_pris (s : State) (c k : Nat) (x : Slot) : (s.setSlot c k x).pris = s.pris := rfl
@[simp] theorem State.setSlot_atsOk (s : State) (c k : Nat) (x : Slot) : (s.setSlot c k x).atsOk = s.atsOk := rfl
@[simp] theorem State.setSlot_config (s : State) (c k : Nat) (x : Slot) : (s.setSlot c k x).config = s.config := rfl
@[simp] theorem State.setSlot_boot (s : State) (c k : Nat) (x : Slot) : (s.setSlot c k x).boot = s.boot := rfl
@[simp] theorem State.setSlot_attest (s : State) (c k : Nat) (x : Slot) : (s.setSlot c k x).attest = s.attest := rfl
@[simp] theorem State.setSlot_packageIndex (s : State) (c k : Nat) (x : Slot) : (s.setSlot c k x).packageIndex = s.packageIndex := rfl
@[simp] theorem State.setSlot_frozen (s : State) (c k : Nat) (x : Slot) : (s.setSlot c k x).frozen = s.frozen := rfl
@[simp] theorem State.setSlot_thermal (s : State) (c k : Nat) (x : Slot) : (s.setSlot c k x).thermal = s.thermal := rfl
@[simp] theorem State.setSlot_clockMHz (s : State) (c k : Nat) (x : Slot) : (s.setSlot c k x).clockMHz = s.clockMHz := rfl
@[simp] theorem State.setSlot_cycle (s : State) (c k : Nat) (x : Slot) : (s.setSlot c k x).cycle = s.cycle := rfl
@[simp] theorem State.setSlot_time (s : State) (c k : Nat) (x : Slot) : (s.setSlot c k x).time = s.time := rfl
@[simp] theorem State.setSlot_timeFrac (s : State) (c k : Nat) (x : Slot) : (s.setSlot c k x).timeFrac = s.timeFrac := rfl
@[simp] theorem State.setSlot_phase (s : State) (c k : Nat) (x : Slot) : (s.setSlot c k x).phase = s.phase := rfl
@[simp] theorem State.setSlot_curCore (s : State) (c k : Nat) (x : Slot) : (s.setSlot c k x).curCore = s.curCore := rfl
@[simp] theorem State.setSlot_curSlot (s : State) (c k : Nat) (x : Slot) : (s.setSlot c k x).curSlot = s.curSlot := rfl
@[simp] theorem State.setSlot_agenda (s : State) (c k : Nat) (x : Slot) : (s.setSlot c k x).agenda = s.agenda := rfl
@[simp] theorem State.setSlot_seq (s : State) (c k : Nat) (x : Slot) : (s.setSlot c k x).seq = s.seq := rfl
@[simp] theorem State.setSlot_drawn (s : State) (c k : Nat) (x : Slot) : (s.setSlot c k x).drawn = s.drawn := rfl
@[simp] theorem State.setSlot_out (s : State) (c k : Nat) (x : Slot) : (s.setSlot c k x).out = s.out := rfl
@[simp] theorem State.setSlot_unwinds (s : State) (c k : Nat) (x : Slot) : (s.setSlot c k x).unwinds = s.unwinds := rfl
@[simp] theorem State.setSlot_filled (s : State) (c k : Nat) (x : Slot) : (s.setSlot c k x).filled = s.filled := rfl
@[simp] theorem State.setSlot_recoloured (s : State) (c k : Nat) (x : Slot) : (s.setSlot c k x).recoloured = s.recoloured := rfl
@[simp] theorem State.setSlot_badTags (s : State) (c k : Nat) (x : Slot) : (s.setSlot c k x).badTags = s.badTags := rfl
@[simp] theorem State.setSlot_softErrors (s : State) (c k : Nat) (x : Slot) : (s.setSlot c k x).softErrors = s.softErrors := rfl
@[simp] theorem State.setSlot_refetched (s : State) (c k : Nat) (x : Slot) : (s.setSlot c k x).refetched = s.refetched := rfl
@[simp] theorem State.setSlot_farKeys (s : State) (c k : Nat) (x : Slot) : (s.setSlot c k x).farKeys = s.farKeys := rfl
@[simp] theorem State.setSlot_stalled (s : State) (c k : Nat) (x : Slot) : (s.setSlot c k x).stalled = s.stalled := rfl

@[simp] theorem State.setMe_mem (s : State) (x : Slot) : (s.setMe x).mem = s.mem := rfl
@[simp] theorem State.setMe_pres (s : State) (x : Slot) : (s.setMe x).pres = s.pres := rfl
@[simp] theorem State.setMe_lmDirty (s : State) (x : Slot) : (s.setMe x).lmDirty = s.lmDirty := rfl
@[simp] theorem State.setMe_er (s : State) (x : Slot) : (s.setMe x).er = s.er := rfl
@[simp] theorem State.setMe_cmds (s : State) (x : Slot) : (s.setMe x).cmds = s.cmds := rfl
@[simp] theorem State.setMe_cpSerial (s : State) (x : Slot) : (s.setMe x).cpSerial = s.cpSerial := rfl
@[simp] theorem State.setMe_atc (s : State) (x : Slot) : (s.setMe x).atc = s.atc := rfl
@[simp] theorem State.setMe_mx (s : State) (x : Slot) : (s.setMe x).mx = s.mx := rfl
@[simp] theorem State.setMe_mkp (s : State) (x : Slot) : (s.setMe x).mkp = s.mkp := rfl
@[simp] theorem State.setMe_barriers (s : State) (x : Slot) : (s.setMe x).barriers = s.barriers := rfl
@[simp] theorem State.setMe_pod (s : State) (x : Slot) : (s.setMe x).pod = s.pod := rfl
@[simp] theorem State.setMe_tlb (s : State) (x : Slot) : (s.setMe x).tlb = s.tlb := rfl
@[simp] theorem State.setMe_placeCache (s : State) (x : Slot) : (s.setMe x).placeCache = s.placeCache := rfl
@[simp] theorem State.setMe_putNet (s : State) (x : Slot) : (s.setMe x).putNet = s.putNet := rfl
@[simp] theorem State.setMe_fabNet (s : State) (x : Slot) : (s.setMe x).fabNet = s.fabNet := rfl
@[simp] theorem State.setMe_fabNotices (s : State) (x : Slot) : (s.setMe x).fabNotices = s.fabNotices := rfl
@[simp] theorem State.setMe_p2p (s : State) (x : Slot) : (s.setMe x).p2p = s.p2p := rfl
@[simp] theorem State.setMe_fxSeq (s : State) (x : Slot) : (s.setMe x).fxSeq = s.fxSeq := rfl
@[simp] theorem State.setMe_queues (s : State) (x : Slot) : (s.setMe x).queues = s.queues := rfl
@[simp] theorem State.setMe_tenants (s : State) (x : Slot) : (s.setMe x).tenants = s.tenants := rfl
@[simp] theorem State.setMe_deficit (s : State) (x : Slot) : (s.setMe x).deficit = s.deficit := rfl
@[simp] theorem State.setMe_served (s : State) (x : Slot) : (s.setMe x).served = s.served := rfl
@[simp] theorem State.setMe_evicts (s : State) (x : Slot) : (s.setMe x).evicts = s.evicts := rfl
@[simp] theorem State.setMe_saves (s : State) (x : Slot) : (s.setMe x).saves = s.saves := rfl
@[simp] theorem State.setMe_restores (s : State) (x : Slot) : (s.setMe x).restores = s.restores := rfl
@[simp] theorem State.setMe_evc (s : State) (x : Slot) : (s.setMe x).evc = s.evc := rfl
@[simp] theorem State.setMe_evsel (s : State) (x : Slot) : (s.setMe x).evsel = s.evsel := rfl
@[simp] theorem State.setMe_pcsr (s : State) (x : Slot) : (s.setMe x).pcsr = s.pcsr := rfl
@[simp] theorem State.setMe_tck (s : State) (x : Slot) : (s.setMe x).tck = s.tck := rfl
@[simp] theorem State.setMe_tccol (s : State) (x : Slot) : (s.setMe x).tccol = s.tccol := rfl
@[simp] theorem State.setMe_touch (s : State) (x : Slot) : (s.setMe x).touch = s.touch := rfl
@[simp] theorem State.setMe_dropping (s : State) (x : Slot) : (s.setMe x).dropping = s.dropping := rfl
@[simp] theorem State.setMe_poison (s : State) (x : Slot) : (s.setMe x).poison = s.poison := rfl
@[simp] theorem State.setMe_quarantine (s : State) (x : Slot) : (s.setMe x).quarantine = s.quarantine := rfl
@[simp] theorem State.setMe_badHash (s : State) (x : Slot) : (s.setMe x).badHash = s.badHash := rfl
@[simp] theorem State.setMe_generations (s : State) (x : Slot) : (s.setMe x).generations = s.generations := rfl
@[simp] theorem State.setMe_versions (s : State) (x : Slot) : (s.setMe x).versions = s.versions := rfl
@[simp] theorem State.setMe_wsphase (s : State) (x : Slot) : (s.setMe x).wsphase = s.wsphase := rfl
@[simp] theorem State.setMe_links (s : State) (x : Slot) : (s.setMe x).links = s.links := rfl
@[simp] theorem State.setMe_pris (s : State) (x : Slot) : (s.setMe x).pris = s.pris := rfl
@[simp] theorem State.setMe_atsOk (s : State) (x : Slot) : (s.setMe x).atsOk = s.atsOk := rfl
@[simp] theorem State.setMe_config (s : State) (x : Slot) : (s.setMe x).config = s.config := rfl
@[simp] theorem State.setMe_boot (s : State) (x : Slot) : (s.setMe x).boot = s.boot := rfl
@[simp] theorem State.setMe_attest (s : State) (x : Slot) : (s.setMe x).attest = s.attest := rfl
@[simp] theorem State.setMe_packageIndex (s : State) (x : Slot) : (s.setMe x).packageIndex = s.packageIndex := rfl
@[simp] theorem State.setMe_frozen (s : State) (x : Slot) : (s.setMe x).frozen = s.frozen := rfl
@[simp] theorem State.setMe_thermal (s : State) (x : Slot) : (s.setMe x).thermal = s.thermal := rfl
@[simp] theorem State.setMe_clockMHz (s : State) (x : Slot) : (s.setMe x).clockMHz = s.clockMHz := rfl
@[simp] theorem State.setMe_cycle (s : State) (x : Slot) : (s.setMe x).cycle = s.cycle := rfl
@[simp] theorem State.setMe_time (s : State) (x : Slot) : (s.setMe x).time = s.time := rfl
@[simp] theorem State.setMe_timeFrac (s : State) (x : Slot) : (s.setMe x).timeFrac = s.timeFrac := rfl
@[simp] theorem State.setMe_phase (s : State) (x : Slot) : (s.setMe x).phase = s.phase := rfl
@[simp] theorem State.setMe_curCore (s : State) (x : Slot) : (s.setMe x).curCore = s.curCore := rfl
@[simp] theorem State.setMe_curSlot (s : State) (x : Slot) : (s.setMe x).curSlot = s.curSlot := rfl
@[simp] theorem State.setMe_agenda (s : State) (x : Slot) : (s.setMe x).agenda = s.agenda := rfl
@[simp] theorem State.setMe_seq (s : State) (x : Slot) : (s.setMe x).seq = s.seq := rfl
@[simp] theorem State.setMe_drawn (s : State) (x : Slot) : (s.setMe x).drawn = s.drawn := rfl
@[simp] theorem State.setMe_out (s : State) (x : Slot) : (s.setMe x).out = s.out := rfl
@[simp] theorem State.setMe_unwinds (s : State) (x : Slot) : (s.setMe x).unwinds = s.unwinds := rfl
@[simp] theorem State.setMe_filled (s : State) (x : Slot) : (s.setMe x).filled = s.filled := rfl
@[simp] theorem State.setMe_recoloured (s : State) (x : Slot) : (s.setMe x).recoloured = s.recoloured := rfl
@[simp] theorem State.setMe_badTags (s : State) (x : Slot) : (s.setMe x).badTags = s.badTags := rfl
@[simp] theorem State.setMe_softErrors (s : State) (x : Slot) : (s.setMe x).softErrors = s.softErrors := rfl
@[simp] theorem State.setMe_refetched (s : State) (x : Slot) : (s.setMe x).refetched = s.refetched := rfl
@[simp] theorem State.setMe_farKeys (s : State) (x : Slot) : (s.setMe x).farKeys = s.farKeys := rfl
@[simp] theorem State.setMe_stalled (s : State) (x : Slot) : (s.setMe x).stalled = s.stalled := rfl

@[simp] theorem State.emit_slots (s : State) (src : Source) (o : Out) : (s.emit src o).slots = s.slots := rfl
@[simp] theorem State.emit_mem (s : State) (src : Source) (o : Out) : (s.emit src o).mem = s.mem := rfl
@[simp] theorem State.emit_pres (s : State) (src : Source) (o : Out) : (s.emit src o).pres = s.pres := rfl
@[simp] theorem State.emit_lmDirty (s : State) (src : Source) (o : Out) : (s.emit src o).lmDirty = s.lmDirty := rfl
@[simp] theorem State.emit_er (s : State) (src : Source) (o : Out) : (s.emit src o).er = s.er := rfl
@[simp] theorem State.emit_cmds (s : State) (src : Source) (o : Out) : (s.emit src o).cmds = s.cmds := rfl
@[simp] theorem State.emit_cpSerial (s : State) (src : Source) (o : Out) : (s.emit src o).cpSerial = s.cpSerial := rfl
@[simp] theorem State.emit_atc (s : State) (src : Source) (o : Out) : (s.emit src o).atc = s.atc := rfl
@[simp] theorem State.emit_mx (s : State) (src : Source) (o : Out) : (s.emit src o).mx = s.mx := rfl
@[simp] theorem State.emit_mkp (s : State) (src : Source) (o : Out) : (s.emit src o).mkp = s.mkp := rfl
@[simp] theorem State.emit_barriers (s : State) (src : Source) (o : Out) : (s.emit src o).barriers = s.barriers := rfl
@[simp] theorem State.emit_pod (s : State) (src : Source) (o : Out) : (s.emit src o).pod = s.pod := rfl
@[simp] theorem State.emit_tlb (s : State) (src : Source) (o : Out) : (s.emit src o).tlb = s.tlb := rfl
@[simp] theorem State.emit_placeCache (s : State) (src : Source) (o : Out) : (s.emit src o).placeCache = s.placeCache := rfl
@[simp] theorem State.emit_putNet (s : State) (src : Source) (o : Out) : (s.emit src o).putNet = s.putNet := rfl
@[simp] theorem State.emit_fabNet (s : State) (src : Source) (o : Out) : (s.emit src o).fabNet = s.fabNet := rfl
@[simp] theorem State.emit_fabNotices (s : State) (src : Source) (o : Out) : (s.emit src o).fabNotices = s.fabNotices := rfl
@[simp] theorem State.emit_p2p (s : State) (src : Source) (o : Out) : (s.emit src o).p2p = s.p2p := rfl
@[simp] theorem State.emit_fxSeq (s : State) (src : Source) (o : Out) : (s.emit src o).fxSeq = s.fxSeq := rfl
@[simp] theorem State.emit_queues (s : State) (src : Source) (o : Out) : (s.emit src o).queues = s.queues := rfl
@[simp] theorem State.emit_tenants (s : State) (src : Source) (o : Out) : (s.emit src o).tenants = s.tenants := rfl
@[simp] theorem State.emit_deficit (s : State) (src : Source) (o : Out) : (s.emit src o).deficit = s.deficit := rfl
@[simp] theorem State.emit_served (s : State) (src : Source) (o : Out) : (s.emit src o).served = s.served := rfl
@[simp] theorem State.emit_evicts (s : State) (src : Source) (o : Out) : (s.emit src o).evicts = s.evicts := rfl
@[simp] theorem State.emit_saves (s : State) (src : Source) (o : Out) : (s.emit src o).saves = s.saves := rfl
@[simp] theorem State.emit_restores (s : State) (src : Source) (o : Out) : (s.emit src o).restores = s.restores := rfl
@[simp] theorem State.emit_evc (s : State) (src : Source) (o : Out) : (s.emit src o).evc = s.evc := rfl
@[simp] theorem State.emit_evsel (s : State) (src : Source) (o : Out) : (s.emit src o).evsel = s.evsel := rfl
@[simp] theorem State.emit_pcsr (s : State) (src : Source) (o : Out) : (s.emit src o).pcsr = s.pcsr := rfl
@[simp] theorem State.emit_tck (s : State) (src : Source) (o : Out) : (s.emit src o).tck = s.tck := rfl
@[simp] theorem State.emit_tccol (s : State) (src : Source) (o : Out) : (s.emit src o).tccol = s.tccol := rfl
@[simp] theorem State.emit_touch (s : State) (src : Source) (o : Out) : (s.emit src o).touch = s.touch := rfl
@[simp] theorem State.emit_dropping (s : State) (src : Source) (o : Out) : (s.emit src o).dropping = s.dropping := rfl
@[simp] theorem State.emit_poison (s : State) (src : Source) (o : Out) : (s.emit src o).poison = s.poison := rfl
@[simp] theorem State.emit_quarantine (s : State) (src : Source) (o : Out) : (s.emit src o).quarantine = s.quarantine := rfl
@[simp] theorem State.emit_badHash (s : State) (src : Source) (o : Out) : (s.emit src o).badHash = s.badHash := rfl
@[simp] theorem State.emit_generations (s : State) (src : Source) (o : Out) : (s.emit src o).generations = s.generations := rfl
@[simp] theorem State.emit_versions (s : State) (src : Source) (o : Out) : (s.emit src o).versions = s.versions := rfl
@[simp] theorem State.emit_wsphase (s : State) (src : Source) (o : Out) : (s.emit src o).wsphase = s.wsphase := rfl
@[simp] theorem State.emit_links (s : State) (src : Source) (o : Out) : (s.emit src o).links = s.links := rfl
@[simp] theorem State.emit_pris (s : State) (src : Source) (o : Out) : (s.emit src o).pris = s.pris := rfl
@[simp] theorem State.emit_atsOk (s : State) (src : Source) (o : Out) : (s.emit src o).atsOk = s.atsOk := rfl
@[simp] theorem State.emit_config (s : State) (src : Source) (o : Out) : (s.emit src o).config = s.config := rfl
@[simp] theorem State.emit_boot (s : State) (src : Source) (o : Out) : (s.emit src o).boot = s.boot := rfl
@[simp] theorem State.emit_attest (s : State) (src : Source) (o : Out) : (s.emit src o).attest = s.attest := rfl
@[simp] theorem State.emit_packageIndex (s : State) (src : Source) (o : Out) : (s.emit src o).packageIndex = s.packageIndex := rfl
@[simp] theorem State.emit_frozen (s : State) (src : Source) (o : Out) : (s.emit src o).frozen = s.frozen := rfl
@[simp] theorem State.emit_thermal (s : State) (src : Source) (o : Out) : (s.emit src o).thermal = s.thermal := rfl
@[simp] theorem State.emit_clockMHz (s : State) (src : Source) (o : Out) : (s.emit src o).clockMHz = s.clockMHz := rfl
@[simp] theorem State.emit_cycle (s : State) (src : Source) (o : Out) : (s.emit src o).cycle = s.cycle := rfl
@[simp] theorem State.emit_time (s : State) (src : Source) (o : Out) : (s.emit src o).time = s.time := rfl
@[simp] theorem State.emit_timeFrac (s : State) (src : Source) (o : Out) : (s.emit src o).timeFrac = s.timeFrac := rfl
@[simp] theorem State.emit_phase (s : State) (src : Source) (o : Out) : (s.emit src o).phase = s.phase := rfl
@[simp] theorem State.emit_curCore (s : State) (src : Source) (o : Out) : (s.emit src o).curCore = s.curCore := rfl
@[simp] theorem State.emit_curSlot (s : State) (src : Source) (o : Out) : (s.emit src o).curSlot = s.curSlot := rfl
@[simp] theorem State.emit_agenda (s : State) (src : Source) (o : Out) : (s.emit src o).agenda = s.agenda := rfl
@[simp] theorem State.emit_seq (s : State) (src : Source) (o : Out) : (s.emit src o).seq = s.seq := rfl
@[simp] theorem State.emit_drawn (s : State) (src : Source) (o : Out) : (s.emit src o).drawn = s.drawn := rfl
@[simp] theorem State.emit_unwinds (s : State) (src : Source) (o : Out) : (s.emit src o).unwinds = s.unwinds := rfl
@[simp] theorem State.emit_filled (s : State) (src : Source) (o : Out) : (s.emit src o).filled = s.filled := rfl
@[simp] theorem State.emit_recoloured (s : State) (src : Source) (o : Out) : (s.emit src o).recoloured = s.recoloured := rfl
@[simp] theorem State.emit_badTags (s : State) (src : Source) (o : Out) : (s.emit src o).badTags = s.badTags := rfl
@[simp] theorem State.emit_softErrors (s : State) (src : Source) (o : Out) : (s.emit src o).softErrors = s.softErrors := rfl
@[simp] theorem State.emit_refetched (s : State) (src : Source) (o : Out) : (s.emit src o).refetched = s.refetched := rfl
@[simp] theorem State.emit_farKeys (s : State) (src : Source) (o : Out) : (s.emit src o).farKeys = s.farKeys := rfl
@[simp] theorem State.emit_stalled (s : State) (src : Source) (o : Out) : (s.emit src o).stalled = s.stalled := rfl

@[simp] theorem State.setEr_slots (s : State) (k : EngKind) (i c n : Nat) (v : Word) (p : Presence) : (s.setEr k i c n v p).slots = s.slots := rfl
@[simp] theorem State.setEr_mem (s : State) (k : EngKind) (i c n : Nat) (v : Word) (p : Presence) : (s.setEr k i c n v p).mem = s.mem := rfl
@[simp] theorem State.setEr_pres (s : State) (k : EngKind) (i c n : Nat) (v : Word) (p : Presence) : (s.setEr k i c n v p).pres = s.pres := rfl
@[simp] theorem State.setEr_lmDirty (s : State) (k : EngKind) (i c n : Nat) (v : Word) (p : Presence) : (s.setEr k i c n v p).lmDirty = s.lmDirty := rfl
@[simp] theorem State.setEr_cmds (s : State) (k : EngKind) (i c n : Nat) (v : Word) (p : Presence) : (s.setEr k i c n v p).cmds = s.cmds := rfl
@[simp] theorem State.setEr_cpSerial (s : State) (k : EngKind) (i c n : Nat) (v : Word) (p : Presence) : (s.setEr k i c n v p).cpSerial = s.cpSerial := rfl
@[simp] theorem State.setEr_atc (s : State) (k : EngKind) (i c n : Nat) (v : Word) (p : Presence) : (s.setEr k i c n v p).atc = s.atc := rfl
@[simp] theorem State.setEr_mx (s : State) (k : EngKind) (i c n : Nat) (v : Word) (p : Presence) : (s.setEr k i c n v p).mx = s.mx := rfl
@[simp] theorem State.setEr_mkp (s : State) (k : EngKind) (i c n : Nat) (v : Word) (p : Presence) : (s.setEr k i c n v p).mkp = s.mkp := rfl
@[simp] theorem State.setEr_barriers (s : State) (k : EngKind) (i c n : Nat) (v : Word) (p : Presence) : (s.setEr k i c n v p).barriers = s.barriers := rfl
@[simp] theorem State.setEr_pod (s : State) (k : EngKind) (i c n : Nat) (v : Word) (p : Presence) : (s.setEr k i c n v p).pod = s.pod := rfl
@[simp] theorem State.setEr_tlb (s : State) (k : EngKind) (i c n : Nat) (v : Word) (p : Presence) : (s.setEr k i c n v p).tlb = s.tlb := rfl
@[simp] theorem State.setEr_placeCache (s : State) (k : EngKind) (i c n : Nat) (v : Word) (p : Presence) : (s.setEr k i c n v p).placeCache = s.placeCache := rfl
@[simp] theorem State.setEr_putNet (s : State) (k : EngKind) (i c n : Nat) (v : Word) (p : Presence) : (s.setEr k i c n v p).putNet = s.putNet := rfl
@[simp] theorem State.setEr_fabNet (s : State) (k : EngKind) (i c n : Nat) (v : Word) (p : Presence) : (s.setEr k i c n v p).fabNet = s.fabNet := rfl
@[simp] theorem State.setEr_fabNotices (s : State) (k : EngKind) (i c n : Nat) (v : Word) (p : Presence) : (s.setEr k i c n v p).fabNotices = s.fabNotices := rfl
@[simp] theorem State.setEr_p2p (s : State) (k : EngKind) (i c n : Nat) (v : Word) (p : Presence) : (s.setEr k i c n v p).p2p = s.p2p := rfl
@[simp] theorem State.setEr_fxSeq (s : State) (k : EngKind) (i c n : Nat) (v : Word) (p : Presence) : (s.setEr k i c n v p).fxSeq = s.fxSeq := rfl
@[simp] theorem State.setEr_queues (s : State) (k : EngKind) (i c n : Nat) (v : Word) (p : Presence) : (s.setEr k i c n v p).queues = s.queues := rfl
@[simp] theorem State.setEr_tenants (s : State) (k : EngKind) (i c n : Nat) (v : Word) (p : Presence) : (s.setEr k i c n v p).tenants = s.tenants := rfl
@[simp] theorem State.setEr_deficit (s : State) (k : EngKind) (i c n : Nat) (v : Word) (p : Presence) : (s.setEr k i c n v p).deficit = s.deficit := rfl
@[simp] theorem State.setEr_served (s : State) (k : EngKind) (i c n : Nat) (v : Word) (p : Presence) : (s.setEr k i c n v p).served = s.served := rfl
@[simp] theorem State.setEr_evicts (s : State) (k : EngKind) (i c n : Nat) (v : Word) (p : Presence) : (s.setEr k i c n v p).evicts = s.evicts := rfl
@[simp] theorem State.setEr_saves (s : State) (k : EngKind) (i c n : Nat) (v : Word) (p : Presence) : (s.setEr k i c n v p).saves = s.saves := rfl
@[simp] theorem State.setEr_restores (s : State) (k : EngKind) (i c n : Nat) (v : Word) (p : Presence) : (s.setEr k i c n v p).restores = s.restores := rfl
@[simp] theorem State.setEr_evc (s : State) (k : EngKind) (i c n : Nat) (v : Word) (p : Presence) : (s.setEr k i c n v p).evc = s.evc := rfl
@[simp] theorem State.setEr_evsel (s : State) (k : EngKind) (i c n : Nat) (v : Word) (p : Presence) : (s.setEr k i c n v p).evsel = s.evsel := rfl
@[simp] theorem State.setEr_pcsr (s : State) (k : EngKind) (i c n : Nat) (v : Word) (p : Presence) : (s.setEr k i c n v p).pcsr = s.pcsr := rfl
@[simp] theorem State.setEr_tck (s : State) (k : EngKind) (i c n : Nat) (v : Word) (p : Presence) : (s.setEr k i c n v p).tck = s.tck := rfl
@[simp] theorem State.setEr_tccol (s : State) (k : EngKind) (i c n : Nat) (v : Word) (p : Presence) : (s.setEr k i c n v p).tccol = s.tccol := rfl
@[simp] theorem State.setEr_touch (s : State) (k : EngKind) (i c n : Nat) (v : Word) (p : Presence) : (s.setEr k i c n v p).touch = s.touch := rfl
@[simp] theorem State.setEr_dropping (s : State) (k : EngKind) (i c n : Nat) (v : Word) (p : Presence) : (s.setEr k i c n v p).dropping = s.dropping := rfl
@[simp] theorem State.setEr_poison (s : State) (k : EngKind) (i c n : Nat) (v : Word) (p : Presence) : (s.setEr k i c n v p).poison = s.poison := rfl
@[simp] theorem State.setEr_quarantine (s : State) (k : EngKind) (i c n : Nat) (v : Word) (p : Presence) : (s.setEr k i c n v p).quarantine = s.quarantine := rfl
@[simp] theorem State.setEr_badHash (s : State) (k : EngKind) (i c n : Nat) (v : Word) (p : Presence) : (s.setEr k i c n v p).badHash = s.badHash := rfl
@[simp] theorem State.setEr_generations (s : State) (k : EngKind) (i c n : Nat) (v : Word) (p : Presence) : (s.setEr k i c n v p).generations = s.generations := rfl
@[simp] theorem State.setEr_versions (s : State) (k : EngKind) (i c n : Nat) (v : Word) (p : Presence) : (s.setEr k i c n v p).versions = s.versions := rfl
@[simp] theorem State.setEr_wsphase (s : State) (k : EngKind) (i c n : Nat) (v : Word) (p : Presence) : (s.setEr k i c n v p).wsphase = s.wsphase := rfl
@[simp] theorem State.setEr_links (s : State) (k : EngKind) (i c n : Nat) (v : Word) (p : Presence) : (s.setEr k i c n v p).links = s.links := rfl
@[simp] theorem State.setEr_pris (s : State) (k : EngKind) (i c n : Nat) (v : Word) (p : Presence) : (s.setEr k i c n v p).pris = s.pris := rfl
@[simp] theorem State.setEr_atsOk (s : State) (k : EngKind) (i c n : Nat) (v : Word) (p : Presence) : (s.setEr k i c n v p).atsOk = s.atsOk := rfl
@[simp] theorem State.setEr_config (s : State) (k : EngKind) (i c n : Nat) (v : Word) (p : Presence) : (s.setEr k i c n v p).config = s.config := rfl
@[simp] theorem State.setEr_boot (s : State) (k : EngKind) (i c n : Nat) (v : Word) (p : Presence) : (s.setEr k i c n v p).boot = s.boot := rfl
@[simp] theorem State.setEr_attest (s : State) (k : EngKind) (i c n : Nat) (v : Word) (p : Presence) : (s.setEr k i c n v p).attest = s.attest := rfl
@[simp] theorem State.setEr_packageIndex (s : State) (k : EngKind) (i c n : Nat) (v : Word) (p : Presence) : (s.setEr k i c n v p).packageIndex = s.packageIndex := rfl
@[simp] theorem State.setEr_frozen (s : State) (k : EngKind) (i c n : Nat) (v : Word) (p : Presence) : (s.setEr k i c n v p).frozen = s.frozen := rfl
@[simp] theorem State.setEr_thermal (s : State) (k : EngKind) (i c n : Nat) (v : Word) (p : Presence) : (s.setEr k i c n v p).thermal = s.thermal := rfl
@[simp] theorem State.setEr_clockMHz (s : State) (k : EngKind) (i c n : Nat) (v : Word) (p : Presence) : (s.setEr k i c n v p).clockMHz = s.clockMHz := rfl
@[simp] theorem State.setEr_cycle (s : State) (k : EngKind) (i c n : Nat) (v : Word) (p : Presence) : (s.setEr k i c n v p).cycle = s.cycle := rfl
@[simp] theorem State.setEr_time (s : State) (k : EngKind) (i c n : Nat) (v : Word) (p : Presence) : (s.setEr k i c n v p).time = s.time := rfl
@[simp] theorem State.setEr_timeFrac (s : State) (k : EngKind) (i c n : Nat) (v : Word) (p : Presence) : (s.setEr k i c n v p).timeFrac = s.timeFrac := rfl
@[simp] theorem State.setEr_phase (s : State) (k : EngKind) (i c n : Nat) (v : Word) (p : Presence) : (s.setEr k i c n v p).phase = s.phase := rfl
@[simp] theorem State.setEr_curCore (s : State) (k : EngKind) (i c n : Nat) (v : Word) (p : Presence) : (s.setEr k i c n v p).curCore = s.curCore := rfl
@[simp] theorem State.setEr_curSlot (s : State) (k : EngKind) (i c n : Nat) (v : Word) (p : Presence) : (s.setEr k i c n v p).curSlot = s.curSlot := rfl
@[simp] theorem State.setEr_agenda (s : State) (k : EngKind) (i c n : Nat) (v : Word) (p : Presence) : (s.setEr k i c n v p).agenda = s.agenda := rfl
@[simp] theorem State.setEr_seq (s : State) (k : EngKind) (i c n : Nat) (v : Word) (p : Presence) : (s.setEr k i c n v p).seq = s.seq := rfl
@[simp] theorem State.setEr_drawn (s : State) (k : EngKind) (i c n : Nat) (v : Word) (p : Presence) : (s.setEr k i c n v p).drawn = s.drawn := rfl
@[simp] theorem State.setEr_out (s : State) (k : EngKind) (i c n : Nat) (v : Word) (p : Presence) : (s.setEr k i c n v p).out = s.out := rfl
@[simp] theorem State.setEr_unwinds (s : State) (k : EngKind) (i c n : Nat) (v : Word) (p : Presence) : (s.setEr k i c n v p).unwinds = s.unwinds := rfl
@[simp] theorem State.setEr_filled (s : State) (k : EngKind) (i c n : Nat) (v : Word) (p : Presence) : (s.setEr k i c n v p).filled = s.filled := rfl
@[simp] theorem State.setEr_recoloured (s : State) (k : EngKind) (i c n : Nat) (v : Word) (p : Presence) : (s.setEr k i c n v p).recoloured = s.recoloured := rfl
@[simp] theorem State.setEr_badTags (s : State) (k : EngKind) (i c n : Nat) (v : Word) (p : Presence) : (s.setEr k i c n v p).badTags = s.badTags := rfl
@[simp] theorem State.setEr_softErrors (s : State) (k : EngKind) (i c n : Nat) (v : Word) (p : Presence) : (s.setEr k i c n v p).softErrors = s.softErrors := rfl
@[simp] theorem State.setEr_refetched (s : State) (k : EngKind) (i c n : Nat) (v : Word) (p : Presence) : (s.setEr k i c n v p).refetched = s.refetched := rfl
@[simp] theorem State.setEr_farKeys (s : State) (k : EngKind) (i c n : Nat) (v : Word) (p : Presence) : (s.setEr k i c n v p).farKeys = s.farKeys := rfl
@[simp] theorem State.setEr_stalled (s : State) (k : EngKind) (i c n : Nat) (v : Word) (p : Presence) : (s.setEr k i c n v p).stalled = s.stalled := rfl

@[simp] theorem State.setCmds_slots (s : State) (k : EngKind) (i c : Nat) (l : List Cmd) : (s.setCmds k i c l).slots = s.slots := rfl
@[simp] theorem State.setCmds_mem (s : State) (k : EngKind) (i c : Nat) (l : List Cmd) : (s.setCmds k i c l).mem = s.mem := rfl
@[simp] theorem State.setCmds_pres (s : State) (k : EngKind) (i c : Nat) (l : List Cmd) : (s.setCmds k i c l).pres = s.pres := rfl
@[simp] theorem State.setCmds_lmDirty (s : State) (k : EngKind) (i c : Nat) (l : List Cmd) : (s.setCmds k i c l).lmDirty = s.lmDirty := rfl
@[simp] theorem State.setCmds_er (s : State) (k : EngKind) (i c : Nat) (l : List Cmd) : (s.setCmds k i c l).er = s.er := rfl
@[simp] theorem State.setCmds_cpSerial (s : State) (k : EngKind) (i c : Nat) (l : List Cmd) : (s.setCmds k i c l).cpSerial = s.cpSerial := rfl
@[simp] theorem State.setCmds_atc (s : State) (k : EngKind) (i c : Nat) (l : List Cmd) : (s.setCmds k i c l).atc = s.atc := rfl
@[simp] theorem State.setCmds_mx (s : State) (k : EngKind) (i c : Nat) (l : List Cmd) : (s.setCmds k i c l).mx = s.mx := rfl
@[simp] theorem State.setCmds_mkp (s : State) (k : EngKind) (i c : Nat) (l : List Cmd) : (s.setCmds k i c l).mkp = s.mkp := rfl
@[simp] theorem State.setCmds_barriers (s : State) (k : EngKind) (i c : Nat) (l : List Cmd) : (s.setCmds k i c l).barriers = s.barriers := rfl
@[simp] theorem State.setCmds_pod (s : State) (k : EngKind) (i c : Nat) (l : List Cmd) : (s.setCmds k i c l).pod = s.pod := rfl
@[simp] theorem State.setCmds_tlb (s : State) (k : EngKind) (i c : Nat) (l : List Cmd) : (s.setCmds k i c l).tlb = s.tlb := rfl
@[simp] theorem State.setCmds_placeCache (s : State) (k : EngKind) (i c : Nat) (l : List Cmd) : (s.setCmds k i c l).placeCache = s.placeCache := rfl
@[simp] theorem State.setCmds_putNet (s : State) (k : EngKind) (i c : Nat) (l : List Cmd) : (s.setCmds k i c l).putNet = s.putNet := rfl
@[simp] theorem State.setCmds_fabNet (s : State) (k : EngKind) (i c : Nat) (l : List Cmd) : (s.setCmds k i c l).fabNet = s.fabNet := rfl
@[simp] theorem State.setCmds_fabNotices (s : State) (k : EngKind) (i c : Nat) (l : List Cmd) : (s.setCmds k i c l).fabNotices = s.fabNotices := rfl
@[simp] theorem State.setCmds_p2p (s : State) (k : EngKind) (i c : Nat) (l : List Cmd) : (s.setCmds k i c l).p2p = s.p2p := rfl
@[simp] theorem State.setCmds_fxSeq (s : State) (k : EngKind) (i c : Nat) (l : List Cmd) : (s.setCmds k i c l).fxSeq = s.fxSeq := rfl
@[simp] theorem State.setCmds_queues (s : State) (k : EngKind) (i c : Nat) (l : List Cmd) : (s.setCmds k i c l).queues = s.queues := rfl
@[simp] theorem State.setCmds_tenants (s : State) (k : EngKind) (i c : Nat) (l : List Cmd) : (s.setCmds k i c l).tenants = s.tenants := rfl
@[simp] theorem State.setCmds_deficit (s : State) (k : EngKind) (i c : Nat) (l : List Cmd) : (s.setCmds k i c l).deficit = s.deficit := rfl
@[simp] theorem State.setCmds_served (s : State) (k : EngKind) (i c : Nat) (l : List Cmd) : (s.setCmds k i c l).served = s.served := rfl
@[simp] theorem State.setCmds_evicts (s : State) (k : EngKind) (i c : Nat) (l : List Cmd) : (s.setCmds k i c l).evicts = s.evicts := rfl
@[simp] theorem State.setCmds_saves (s : State) (k : EngKind) (i c : Nat) (l : List Cmd) : (s.setCmds k i c l).saves = s.saves := rfl
@[simp] theorem State.setCmds_restores (s : State) (k : EngKind) (i c : Nat) (l : List Cmd) : (s.setCmds k i c l).restores = s.restores := rfl
@[simp] theorem State.setCmds_evc (s : State) (k : EngKind) (i c : Nat) (l : List Cmd) : (s.setCmds k i c l).evc = s.evc := rfl
@[simp] theorem State.setCmds_evsel (s : State) (k : EngKind) (i c : Nat) (l : List Cmd) : (s.setCmds k i c l).evsel = s.evsel := rfl
@[simp] theorem State.setCmds_pcsr (s : State) (k : EngKind) (i c : Nat) (l : List Cmd) : (s.setCmds k i c l).pcsr = s.pcsr := rfl
@[simp] theorem State.setCmds_tck (s : State) (k : EngKind) (i c : Nat) (l : List Cmd) : (s.setCmds k i c l).tck = s.tck := rfl
@[simp] theorem State.setCmds_tccol (s : State) (k : EngKind) (i c : Nat) (l : List Cmd) : (s.setCmds k i c l).tccol = s.tccol := rfl
@[simp] theorem State.setCmds_touch (s : State) (k : EngKind) (i c : Nat) (l : List Cmd) : (s.setCmds k i c l).touch = s.touch := rfl
@[simp] theorem State.setCmds_dropping (s : State) (k : EngKind) (i c : Nat) (l : List Cmd) : (s.setCmds k i c l).dropping = s.dropping := rfl
@[simp] theorem State.setCmds_poison (s : State) (k : EngKind) (i c : Nat) (l : List Cmd) : (s.setCmds k i c l).poison = s.poison := rfl
@[simp] theorem State.setCmds_quarantine (s : State) (k : EngKind) (i c : Nat) (l : List Cmd) : (s.setCmds k i c l).quarantine = s.quarantine := rfl
@[simp] theorem State.setCmds_badHash (s : State) (k : EngKind) (i c : Nat) (l : List Cmd) : (s.setCmds k i c l).badHash = s.badHash := rfl
@[simp] theorem State.setCmds_generations (s : State) (k : EngKind) (i c : Nat) (l : List Cmd) : (s.setCmds k i c l).generations = s.generations := rfl
@[simp] theorem State.setCmds_versions (s : State) (k : EngKind) (i c : Nat) (l : List Cmd) : (s.setCmds k i c l).versions = s.versions := rfl
@[simp] theorem State.setCmds_wsphase (s : State) (k : EngKind) (i c : Nat) (l : List Cmd) : (s.setCmds k i c l).wsphase = s.wsphase := rfl
@[simp] theorem State.setCmds_links (s : State) (k : EngKind) (i c : Nat) (l : List Cmd) : (s.setCmds k i c l).links = s.links := rfl
@[simp] theorem State.setCmds_pris (s : State) (k : EngKind) (i c : Nat) (l : List Cmd) : (s.setCmds k i c l).pris = s.pris := rfl
@[simp] theorem State.setCmds_atsOk (s : State) (k : EngKind) (i c : Nat) (l : List Cmd) : (s.setCmds k i c l).atsOk = s.atsOk := rfl
@[simp] theorem State.setCmds_config (s : State) (k : EngKind) (i c : Nat) (l : List Cmd) : (s.setCmds k i c l).config = s.config := rfl
@[simp] theorem State.setCmds_boot (s : State) (k : EngKind) (i c : Nat) (l : List Cmd) : (s.setCmds k i c l).boot = s.boot := rfl
@[simp] theorem State.setCmds_attest (s : State) (k : EngKind) (i c : Nat) (l : List Cmd) : (s.setCmds k i c l).attest = s.attest := rfl
@[simp] theorem State.setCmds_packageIndex (s : State) (k : EngKind) (i c : Nat) (l : List Cmd) : (s.setCmds k i c l).packageIndex = s.packageIndex := rfl
@[simp] theorem State.setCmds_frozen (s : State) (k : EngKind) (i c : Nat) (l : List Cmd) : (s.setCmds k i c l).frozen = s.frozen := rfl
@[simp] theorem State.setCmds_thermal (s : State) (k : EngKind) (i c : Nat) (l : List Cmd) : (s.setCmds k i c l).thermal = s.thermal := rfl
@[simp] theorem State.setCmds_clockMHz (s : State) (k : EngKind) (i c : Nat) (l : List Cmd) : (s.setCmds k i c l).clockMHz = s.clockMHz := rfl
@[simp] theorem State.setCmds_cycle (s : State) (k : EngKind) (i c : Nat) (l : List Cmd) : (s.setCmds k i c l).cycle = s.cycle := rfl
@[simp] theorem State.setCmds_time (s : State) (k : EngKind) (i c : Nat) (l : List Cmd) : (s.setCmds k i c l).time = s.time := rfl
@[simp] theorem State.setCmds_timeFrac (s : State) (k : EngKind) (i c : Nat) (l : List Cmd) : (s.setCmds k i c l).timeFrac = s.timeFrac := rfl
@[simp] theorem State.setCmds_phase (s : State) (k : EngKind) (i c : Nat) (l : List Cmd) : (s.setCmds k i c l).phase = s.phase := rfl
@[simp] theorem State.setCmds_curCore (s : State) (k : EngKind) (i c : Nat) (l : List Cmd) : (s.setCmds k i c l).curCore = s.curCore := rfl
@[simp] theorem State.setCmds_curSlot (s : State) (k : EngKind) (i c : Nat) (l : List Cmd) : (s.setCmds k i c l).curSlot = s.curSlot := rfl
@[simp] theorem State.setCmds_agenda (s : State) (k : EngKind) (i c : Nat) (l : List Cmd) : (s.setCmds k i c l).agenda = s.agenda := rfl
@[simp] theorem State.setCmds_seq (s : State) (k : EngKind) (i c : Nat) (l : List Cmd) : (s.setCmds k i c l).seq = s.seq := rfl
@[simp] theorem State.setCmds_drawn (s : State) (k : EngKind) (i c : Nat) (l : List Cmd) : (s.setCmds k i c l).drawn = s.drawn := rfl
@[simp] theorem State.setCmds_out (s : State) (k : EngKind) (i c : Nat) (l : List Cmd) : (s.setCmds k i c l).out = s.out := rfl
@[simp] theorem State.setCmds_unwinds (s : State) (k : EngKind) (i c : Nat) (l : List Cmd) : (s.setCmds k i c l).unwinds = s.unwinds := rfl
@[simp] theorem State.setCmds_filled (s : State) (k : EngKind) (i c : Nat) (l : List Cmd) : (s.setCmds k i c l).filled = s.filled := rfl
@[simp] theorem State.setCmds_recoloured (s : State) (k : EngKind) (i c : Nat) (l : List Cmd) : (s.setCmds k i c l).recoloured = s.recoloured := rfl
@[simp] theorem State.setCmds_badTags (s : State) (k : EngKind) (i c : Nat) (l : List Cmd) : (s.setCmds k i c l).badTags = s.badTags := rfl
@[simp] theorem State.setCmds_softErrors (s : State) (k : EngKind) (i c : Nat) (l : List Cmd) : (s.setCmds k i c l).softErrors = s.softErrors := rfl
@[simp] theorem State.setCmds_refetched (s : State) (k : EngKind) (i c : Nat) (l : List Cmd) : (s.setCmds k i c l).refetched = s.refetched := rfl
@[simp] theorem State.setCmds_farKeys (s : State) (k : EngKind) (i c : Nat) (l : List Cmd) : (s.setCmds k i c l).farKeys = s.farKeys := rfl
@[simp] theorem State.setCmds_stalled (s : State) (k : EngKind) (i c : Nat) (l : List Cmd) : (s.setCmds k i c l).stalled = s.stalled := rfl

@[simp] theorem Slot.setCsr_state (sl : Slot) (i : Nat) (v : Word) : (sl.setCsr i v).state = sl.state := rfl
@[simp] theorem Slot.setCsr_occupant (sl : Slot) (i : Nat) (v : Word) : (sl.setCsr i v).occupant = sl.occupant := rfl
@[simp] theorem Slot.setCsr_pc (sl : Slot) (i : Nat) (v : Word) : (sl.setCsr i v).pc = sl.pc := rfl
@[simp] theorem Slot.setCsr_g (sl : Slot) (i : Nat) (v : Word) : (sl.setCsr i v).g = sl.g := rfl
@[simp] theorem Slot.setCsr_v (sl : Slot) (i : Nat) (v : Word) : (sl.setCsr i v).v = sl.v := rfl
@[simp] theorem Slot.setCsr_k (sl : Slot) (i : Nat) (v : Word) : (sl.setCsr i v).k = sl.k := rfl
@[simp] theorem Slot.setCsr_wait (sl : Slot) (i : Nat) (v : Word) : (sl.setCsr i v).wait = sl.wait := rfl
@[simp] theorem Slot.setCsr_seq (sl : Slot) (i : Nat) (v : Word) : (sl.setCsr i v).seq = sl.seq := rfl
@[simp] theorem Slot.setCsr_reply (sl : Slot) (i : Nat) (v : Word) : (sl.setCsr i v).reply = sl.reply := rfl
@[simp] theorem Slot.setCsr_resuming (sl : Slot) (i : Nat) (v : Word) : (sl.setCsr i v).resuming = sl.resuming := rfl
@[simp] theorem Slot.setCsr_fetched (sl : Slot) (i : Nat) (v : Word) : (sl.setCsr i v).fetched = sl.fetched := rfl
@[simp] theorem Slot.setCsr_lastIssue (sl : Slot) (i : Nat) (v : Word) : (sl.setCsr i v).lastIssue = sl.lastIssue := rfl
@[simp] theorem Slot.setCsr_yielded (sl : Slot) (i : Nat) (v : Word) : (sl.setCsr i v).yielded = sl.yielded := rfl
@[simp] theorem Slot.setCsr_delivered (sl : Slot) (i : Nat) (v : Word) : (sl.setCsr i v).delivered = sl.delivered := rfl
@[simp] theorem Slot.setCsr_miss (sl : Slot) (i : Nat) (v : Word) : (sl.setCsr i v).miss = sl.miss := rfl
@[simp] theorem Slot.setCsr_gen (sl : Slot) (i : Nat) (v : Word) : (sl.setCsr i v).gen = sl.gen := rfl
@[simp] theorem Slot.setCsr_entry (sl : Slot) (i : Nat) (v : Word) : (sl.setCsr i v).entry = sl.entry := rfl
@[simp] theorem Slot.setCsr_slice (sl : Slot) (i : Nat) (v : Word) : (sl.setCsr i v).slice = sl.slice := rfl
@[simp] theorem Slot.setCsr_preempted (sl : Slot) (i : Nat) (v : Word) : (sl.setCsr i v).preempted = sl.preempted := rfl
@[simp] theorem Slot.setCsr_spill (sl : Slot) (i : Nat) (v : Word) : (sl.setCsr i v).spill = sl.spill := rfl
@[simp] theorem Slot.setCsr_hostStores (sl : Slot) (i : Nat) (v : Word) : (sl.setCsr i v).hostStores = sl.hostStores := rfl
@[simp] theorem Slot.setCsr_entered (sl : Slot) (i : Nat) (v : Word) : (sl.setCsr i v).entered = sl.entered := rfl
@[simp] theorem Slot.setCsr_kept (sl : Slot) (i : Nat) (v : Word) : (sl.setCsr i v).kept = sl.kept := rfl
@[simp] theorem Slot.setCsr_owner (sl : Slot) (i : Nat) (v : Word) : (sl.setCsr i v).owner = sl.owner := rfl
@[simp] theorem Slot.setCsr_words (sl : Slot) (i : Nat) (v : Word) : (sl.setCsr i v).words = sl.words := rfl

@[simp] theorem Slot.setVr_state (sl : Slot) (r : BitVec 4) (v : VWord) (p : Presence) : (sl.setVr r v p).state = sl.state := rfl
@[simp] theorem Slot.setVr_occupant (sl : Slot) (r : BitVec 4) (v : VWord) (p : Presence) : (sl.setVr r v p).occupant = sl.occupant := rfl
@[simp] theorem Slot.setVr_pc (sl : Slot) (r : BitVec 4) (v : VWord) (p : Presence) : (sl.setVr r v p).pc = sl.pc := rfl
@[simp] theorem Slot.setVr_g (sl : Slot) (r : BitVec 4) (v : VWord) (p : Presence) : (sl.setVr r v p).g = sl.g := rfl
@[simp] theorem Slot.setVr_k (sl : Slot) (r : BitVec 4) (v : VWord) (p : Presence) : (sl.setVr r v p).k = sl.k := rfl
@[simp] theorem Slot.setVr_csr (sl : Slot) (r : BitVec 4) (v : VWord) (p : Presence) : (sl.setVr r v p).csr = sl.csr := rfl
@[simp] theorem Slot.setVr_wait (sl : Slot) (r : BitVec 4) (v : VWord) (p : Presence) : (sl.setVr r v p).wait = sl.wait := rfl
@[simp] theorem Slot.setVr_seq (sl : Slot) (r : BitVec 4) (v : VWord) (p : Presence) : (sl.setVr r v p).seq = sl.seq := rfl
@[simp] theorem Slot.setVr_reply (sl : Slot) (r : BitVec 4) (v : VWord) (p : Presence) : (sl.setVr r v p).reply = sl.reply := rfl
@[simp] theorem Slot.setVr_resuming (sl : Slot) (r : BitVec 4) (v : VWord) (p : Presence) : (sl.setVr r v p).resuming = sl.resuming := rfl
@[simp] theorem Slot.setVr_fetched (sl : Slot) (r : BitVec 4) (v : VWord) (p : Presence) : (sl.setVr r v p).fetched = sl.fetched := rfl
@[simp] theorem Slot.setVr_lastIssue (sl : Slot) (r : BitVec 4) (v : VWord) (p : Presence) : (sl.setVr r v p).lastIssue = sl.lastIssue := rfl
@[simp] theorem Slot.setVr_yielded (sl : Slot) (r : BitVec 4) (v : VWord) (p : Presence) : (sl.setVr r v p).yielded = sl.yielded := rfl
@[simp] theorem Slot.setVr_delivered (sl : Slot) (r : BitVec 4) (v : VWord) (p : Presence) : (sl.setVr r v p).delivered = sl.delivered := rfl
@[simp] theorem Slot.setVr_miss (sl : Slot) (r : BitVec 4) (v : VWord) (p : Presence) : (sl.setVr r v p).miss = sl.miss := rfl
@[simp] theorem Slot.setVr_gen (sl : Slot) (r : BitVec 4) (v : VWord) (p : Presence) : (sl.setVr r v p).gen = sl.gen := rfl
@[simp] theorem Slot.setVr_entry (sl : Slot) (r : BitVec 4) (v : VWord) (p : Presence) : (sl.setVr r v p).entry = sl.entry := rfl
@[simp] theorem Slot.setVr_slice (sl : Slot) (r : BitVec 4) (v : VWord) (p : Presence) : (sl.setVr r v p).slice = sl.slice := rfl
@[simp] theorem Slot.setVr_preempted (sl : Slot) (r : BitVec 4) (v : VWord) (p : Presence) : (sl.setVr r v p).preempted = sl.preempted := rfl
@[simp] theorem Slot.setVr_spill (sl : Slot) (r : BitVec 4) (v : VWord) (p : Presence) : (sl.setVr r v p).spill = sl.spill := rfl
@[simp] theorem Slot.setVr_hostStores (sl : Slot) (r : BitVec 4) (v : VWord) (p : Presence) : (sl.setVr r v p).hostStores = sl.hostStores := rfl
@[simp] theorem Slot.setVr_entered (sl : Slot) (r : BitVec 4) (v : VWord) (p : Presence) : (sl.setVr r v p).entered = sl.entered := rfl
@[simp] theorem Slot.setVr_kept (sl : Slot) (r : BitVec 4) (v : VWord) (p : Presence) : (sl.setVr r v p).kept = sl.kept := rfl
@[simp] theorem Slot.setVr_owner (sl : Slot) (r : BitVec 4) (v : VWord) (p : Presence) : (sl.setVr r v p).owner = sl.owner := rfl
@[simp] theorem Slot.setVr_words (sl : Slot) (r : BitVec 4) (v : VWord) (p : Presence) : (sl.setVr r v p).words = sl.words := rfl

@[simp] theorem Slot.advance_occupant (sl : Slot) : (sl.advance).occupant = sl.occupant := rfl
@[simp] theorem Slot.advance_g (sl : Slot) : (sl.advance).g = sl.g := rfl
@[simp] theorem Slot.advance_v (sl : Slot) : (sl.advance).v = sl.v := rfl
@[simp] theorem Slot.advance_k (sl : Slot) : (sl.advance).k = sl.k := rfl
@[simp] theorem Slot.advance_csr (sl : Slot) : (sl.advance).csr = sl.csr := rfl
@[simp] theorem Slot.advance_seq (sl : Slot) : (sl.advance).seq = sl.seq := rfl
@[simp] theorem Slot.advance_lastIssue (sl : Slot) : (sl.advance).lastIssue = sl.lastIssue := rfl
@[simp] theorem Slot.advance_yielded (sl : Slot) : (sl.advance).yielded = sl.yielded := rfl
@[simp] theorem Slot.advance_delivered (sl : Slot) : (sl.advance).delivered = sl.delivered := rfl
@[simp] theorem Slot.advance_miss (sl : Slot) : (sl.advance).miss = sl.miss := rfl
@[simp] theorem Slot.advance_gen (sl : Slot) : (sl.advance).gen = sl.gen := rfl
@[simp] theorem Slot.advance_entry (sl : Slot) : (sl.advance).entry = sl.entry := rfl
@[simp] theorem Slot.advance_slice (sl : Slot) : (sl.advance).slice = sl.slice := rfl
@[simp] theorem Slot.advance_preempted (sl : Slot) : (sl.advance).preempted = sl.preempted := rfl
@[simp] theorem Slot.advance_spill (sl : Slot) : (sl.advance).spill = sl.spill := rfl
@[simp] theorem Slot.advance_hostStores (sl : Slot) : (sl.advance).hostStores = sl.hostStores := rfl
@[simp] theorem Slot.advance_entered (sl : Slot) : (sl.advance).entered = sl.entered := rfl
@[simp] theorem Slot.advance_kept (sl : Slot) : (sl.advance).kept = [] := rfl
@[simp] theorem Slot.advance_owner (sl : Slot) : (sl.advance).owner = sl.owner := rfl
@[simp] theorem Slot.advance_words (sl : Slot) : (sl.advance).words = [] := rfl

@[simp] theorem Slot.jump_occupant (sl : Slot) (pc : Word) : (sl.jump pc).occupant = sl.occupant := rfl
@[simp] theorem Slot.jump_g (sl : Slot) (pc : Word) : (sl.jump pc).g = sl.g := rfl
@[simp] theorem Slot.jump_v (sl : Slot) (pc : Word) : (sl.jump pc).v = sl.v := rfl
@[simp] theorem Slot.jump_k (sl : Slot) (pc : Word) : (sl.jump pc).k = sl.k := rfl
@[simp] theorem Slot.jump_csr (sl : Slot) (pc : Word) : (sl.jump pc).csr = sl.csr := rfl
@[simp] theorem Slot.jump_seq (sl : Slot) (pc : Word) : (sl.jump pc).seq = sl.seq := rfl
@[simp] theorem Slot.jump_lastIssue (sl : Slot) (pc : Word) : (sl.jump pc).lastIssue = sl.lastIssue := rfl
@[simp] theorem Slot.jump_yielded (sl : Slot) (pc : Word) : (sl.jump pc).yielded = sl.yielded := rfl
@[simp] theorem Slot.jump_delivered (sl : Slot) (pc : Word) : (sl.jump pc).delivered = sl.delivered := rfl
@[simp] theorem Slot.jump_miss (sl : Slot) (pc : Word) : (sl.jump pc).miss = sl.miss := rfl
@[simp] theorem Slot.jump_gen (sl : Slot) (pc : Word) : (sl.jump pc).gen = sl.gen := rfl
@[simp] theorem Slot.jump_entry (sl : Slot) (pc : Word) : (sl.jump pc).entry = sl.entry := rfl
@[simp] theorem Slot.jump_slice (sl : Slot) (pc : Word) : (sl.jump pc).slice = sl.slice := rfl
@[simp] theorem Slot.jump_preempted (sl : Slot) (pc : Word) : (sl.jump pc).preempted = sl.preempted := rfl
@[simp] theorem Slot.jump_spill (sl : Slot) (pc : Word) : (sl.jump pc).spill = sl.spill := rfl
@[simp] theorem Slot.jump_hostStores (sl : Slot) (pc : Word) : (sl.jump pc).hostStores = sl.hostStores := rfl
@[simp] theorem Slot.jump_entered (sl : Slot) (pc : Word) : (sl.jump pc).entered = sl.entered := rfl
@[simp] theorem Slot.jump_kept (sl : Slot) (pc : Word) : (sl.jump pc).kept = [] := rfl
@[simp] theorem Slot.jump_owner (sl : Slot) (pc : Word) : (sl.jump pc).owner = sl.owner := rfl
@[simp] theorem Slot.jump_words (sl : Slot) (pc : Word) : (sl.jump pc).words = [] := rfl

@[simp] theorem Slot.setG_state (sl : Slot) (r : BitVec 5) (v : Word) (p : Presence) : (sl.setG r v p).state = sl.state := by
  unfold Slot.setG; split <;> rfl
@[simp] theorem Slot.setG_occupant (sl : Slot) (r : BitVec 5) (v : Word) (p : Presence) : (sl.setG r v p).occupant = sl.occupant := by
  unfold Slot.setG; split <;> rfl
@[simp] theorem Slot.setG_pc (sl : Slot) (r : BitVec 5) (v : Word) (p : Presence) : (sl.setG r v p).pc = sl.pc := by
  unfold Slot.setG; split <;> rfl
@[simp] theorem Slot.setG_v (sl : Slot) (r : BitVec 5) (v : Word) (p : Presence) : (sl.setG r v p).v = sl.v := by
  unfold Slot.setG; split <;> rfl
@[simp] theorem Slot.setG_k (sl : Slot) (r : BitVec 5) (v : Word) (p : Presence) : (sl.setG r v p).k = sl.k := by
  unfold Slot.setG; split <;> rfl
@[simp] theorem Slot.setG_csr (sl : Slot) (r : BitVec 5) (v : Word) (p : Presence) : (sl.setG r v p).csr = sl.csr := by
  unfold Slot.setG; split <;> rfl
@[simp] theorem Slot.setG_wait (sl : Slot) (r : BitVec 5) (v : Word) (p : Presence) : (sl.setG r v p).wait = sl.wait := by
  unfold Slot.setG; split <;> rfl
@[simp] theorem Slot.setG_seq (sl : Slot) (r : BitVec 5) (v : Word) (p : Presence) : (sl.setG r v p).seq = sl.seq := by
  unfold Slot.setG; split <;> rfl
@[simp] theorem Slot.setG_reply (sl : Slot) (r : BitVec 5) (v : Word) (p : Presence) : (sl.setG r v p).reply = sl.reply := by
  unfold Slot.setG; split <;> rfl
@[simp] theorem Slot.setG_resuming (sl : Slot) (r : BitVec 5) (v : Word) (p : Presence) : (sl.setG r v p).resuming = sl.resuming := by
  unfold Slot.setG; split <;> rfl
@[simp] theorem Slot.setG_fetched (sl : Slot) (r : BitVec 5) (v : Word) (p : Presence) : (sl.setG r v p).fetched = sl.fetched := by
  unfold Slot.setG; split <;> rfl
@[simp] theorem Slot.setG_lastIssue (sl : Slot) (r : BitVec 5) (v : Word) (p : Presence) : (sl.setG r v p).lastIssue = sl.lastIssue := by
  unfold Slot.setG; split <;> rfl
@[simp] theorem Slot.setG_yielded (sl : Slot) (r : BitVec 5) (v : Word) (p : Presence) : (sl.setG r v p).yielded = sl.yielded := by
  unfold Slot.setG; split <;> rfl
@[simp] theorem Slot.setG_delivered (sl : Slot) (r : BitVec 5) (v : Word) (p : Presence) : (sl.setG r v p).delivered = sl.delivered := by
  unfold Slot.setG; split <;> rfl
@[simp] theorem Slot.setG_miss (sl : Slot) (r : BitVec 5) (v : Word) (p : Presence) : (sl.setG r v p).miss = sl.miss := by
  unfold Slot.setG; split <;> rfl
@[simp] theorem Slot.setG_gen (sl : Slot) (r : BitVec 5) (v : Word) (p : Presence) : (sl.setG r v p).gen = sl.gen := by
  unfold Slot.setG; split <;> rfl
@[simp] theorem Slot.setG_entry (sl : Slot) (r : BitVec 5) (v : Word) (p : Presence) : (sl.setG r v p).entry = sl.entry := by
  unfold Slot.setG; split <;> rfl
@[simp] theorem Slot.setG_slice (sl : Slot) (r : BitVec 5) (v : Word) (p : Presence) : (sl.setG r v p).slice = sl.slice := by
  unfold Slot.setG; split <;> rfl
@[simp] theorem Slot.setG_preempted (sl : Slot) (r : BitVec 5) (v : Word) (p : Presence) : (sl.setG r v p).preempted = sl.preempted := by
  unfold Slot.setG; split <;> rfl
@[simp] theorem Slot.setG_spill (sl : Slot) (r : BitVec 5) (v : Word) (p : Presence) : (sl.setG r v p).spill = sl.spill := by
  unfold Slot.setG; split <;> rfl
@[simp] theorem Slot.setG_hostStores (sl : Slot) (r : BitVec 5) (v : Word) (p : Presence) : (sl.setG r v p).hostStores = sl.hostStores := by
  unfold Slot.setG; split <;> rfl
@[simp] theorem Slot.setG_entered (sl : Slot) (r : BitVec 5) (v : Word) (p : Presence) : (sl.setG r v p).entered = sl.entered := by
  unfold Slot.setG; split <;> rfl
@[simp] theorem Slot.setG_kept (sl : Slot) (r : BitVec 5) (v : Word) (p : Presence) : (sl.setG r v p).kept = sl.kept := by
  unfold Slot.setG; split <;> rfl
@[simp] theorem Slot.setG_owner (sl : Slot) (r : BitVec 5) (v : Word) (p : Presence) : (sl.setG r v p).owner = sl.owner := by
  unfold Slot.setG; split <;> rfl
@[simp] theorem Slot.setG_words (sl : Slot) (r : BitVec 5) (v : Word) (p : Presence) : (sl.setG r v p).words = sl.words := by
  unfold Slot.setG; split <;> rfl

@[simp] theorem Slot.setK_state (sl : Slot) (r : BitVec 3) (v : BitVec 32) (p : Presence) : (sl.setK r v p).state = sl.state := by
  unfold Slot.setK; split <;> rfl
@[simp] theorem Slot.setK_occupant (sl : Slot) (r : BitVec 3) (v : BitVec 32) (p : Presence) : (sl.setK r v p).occupant = sl.occupant := by
  unfold Slot.setK; split <;> rfl
@[simp] theorem Slot.setK_pc (sl : Slot) (r : BitVec 3) (v : BitVec 32) (p : Presence) : (sl.setK r v p).pc = sl.pc := by
  unfold Slot.setK; split <;> rfl
@[simp] theorem Slot.setK_g (sl : Slot) (r : BitVec 3) (v : BitVec 32) (p : Presence) : (sl.setK r v p).g = sl.g := by
  unfold Slot.setK; split <;> rfl
@[simp] theorem Slot.setK_v (sl : Slot) (r : BitVec 3) (v : BitVec 32) (p : Presence) : (sl.setK r v p).v = sl.v := by
  unfold Slot.setK; split <;> rfl
@[simp] theorem Slot.setK_csr (sl : Slot) (r : BitVec 3) (v : BitVec 32) (p : Presence) : (sl.setK r v p).csr = sl.csr := by
  unfold Slot.setK; split <;> rfl
@[simp] theorem Slot.setK_wait (sl : Slot) (r : BitVec 3) (v : BitVec 32) (p : Presence) : (sl.setK r v p).wait = sl.wait := by
  unfold Slot.setK; split <;> rfl
@[simp] theorem Slot.setK_seq (sl : Slot) (r : BitVec 3) (v : BitVec 32) (p : Presence) : (sl.setK r v p).seq = sl.seq := by
  unfold Slot.setK; split <;> rfl
@[simp] theorem Slot.setK_reply (sl : Slot) (r : BitVec 3) (v : BitVec 32) (p : Presence) : (sl.setK r v p).reply = sl.reply := by
  unfold Slot.setK; split <;> rfl
@[simp] theorem Slot.setK_resuming (sl : Slot) (r : BitVec 3) (v : BitVec 32) (p : Presence) : (sl.setK r v p).resuming = sl.resuming := by
  unfold Slot.setK; split <;> rfl
@[simp] theorem Slot.setK_fetched (sl : Slot) (r : BitVec 3) (v : BitVec 32) (p : Presence) : (sl.setK r v p).fetched = sl.fetched := by
  unfold Slot.setK; split <;> rfl
@[simp] theorem Slot.setK_lastIssue (sl : Slot) (r : BitVec 3) (v : BitVec 32) (p : Presence) : (sl.setK r v p).lastIssue = sl.lastIssue := by
  unfold Slot.setK; split <;> rfl
@[simp] theorem Slot.setK_yielded (sl : Slot) (r : BitVec 3) (v : BitVec 32) (p : Presence) : (sl.setK r v p).yielded = sl.yielded := by
  unfold Slot.setK; split <;> rfl
@[simp] theorem Slot.setK_delivered (sl : Slot) (r : BitVec 3) (v : BitVec 32) (p : Presence) : (sl.setK r v p).delivered = sl.delivered := by
  unfold Slot.setK; split <;> rfl
@[simp] theorem Slot.setK_miss (sl : Slot) (r : BitVec 3) (v : BitVec 32) (p : Presence) : (sl.setK r v p).miss = sl.miss := by
  unfold Slot.setK; split <;> rfl
@[simp] theorem Slot.setK_gen (sl : Slot) (r : BitVec 3) (v : BitVec 32) (p : Presence) : (sl.setK r v p).gen = sl.gen := by
  unfold Slot.setK; split <;> rfl
@[simp] theorem Slot.setK_entry (sl : Slot) (r : BitVec 3) (v : BitVec 32) (p : Presence) : (sl.setK r v p).entry = sl.entry := by
  unfold Slot.setK; split <;> rfl
@[simp] theorem Slot.setK_slice (sl : Slot) (r : BitVec 3) (v : BitVec 32) (p : Presence) : (sl.setK r v p).slice = sl.slice := by
  unfold Slot.setK; split <;> rfl
@[simp] theorem Slot.setK_preempted (sl : Slot) (r : BitVec 3) (v : BitVec 32) (p : Presence) : (sl.setK r v p).preempted = sl.preempted := by
  unfold Slot.setK; split <;> rfl
@[simp] theorem Slot.setK_spill (sl : Slot) (r : BitVec 3) (v : BitVec 32) (p : Presence) : (sl.setK r v p).spill = sl.spill := by
  unfold Slot.setK; split <;> rfl
@[simp] theorem Slot.setK_hostStores (sl : Slot) (r : BitVec 3) (v : BitVec 32) (p : Presence) : (sl.setK r v p).hostStores = sl.hostStores := by
  unfold Slot.setK; split <;> rfl
@[simp] theorem Slot.setK_entered (sl : Slot) (r : BitVec 3) (v : BitVec 32) (p : Presence) : (sl.setK r v p).entered = sl.entered := by
  unfold Slot.setK; split <;> rfl
@[simp] theorem Slot.setK_kept (sl : Slot) (r : BitVec 3) (v : BitVec 32) (p : Presence) : (sl.setK r v p).kept = sl.kept := by
  unfold Slot.setK; split <;> rfl
@[simp] theorem Slot.setK_owner (sl : Slot) (r : BitVec 3) (v : BitVec 32) (p : Presence) : (sl.setK r v p).owner = sl.owner := by
  unfold Slot.setK; split <;> rfl
@[simp] theorem Slot.setK_words (sl : Slot) (r : BitVec 3) (v : BitVec 32) (p : Presence) : (sl.setK r v p).words = sl.words := by
  unfold Slot.setK; split <;> rfl

end Sys2Proof.Machine
end

