-- ==== Sys2Proof/Laws/Tab.lean ====
section
/-! SUPPORT. Laws of the sparse tables: a read after a write, other keys, and the canonical form. -/

namespace Sys2Proof.Machine

theorem tabGet_tabDrop_self {α : Type} (d : α) (t : List (Nat × α)) (k : Nat) : tabGet d (tabDrop t k) k = d := by
  induction t with
  | nil => rfl
  | cons e t ih =>
    obtain ⟨j, v⟩ := e
    simp only [tabDrop]
    split
    · exact ih
    · rename_i h
      simp [tabGet, show ¬ j = k by omega, show k < j by omega]

theorem tabGet_tabDrop_gt {α : Type} (d : α) (t : List (Nat × α)) {k i : Nat} (h : k < i) :
    tabGet d (tabDrop t k) i = tabGet d t i := by
  induction t with
  | nil => rfl
  | cons e t ih =>
    obtain ⟨j, v⟩ := e
    simp only [tabDrop]
    split
    · simp [tabGet, show ¬ j = i by omega, show ¬ i < j by omega, ih]
    · rfl

theorem tabGet_tabDrop_lt {α : Type} (d : α) (t : List (Nat × α)) {k i : Nat} (h : i < k) : tabGet d (tabDrop t k) i = d := by
  induction t with
  | nil => rfl
  | cons e t ih =>
    obtain ⟨j, v⟩ := e
    simp only [tabDrop]
    split
    · exact ih
    · simp [tabGet, show ¬ j = i by omega, show i < j by omega]

/-- A read after a write to the same key gives the value written. -/
@[simp] theorem tabGet_tabPut_self {α : Type} [DecidableEq α] (d : α) (t : List (Nat × α)) (k : Nat) (v : α) :
    tabGet d (tabPut d t k v) k = v := by
  induction t with
  | nil => by_cases h : v = d <;> simp [tabPut, tabGet, h]
  | cons e t ih =>
    obtain ⟨j, w⟩ := e
    by_cases h1 : j = k
    · by_cases h : v = d
      · simp [tabPut, h1, h, tabGet_tabDrop_self]
      · simp [tabPut, h1, h, tabGet]
    · by_cases h2 : k < j
      · by_cases h : v = d <;> simp [tabPut, h1, h2, h, tabGet]
      · simp [tabPut, h1, h2, tabGet, ih]

/-- A write leaves every other key alone. -/
theorem tabGet_tabPut_ne {α : Type} [DecidableEq α] (d : α) (t : List (Nat × α)) {k i : Nat} (v : α) (hne : i ≠ k) :
    tabGet d (tabPut d t k v) i = tabGet d t i := by
  induction t with
  | nil =>
    by_cases h : v = d
    · simp [tabPut, h]
    · simp [tabPut, h, tabGet, Ne.symm hne]
  | cons e t ih =>
    obtain ⟨j, w⟩ := e
    by_cases h1 : j = k
    · subst h1
      by_cases h : v = d
      · simp only [tabPut, h, if_true]
        by_cases h3 : j < i
        · simp [tabGet_tabDrop_gt d t h3, tabGet, show ¬ j = i by omega, show ¬ i < j by omega]
        · have h4 : i < j := by omega
          simp [tabGet_tabDrop_lt d t h4, tabGet, show ¬ j = i by omega, h4]
      · simp [tabPut, h, tabGet, Ne.symm hne]
    · by_cases h2 : k < j
      · by_cases h : v = d
        · simp [tabPut, h1, h2, h]
        · simp only [tabPut, h1, if_false, h2, if_true, h, tabGet, Ne.symm hne]
          by_cases h3 : i < k
          · simp [h3, show ¬ j = i by omega, show i < j by omega]
          · simp [h3]
      · simp [tabPut, h1, h2, tabGet, ih]

/-- The head of a table in canonical form. -/
theorem tabWf_cons {α : Type} [DecidableEq α] {d : α} {j : Nat} {v : α} {t : List (Nat × α)} :
    tabWf d ((j, v) :: t) = true ↔ v ≠ d ∧ (∀ e ∈ t.head?, j < e.1) ∧ tabWf d t = true := by
  cases t with
  | nil => simp [tabWf]
  | cons e t => obtain ⟨k, w⟩ := e; simp [tabWf, and_assoc]

/-- Every key of a table in canonical form lies above its head's. -/
theorem tabWf_lt {α : Type} [DecidableEq α] {d : α} {j : Nat} {v : α} {t : List (Nat × α)}
    (h : tabWf d ((j, v) :: t) = true) : ∀ e ∈ t, j < e.1 := by
  induction t generalizing j v with
  | nil => simp
  | cons e t ih =>
    have h' := tabWf_cons.1 h
    intro x hx
    have hj : j < e.1 := h'.2.1 e (by simp)
    rcases List.mem_cons.1 hx with rfl | hx
    · exact hj
    · exact Nat.lt_trans hj (ih (v := e.2) h'.2.2 x hx)

theorem tabWf_of {α : Type} [DecidableEq α] {d : α} {j : Nat} {v : α} {t : List (Nat × α)} (hv : v ≠ d)
    (hl : ∀ e ∈ t, j < e.1) (ht : tabWf d t = true) : tabWf d ((j, v) :: t) = true :=
  tabWf_cons.2 ⟨hv, fun e he => hl e (by cases t <;> simp_all), ht⟩

/-- A part of a table in canonical form, cut out by a test, is in canonical form. -/
theorem tabWf_filter {α : Type} [DecidableEq α] {d : α} (f : Nat × α → Bool) {t : List (Nat × α)} (h : tabWf d t = true) :
    tabWf d (t.filter f) = true := by
  induction t with
  | nil => rfl
  | cons e t ih =>
    obtain ⟨j, v⟩ := e
    have h' := tabWf_cons.1 h
    by_cases hf : f (j, v) = true
    · simp only [List.filter_cons, hf, if_true]
      exact tabWf_of h'.1 (fun e he => tabWf_lt h e ((List.mem_filter.1 he).1)) (ih h'.2.2)
    · simp only [List.filter_cons, hf]
      exact ih h'.2.2

theorem tabDrop_eq {α : Type} (t : List (Nat × α)) (k : Nat) : ∃ l, t = l ++ tabDrop t k := by
  induction t with
  | nil => exact ⟨[], rfl⟩
  | cons e t ih =>
    obtain ⟨j, v⟩ := e
    simp only [tabDrop]
    split
    · obtain ⟨l, hl⟩ := ih
      exact ⟨(j, v) :: l, by simp [← hl]⟩
    · exact ⟨[], rfl⟩

theorem tabWf_tabDrop {α : Type} [DecidableEq α] {d : α} {t : List (Nat × α)} (k : Nat) (h : tabWf d t = true) :
    tabWf d (tabDrop t k) = true := by
  induction t with
  | nil => rfl
  | cons e t ih =>
    obtain ⟨j, v⟩ := e
    simp only [tabDrop]
    split
    · exact ih (tabWf_cons.1 h).2.2
    · exact h

theorem mem_tabPut {α : Type} [DecidableEq α] {d : α} {t : List (Nat × α)} {k : Nat} {v : α} {e : Nat × α}
    (h : e ∈ tabPut d t k v) : e.1 = k ∨ e ∈ t := by
  induction t with
  | nil =>
    by_cases hv : v = d
    · simp [tabPut, hv] at h
    · simp [tabPut, hv] at h; exact .inl (by rw [h])
  | cons x t ih =>
    obtain ⟨j, w⟩ := x
    by_cases h1 : j = k
    · by_cases hv : v = d
      · simp only [tabPut, h1, hv, if_true] at h
        obtain ⟨l, hl⟩ := tabDrop_eq t k
        exact .inr (List.mem_cons_of_mem _ (hl ▸ List.mem_append_right l h))
      · simp only [tabPut, h1, hv, if_true, if_false] at h
        rcases List.mem_cons.1 h with rfl | h
        · exact .inl rfl
        · exact .inr (List.mem_cons_of_mem _ h)
    · by_cases h2 : k < j
      · by_cases hv : v = d
        · simp only [tabPut, h1, h2, hv, if_true, if_false] at h; exact .inr h
        · simp only [tabPut, h1, h2, hv, if_true, if_false] at h
          rcases List.mem_cons.1 h with rfl | h
          · exact .inl rfl
          · exact .inr h
      · simp only [tabPut, h1, h2, if_false] at h
        rcases List.mem_cons.1 h with rfl | h
        · exact .inr (List.mem_cons_self ..)
        · exact (ih h).imp id (List.mem_cons_of_mem _)

/-- A write keeps the canonical form. -/
theorem tabWf_tabPut {α : Type} [DecidableEq α] {d : α} {t : List (Nat × α)} (k : Nat) (v : α) (h : tabWf d t = true) :
    tabWf d (tabPut d t k v) = true := by
  induction t with
  | nil => by_cases hv : v = d <;> simp [tabPut, hv, tabWf]
  | cons e t ih =>
    obtain ⟨j, w⟩ := e
    have h' := tabWf_cons.1 h
    by_cases h1 : j = k
    · subst h1
      by_cases hv : v = d
      · simp only [tabPut, hv, if_true]; exact tabWf_tabDrop j h'.2.2
      · simp only [tabPut, hv, if_true, if_false]; exact tabWf_of hv (tabWf_lt h) h'.2.2
    · by_cases h2 : k < j
      · by_cases hv : v = d
        · simp only [tabPut, h1, h2, hv, if_true, if_false]; exact h
        · simp only [tabPut, h1, h2, hv, if_true, if_false]
          refine tabWf_of hv (fun e he => ?_) h
          rcases List.mem_cons.1 he with rfl | he
          · exact h2
          · exact Nat.lt_trans h2 (tabWf_lt h e he)
      · simp only [tabPut, h1, h2, if_false]
        refine tabWf_of h'.1 (fun e he => ?_) (ih h'.2.2)
        rcases mem_tabPut he with he | he
        · omega
        · exact tabWf_lt h e he

theorem tabGet_of_lt {α : Type} {d : α} {t : List (Nat × α)} {k : Nat} (h : ∀ e ∈ t.head?, k < e.1) : tabGet d t k = d := by
  cases t with
  | nil => rfl
  | cons e t =>
    obtain ⟨j, v⟩ := e
    have : k < j := h (j, v) (by simp)
    simp [tabGet, show ¬ j = k by omega, this]

/-- Two tables in canonical form with the same contents are the same data. -/
theorem tabWf_ext {α : Type} [DecidableEq α] {d : α} {t u : List (Nat × α)} (ht : tabWf d t = true) (hu : tabWf d u = true)
    (h : ∀ k, tabGet d t k = tabGet d u k) : t = u := by
  induction t generalizing u with
  | nil =>
    cases u with
    | nil => rfl
    | cons e u =>
      obtain ⟨j, v⟩ := e
      have := h j
      simp [tabGet] at this
      exact absurd this.symm (tabWf_cons.1 hu).1
  | cons e t ih =>
    obtain ⟨j, v⟩ := e
    have ht' := tabWf_cons.1 ht
    cases u with
    | nil =>
      have := h j
      simp [tabGet] at this
      exact absurd this ht'.1
    | cons x u =>
      obtain ⟨k, w⟩ := x
      have hu' := tabWf_cons.1 hu
      have hjk : j = k := by
        rcases Nat.lt_trichotomy j k with hlt | heq | hgt
        · have := h j
          simp [tabGet, show ¬ k = j by omega, hlt] at this
          exact absurd this ht'.1
        · exact heq
        · have := h k
          simp [tabGet, show ¬ j = k by omega, hgt] at this
          exact absurd this.symm hu'.1
      subst hjk
      have hv : v = w := by simpa [tabGet] using h j
      subst hv
      congr 1
      refine ih ht'.2.2 hu'.2.2 (fun i => ?_)
      by_cases hij : i = j
      · subst hij
        rw [tabGet_of_lt ht'.2.1, tabGet_of_lt hu'.2.1]
      · have := h i
        by_cases hlt : i < j
        · rw [tabGet_of_lt (fun e he => Nat.lt_trans hlt (ht'.2.1 e he)), tabGet_of_lt (fun e he => Nat.lt_trans hlt (hu'.2.1 e he))]
        · simpa [tabGet, Ne.symm hij, hlt] using this

end Sys2Proof.Machine
end

