-- ==== Sys2Proof/Laws/Ops.lean ====
section
/-! SUPPORT. Laws of the named operations: slots, registers and CSRs after a write, the gate of R124, how a meaning ends, and
raw memory with its canonical form. -/

namespace Sys2Proof.Machine

/-! ### Slots -/

@[simp] theorem State.slotAt_setSlot_self (s : State) (c k : Nat) (x : Slot) : (s.setSlot c k x).slotAt c k = x := by
  simp [State.slotAt, State.setSlot]

theorem State.slotAt_setSlot_ne (s : State) {c k c' k' : Nat} (x : Slot) (h : c' * 16 + k' ≠ c * 16 + k) :
    (s.setSlot c k x).slotAt c' k' = s.slotAt c' k' := by
  simp [State.slotAt, State.setSlot, tabGet_tabPut_ne _ _ _ h]

@[simp] theorem State.me_setMe (s : State) (x : Slot) : (s.setMe x).me = x := by simp [State.me, State.setMe]

theorem State.slotAt_setMe_ne (s : State) {c k : Nat} (x : Slot) (h : c * 16 + k ≠ s.curCore * 16 + s.curSlot) :
    (s.setMe x).slotAt c k = s.slotAt c k := s.slotAt_setSlot_ne x h

/-- What replacing the executing slot leaves alone. -/
theorem State.setMe_onlySlots (s : State) (x : Slot) : s.onlySlots (s.setMe x) := rfl

theorem State.setMe_sameOthers (s : State) (x : Slot) : s.sameOthers (s.setMe x) := fun _ _ h => s.slotAt_setMe_ne x h

theorem State.setMe_sameMemory (s : State) (x : Slot) : s.sameMemory (s.setMe x) := ⟨fun _ => rfl, fun _ => rfl⟩

/-! ### Registers and CSRs -/

@[simp] theorem Slot.csrv_setCsr_self (sl : Slot) (i : Nat) (v : Word) : (sl.setCsr i v).csrv i = v := by
  simp [Slot.csrv, Slot.setCsr]

theorem Slot.csrv_setCsr_ne (sl : Slot) {i j : Nat} (v : Word) (h : j ≠ i) : (sl.setCsr i v).csrv j = sl.csrv j := by
  simp [Slot.csrv, Slot.setCsr, tabGet_tabPut_ne _ _ _ h]

@[simp] theorem Slot.gp_setCsr (sl : Slot) (i : Nat) (v : Word) (r : BitVec 5) : (sl.setCsr i v).gp r = sl.gp r := rfl
@[simp] theorem Slot.vp_setCsr (sl : Slot) (i : Nat) (v : Word) (r : BitVec 4) : (sl.setCsr i v).vp r = sl.vp r := rfl
@[simp] theorem Slot.kp_setCsr (sl : Slot) (i : Nat) (v : Word) (r : BitVec 3) : (sl.setCsr i v).kp r = sl.kp r := rfl
@[simp] theorem Slot.gp_advance (sl : Slot) (r : BitVec 5) : sl.advance.gp r = sl.gp r := rfl
@[simp] theorem Slot.vp_advance (sl : Slot) (r : BitVec 4) : sl.advance.vp r = sl.vp r := rfl
@[simp] theorem Slot.kp_advance (sl : Slot) (r : BitVec 3) : sl.advance.kp r = sl.kp r := rfl
@[simp] theorem Slot.csrv_advance (sl : Slot) (i : Nat) : sl.advance.csrv i = sl.csrv i := rfl
@[simp] theorem Slot.gp_jump (sl : Slot) (p : Word) (r : BitVec 5) : (sl.jump p).gp r = sl.gp r := rfl
@[simp] theorem Slot.vp_jump (sl : Slot) (p : Word) (r : BitVec 4) : (sl.jump p).vp r = sl.vp r := rfl
@[simp] theorem Slot.kp_jump (sl : Slot) (p : Word) (r : BitVec 3) : (sl.jump p).kp r = sl.kp r := rfl
@[simp] theorem Slot.csrv_jump (sl : Slot) (p : Word) (i : Nat) : (sl.jump p).csrv i = sl.csrv i := rfl

/-- g0 is 0 and FULL whatever is written (R121). -/
@[simp] theorem Slot.gp_zero (sl : Slot) : sl.gp 0 = (0, .full) := rfl
/-- k0 is all ones and FULL whatever is written (R123). -/
@[simp] theorem Slot.kp_zero (sl : Slot) : sl.kp 0 = (0xFFFFFFFF, .full) := rfl

theorem Slot.gp_setG_self (sl : Slot) {r : BitVec 5} (v : Word) (p : Presence) (h : r ≠ 0) : (sl.setG r v p).gp r = (v, p) := by
  unfold Slot.gp Slot.setG
  rw [if_neg h, if_neg h]
  exact tabGet_tabPut_self ..

theorem Slot.gp_setG_ne (sl : Slot) {r q : BitVec 5} (v : Word) (p : Presence) (h : q ≠ r) : (sl.setG r v p).gp q = sl.gp q := by
  have : q.toNat ≠ r.toNat := fun e => h (BitVec.eq_of_toNat_eq e)
  unfold Slot.gp Slot.setG
  by_cases h1 : q = 0
  · rw [if_pos h1, if_pos h1]
  · rw [if_neg h1, if_neg h1]
    by_cases h2 : r = 0
    · rw [if_pos h2]
    · rw [if_neg h2]; exact tabGet_tabPut_ne _ _ _ this

theorem Slot.vp_setVr_self (sl : Slot) (r : BitVec 4) (v : VWord) (p : Presence) : (sl.setVr r v p).vp r = (v, p) := by
  simp [Slot.vp, Slot.setVr]

theorem Slot.vp_setVr_ne (sl : Slot) {r q : BitVec 4} (v : VWord) (p : Presence) (h : q ≠ r) : (sl.setVr r v p).vp q = sl.vp q := by
  have : q.toNat ≠ r.toNat := fun e => h (BitVec.eq_of_toNat_eq e)
  simp [Slot.vp, Slot.setVr, tabGet_tabPut_ne _ _ _ this]

theorem Slot.kp_setK_self (sl : Slot) {r : BitVec 3} (v : BitVec 32) (p : Presence) (h : r ≠ 0) :
    (sl.setK r v p).kp r = (v, p) := by
  unfold Slot.kp Slot.setK
  rw [if_neg h, if_neg h]
  exact tabGet_tabPut_self ..

theorem Slot.kp_setK_ne (sl : Slot) {r q : BitVec 3} (v : BitVec 32) (p : Presence) (h : q ≠ r) :
    (sl.setK r v p).kp q = sl.kp q := by
  have : q.toNat ≠ r.toNat := fun e => h (BitVec.eq_of_toNat_eq e)
  unfold Slot.kp Slot.setK
  by_cases h1 : q = 0
  · rw [if_pos h1, if_pos h1]
  · rw [if_neg h1, if_neg h1]
    by_cases h2 : r = 0
    · rw [if_pos h2]
    · rw [if_neg h2]; exact tabGet_tabPut_ne _ _ _ this

@[simp] theorem Slot.vp_setG (sl : Slot) (r : BitVec 5) (v : Word) (p : Presence) (q : BitVec 4) : (sl.setG r v p).vp q = sl.vp q := by
  unfold Slot.vp; simp
@[simp] theorem Slot.kp_setG (sl : Slot) (r : BitVec 5) (v : Word) (p : Presence) (q : BitVec 3) : (sl.setG r v p).kp q = sl.kp q := by
  unfold Slot.kp; simp
@[simp] theorem Slot.gp_setVr (sl : Slot) (r : BitVec 4) (v : VWord) (p : Presence) (q : BitVec 5) : (sl.setVr r v p).gp q = sl.gp q := rfl
@[simp] theorem Slot.kp_setVr (sl : Slot) (r : BitVec 4) (v : VWord) (p : Presence) (q : BitVec 3) : (sl.setVr r v p).kp q = sl.kp q := rfl
@[simp] theorem Slot.gp_setK (sl : Slot) (r : BitVec 3) (v : BitVec 32) (p : Presence) (q : BitVec 5) : (sl.setK r v p).gp q = sl.gp q := by
  unfold Slot.gp; simp
@[simp] theorem Slot.vp_setK (sl : Slot) (r : BitVec 3) (v : BitVec 32) (p : Presence) (q : BitVec 4) : (sl.setK r v p).vp q = sl.vp q := by
  unfold Slot.vp; simp
@[simp] theorem Slot.csrv_setG (sl : Slot) (r : BitVec 5) (v : Word) (p : Presence) (i : Nat) : (sl.setG r v p).csrv i = sl.csrv i := by
  unfold Slot.csrv; simp
@[simp] theorem Slot.csrv_setVr (sl : Slot) (r : BitVec 4) (v : VWord) (p : Presence) (i : Nat) : (sl.setVr r v p).csrv i = sl.csrv i := rfl
@[simp] theorem Slot.csrv_setK (sl : Slot) (r : BitVec 3) (v : BitVec 32) (p : Presence) (i : Nat) : (sl.setK r v p).csrv i = sl.csrv i := by
  unfold Slot.csrv; simp

/-! ### Sources (R124) -/

/-- With every source ready, the gate answers the slot as read. -/
theorem Slot.gate_of_ready {sl : Slot} {l : List Src} (h : sl.ready l) : sl.gate l = .ok (sl.seen l) := by
  have h1 : l.find? (fun r => decide (sl.presOf r = .empty)) = none := by
    simp only [List.find?_eq_none, decide_eq_true_eq]; exact h
  unfold Slot.gate
  rw [h1]
  simp only [Slot.seen, List.any_eq_true, decide_eq_true_eq]
  split <;> rfl

/-- With an EMPTY source, the gate parks on the first of them. -/
theorem Slot.gate_of_empty {sl : Slot} {l : List Src} {r : Src}
    (h : l.find? (fun r => decide (sl.presOf r = .empty)) = some r) : sl.gate l = .error (.park (.reg r)) := by
  unfold Slot.gate; rw [h]

/-- The gate in full: it parks on an EMPTY source, or every source is ready. -/
theorem Slot.gate_cases (sl : Slot) (l : List Src) :
    (∃ r ∈ l, sl.presOf r = .empty ∧ sl.gate l = .error (.park (.reg r))) ∨ (sl.ready l ∧ sl.gate l = .ok (sl.seen l)) := by
  cases h : l.find? (fun r => decide (sl.presOf r = .empty)) with
  | some r => exact .inl ⟨r, List.mem_of_find?_eq_some h, by simpa using List.find?_some h, Slot.gate_of_empty h⟩
  | none =>
    have : sl.ready l := by simpa [Slot.ready, List.find?_eq_none] using h
    exact .inr ⟨this, Slot.gate_of_ready this⟩

/-- Reading sources changes nothing but FLAGS. -/
theorem Slot.seen_cases (sl : Slot) (l : List Src) : sl.seen l = sl ∨ sl.seen l = sl.setV := by
  unfold Slot.seen; split <;> simp

@[simp] theorem Slot.gp_seen (sl : Slot) (l : List Src) (r : BitVec 5) : (sl.seen l).gp r = sl.gp r := by
  unfold Slot.seen; split <;> rfl
@[simp] theorem Slot.vp_seen (sl : Slot) (l : List Src) (r : BitVec 4) : (sl.seen l).vp r = sl.vp r := by
  unfold Slot.seen; split <;> rfl
@[simp] theorem Slot.kp_seen (sl : Slot) (l : List Src) (r : BitVec 3) : (sl.seen l).kp r = sl.kp r := by
  unfold Slot.seen; split <;> rfl
@[simp] theorem Slot.gv_seen (sl : Slot) (l : List Src) (r : BitVec 5) : (sl.seen l).gv r = sl.gv r := by simp [Slot.gv]
@[simp] theorem Slot.vv_seen (sl : Slot) (l : List Src) (r : BitVec 4) : (sl.seen l).vv r = sl.vv r := by simp [Slot.vv]
@[simp] theorem Slot.kv_seen (sl : Slot) (l : List Src) (r : BitVec 3) : (sl.seen l).kv r = sl.kv r := by simp [Slot.kv]
@[simp] theorem Slot.pc_seen (sl : Slot) (l : List Src) : (sl.seen l).pc = sl.pc := by unfold Slot.seen; split <;> rfl
@[simp] theorem Slot.occupant_seen (sl : Slot) (l : List Src) : (sl.seen l).occupant = sl.occupant := by
  unfold Slot.seen; split <;> rfl
theorem Slot.csrv_seen_ne (sl : Slot) (l : List Src) {i : Nat} (h : i ≠ 6) : (sl.seen l).csrv i = sl.csrv i := by
  unfold Slot.seen; split
  · exact sl.csrv_setCsr_ne _ h
  · rfl

/-! ### How a meaning ends -/

@[simp] theorem stop_throw {α : Type} (e : Stop) : (throw e : Except Stop α) = .error e := rfl
@[simp] theorem stop_pure {α : Type} (a : α) : (pure a : Except Stop α) = .ok a := rfl
@[simp] theorem stop_bind_ok {α β : Type} (a : α) (f : α → Except Stop β) : (Except.ok a >>= f) = f a := rfl
@[simp] theorem stop_bind_error {α β : Type} (e : Stop) (f : α → Except Stop β) : (Except.error e >>= f) = .error e := rfl
@[simp] theorem stop_map_ok {α β : Type} (a : α) (f : α → β) : (Except.ok a : Except Stop α).map f = .ok (f a) := rfl
@[simp] theorem stop_map_error {α β : Type} (e : Stop) (f : α → β) : (Except.error e : Except Stop α).map f = .error e := rfl

/-- A successful bind is two successes. -/
theorem stop_bind_eq_ok {α β : Type} {x : Except Stop α} {f : α → Except Stop β} {b : β} (h : (x >>= f) = .ok b) :
    ∃ a, x = .ok a ∧ f a = .ok b := by
  cases x with
  | error e => cases h
  | ok a => exact ⟨a, rfl, h⟩

@[simp] theorem run_ok (s t : State) : run s (.ok t) = .next t := rfl
@[simp] theorem run_trap (s : State) (c : Nat) (e : Word) : run s (.error (.trap c e)) = .next ((s.tagFails s.who .data c e).raise c e) := rfl
@[simp] theorem run_park (s : State) (w : Wait) : run s (.error (.park w)) = .next (s.parkMe w) := rfl
@[simp] theorem run_hold (s : State) (w : Wait) (l : List Acc) : run s (.error (.hold w l)) = .next (s.holdMe w l) := rfl
@[simp] theorem run_read (s : State) (w : Wait) (r : List (Nat × Word × Presence)) :
    run s (.error (.read w r)) = .next (s.readMe w r) := rfl
/-- Only a tag that fails changes more than the exception itself does (R51). -/
@[simp] theorem State.tagFails_of_ne (s : State) (w : Who) (u : TlbUnit) {c : Nat} (e : Word) (h : c ≠ 0x09) : s.tagFails w u c e = s := by
  simp [State.tagFails, h]
@[simp] theorem run_miss (s : State) (m : Miss) : run s (.error (.miss m)) = .next (s.sleepMe m) := rfl
@[simp] theorem run_pure (s t : State) : run s (pure t) = .next t := rfl

/-- All that a meaning can do: complete, or end early, or stop the model. -/
theorem run_cases {s t : State} {x : Except Stop State} (h : run s x = .next t) : x = .ok t ∨ s.endsEarly t := by
  unfold run at h
  split at h
  · exact .inl (by injection h with h; rw [h])
  · exact .inr (.inr (.inr (.inl ⟨_, _, by injection h with h; exact h.symm⟩)))
  · exact .inr (.inl ⟨_, [], by injection h with h; exact h.symm⟩)
  · exact .inr (.inl ⟨_, _, by injection h with h; exact h.symm⟩)
  · exact .inr (.inr (.inl ⟨_, _, by injection h with h; exact h.symm⟩))
  · exact .inr (.inr (.inr (.inr ⟨_, by injection h with h; exact h.symm⟩)))
  · cases h

/-! ### Raw memory -/

theorem pokeMem_get (m : List Host.Cell) (a n v i : Nat) :
    tabGet 0 (pokeMem m a n v) i = if a ≤ i ∧ i < a + n then BitVec.ofNat 8 (v / 256 ^ (i - a)) else tabGet 0 m i := by
  induction n generalizing m a v with
  | zero => simp [pokeMem, show ¬ (a ≤ i ∧ i < a) by omega]
  | succ n ih =>
    simp only [pokeMem, ih]
    by_cases h1 : i = a
    · subst h1; rw [if_neg (by omega), if_pos (by omega)]; simp
    · by_cases h2 : a + 1 ≤ i ∧ i < a + 1 + n
      · obtain ⟨k, rfl⟩ : ∃ k, i = a + 1 + k := ⟨i - (a + 1), by omega⟩
        have e : a + 1 + k - a = (a + 1 + k - (a + 1)) + 1 := by omega
        rw [if_pos h2, if_pos (by omega), e, Nat.pow_succ', Nat.div_div_eq_div_mul]
      · rw [if_neg h2, if_neg (by omega), tabGet_tabPut_ne _ _ _ h1]

@[simp] theorem State.mem_marked (s : State) (a : Nat) : (s.marked a).mem = s.mem := by unfold State.marked; split <;> rfl
@[simp] theorem State.pres_marked (s : State) (a : Nat) : (s.marked a).pres = s.pres := by unfold State.marked; split <;> rfl
@[simp] theorem State.slots_marked (s : State) (a : Nat) : (s.marked a).slots = s.slots := by unfold State.marked; split <;> rfl
@[simp] theorem State.mem_voided (s : State) (a : Nat) : (s.voided a).mem = s.mem := rfl
@[simp] theorem State.pres_voided (s : State) (a : Nat) : (s.voided a).pres = s.pres := rfl
@[simp] theorem State.mem_covered (s : State) (a n : Nat) : (s.covered a n).mem = s.mem := rfl
@[simp] theorem State.pres_covered (s : State) (a n : Nat) : (s.covered a n).pres = s.pres := rfl
@[simp] theorem State.slots_covered (s : State) (a n : Nat) : (s.covered a n).slots = s.slots := rfl

theorem State.mem_poke (s : State) (a n v : Nat) : (s.poke a n v).mem = pokeMem s.mem a n v := by simp [State.poke]
theorem State.pres_poke (s : State) (a n v : Nat) : (s.poke a n v).pres = s.pres := by simp [State.poke]
/-- A store changes no slot. -/
@[simp] theorem State.slots_poke (s : State) (a n v : Nat) : (s.poke a n v).slots = s.slots := by simp [State.poke]

theorem State.byteAt_poke (s : State) (a n v i : Nat) :
    (s.poke a n v).byteAt i = if a ≤ i ∧ i < a + n then BitVec.ofNat 8 (v / 256 ^ (i - a)) else s.byteAt i := by
  rw [State.byteAt, s.mem_poke]; exact pokeMem_get s.mem a n v i

/-- A store leaves every byte outside it alone. -/
theorem State.byteAt_poke_out (s : State) (a n v : Nat) {i : Nat} (h : i < a ∨ a + n ≤ i) :
    (s.poke a n v).byteAt i = s.byteAt i := by
  rw [s.byteAt_poke, if_neg (by omega)]

@[simp] theorem State.byteAt_setPres (s : State) (a : Nat) (p : Presence) (i : Nat) : (s.setPres a p).byteAt i = s.byteAt i := by
  unfold State.setPres State.byteAt; split
  · split <;> simp
  · rfl

@[simp] theorem State.presAt_poke (s : State) (a n v i : Nat) : (s.poke a n v).presAt i = s.presAt i := by
  rw [State.presAt, s.pres_poke]; rfl

theorem State.presAt_setPres_self (s : State) {a : Nat} (p : Presence) (h : hasPres a = true) : (s.setPres a p).presAt a = p := by
  simp only [State.setPres, if_pos h]; split <;> simp [State.presAt]

theorem State.presAt_setPres_ne (s : State) {a i : Nat} (p : Presence) (h : i / 8 ≠ a / 8) : (s.setPres a p).presAt i = s.presAt i := by
  unfold State.setPres State.presAt; split
  · split <;> simp [tabGet_tabPut_ne _ _ _ h]
  · rfl

/-- A number of `n` bytes is read back from where it was stored. -/
theorem State.peek_of_bytes (s : State) (a n v : Nat) (h : ∀ i, i < n → s.byteAt (a + i) = BitVec.ofNat 8 (v / 256 ^ i)) :
    s.peek a n = v % 256 ^ n := by
  induction n generalizing a v with
  | zero => simp [State.peek, Nat.mod_one]
  | succ n ih =>
    have h0 := h 0 (by omega)
    have hs := ih (a + 1) (v / 256) (fun i hi => by
      have := h (i + 1) (by omega)
      rw [show a + 1 + i = a + (i + 1) by omega, this, Nat.pow_succ', Nat.div_div_eq_div_mul])
    simp only [State.peek, hs]
    simp only [Nat.add_zero, Nat.pow_zero, Nat.div_one] at h0
    have e : (BitVec.ofNat 8 v).toNat = v % 256 := by simp
    have := Nat.mod_mul (a := 256) (b := 256 ^ n) (x := v)
    rw [h0, e, Nat.pow_succ', this]

theorem State.peek_poke_self (s : State) (a n v : Nat) : (s.poke a n v).peek a n = v % 256 ^ n :=
  State.peek_of_bytes _ _ _ _ (fun i hi => by rw [State.byteAt_poke, if_pos (by omega)]; congr 2; congr 1; omega)

/-! ### The canonical form -/

theorem pokeMem_wf {m : List Host.Cell} (a n v : Nat) (h : Memory.wf m = true) : Memory.wf (pokeMem m a n v) = true := by
  induction n generalizing m a v with
  | zero => exact h
  | succ n ih => exact ih (a + 1) (v / 256) (tabWf_tabPut a _ h)

/-- Equal contents are equal data: two memories in canonical form that read alike at every address are the same list. -/
theorem Memory.wf_ext {m n : List Host.Cell} (hm : Memory.wf m = true) (hn : Memory.wf n = true)
    (h : ∀ a, tabGet (0 : Byte) m a = tabGet 0 n a) : m = n := tabWf_ext hm hn h

theorem State.canonical_of_eq {s t : State} (h : s.canonical) (hm : t.mem = s.mem) (hp : t.pres = s.pres) : t.canonical :=
  ⟨hm ▸ h.1, hp ▸ h.2⟩

theorem State.canonical_poke {s : State} (a n v : Nat) (h : s.canonical) : (s.poke a n v).canonical :=
  ⟨by rw [State.mem_poke]; exact pokeMem_wf a n v h.1, by rw [State.pres_poke]; exact h.2⟩

theorem State.canonical_setPres {s : State} (a : Nat) (p : Presence) (h : s.canonical) : (s.setPres a p).canonical := by
  unfold State.setPres
  split
  · split <;> exact ⟨by simpa using h.1, by simpa using tabWf_tabPut _ _ h.2⟩
  · exact h

/-- The version counter of a far sector and its key are no part of memory. -/
theorem State.canonical_versioned {s : State} (t : BitVec 8) (a : Nat) (h : s.canonical) : (s.versioned t a).canonical := by
  unfold State.versioned; split <;> exact h

theorem State.canonical_pokeWord {s : State} (a : Nat) (v : Word) (p : Presence) (h : s.canonical) :
    (s.pokeWord a v p).canonical := State.canonical_setPres a p (State.canonical_poke a 8 _ h)

theorem State.canonical_setMe {s : State} (x : Slot) (h : s.canonical) : (s.setMe x).canonical := h

theorem clearMem_wf {m : List Host.Cell} (a n : Nat) (h : Memory.wf m = true) : Memory.wf (clearMem m a n) = true := tabWf_filter _ h

theorem copyMem_wf {m : List Host.Cell} (a b n : Nat) (h : Memory.wf m = true) : Memory.wf (copyMem m a b n) = true := by
  have key : ∀ (l : List Host.Cell) (acc : List Host.Cell), Memory.wf acc = true →
      Memory.wf (l.foldl (fun l c => tabPut 0 l (c.1 - a + b) c.2) acc) = true := by
    intro l
    induction l with
    | nil => exact fun _ h => h
    | cons e l ih => exact fun acc hacc => ih _ (tabWf_tabPut _ _ hacc)
  exact key _ _ (clearMem_wf b n h)

/-- The memory of the reset state is in canonical form: it lists nothing. -/
theorem State.reset_canonical : State.reset.canonical := ⟨rfl, rfl⟩

end Sys2Proof.Machine
end

