-- ==== Sys2Proof/Laws/Access.lean ====
section
/-! SUPPORT. What translating, checking and performing an access can do to the state, said once. -/

namespace Sys2Proof.Machine

/-- The state may differ only in what an access leaves behind: cached translations, first touches, lines that a tile cache may hold,
counters of events with the free values that they draw, and translation requests to the host. -/
def State.cachesOnly (s t : State) : Prop :=
  ∃ tlb touch filled recoloured drawn evc out,
    t = { s with tlb := tlb, touch := touch, filled := filled, recoloured := recoloured, drawn := drawn, evc := evc, out := out }

theorem State.cachesOnly.refl (s : State) : s.cachesOnly s := ⟨s.tlb, s.touch, s.filled, s.recoloured, s.drawn, s.evc, s.out, rfl⟩

theorem State.cachesOnly.trans {s t u : State} (h : s.cachesOnly t) (g : t.cachesOnly u) : s.cachesOnly u := by
  obtain ⟨_, _, _, _, _, _, _, rfl⟩ := h
  obtain ⟨a, b, c, d, e, f, g, rfl⟩ := g
  exact ⟨a, b, c, d, e, f, g, rfl⟩

theorem State.cachesOnly.mem {s t : State} (h : s.cachesOnly t) : t.mem = s.mem := by obtain ⟨_, _, _, _, _, _, _, rfl⟩ := h; rfl
theorem State.cachesOnly.pres {s t : State} (h : s.cachesOnly t) : t.pres = s.pres := by obtain ⟨_, _, _, _, _, _, _, rfl⟩ := h; rfl
theorem State.cachesOnly.slots {s t : State} (h : s.cachesOnly t) : t.slots = s.slots := by obtain ⟨_, _, _, _, _, _, _, rfl⟩ := h; rfl
theorem State.cachesOnly.cmds {s t : State} (h : s.cachesOnly t) : t.cmds = s.cmds := by obtain ⟨_, _, _, _, _, _, _, rfl⟩ := h; rfl
theorem State.cachesOnly.curCore {s t : State} (h : s.cachesOnly t) : t.curCore = s.curCore := by obtain ⟨_, _, _, _, _, _, _, rfl⟩ := h; rfl
theorem State.cachesOnly.curSlot {s t : State} (h : s.cachesOnly t) : t.curSlot = s.curSlot := by obtain ⟨_, _, _, _, _, _, _, rfl⟩ := h; rfl
theorem State.cachesOnly.me {s t : State} (h : s.cachesOnly t) : t.me = s.me := by obtain ⟨_, _, _, _, _, _, _, rfl⟩ := h; rfl
theorem State.cachesOnly.canonical {s t : State} (h : s.cachesOnly t) (c : s.canonical) : t.canonical := by
  obtain ⟨_, _, _, _, _, _, _, rfl⟩ := h; exact c
theorem State.cachesOnly.sameMemory {s t : State} (h : s.cachesOnly t) : s.sameMemory t := by
  obtain ⟨_, _, _, _, _, _, _, rfl⟩ := h; exact ⟨fun _ => rfl, fun _ => rfl⟩

/-- Filling the caches changes nothing else. -/
theorem State.fill_cachesOnly (s : State) (path : List (Nat × Nat)) (p : Page) : s.cachesOnly (s.fill path p) := by
  unfold State.fill
  induction path generalizing s with
  | nil => exact .refl s
  | cons k t ih =>
    refine State.cachesOnly.trans ?_ (ih _)
    by_cases h : p ∈ tabGet [] s.tlb k.1
    · simp only [h, if_true]; exact .refl s
    · simp only [h, if_false]; exact ⟨_, s.touch, s.filled, s.recoloured, s.drawn, s.evc, s.out, rfl⟩

/-- Counting an event changes only counters. -/
theorem State.countEv_cachesOnly (s : State) (t c n : Nat) : s.cachesOnly (s.countEv t c n) := by
  unfold State.countEv
  generalize s.evsel = l
  induction l generalizing s with
  | nil => exact .refl s
  | cons e l ih =>
    refine State.cachesOnly.trans ?_ (ih _)
    dsimp only
    split
    · exact ⟨s.tlb, s.touch, s.filled, s.recoloured, s.drawn, _, s.out, rfl⟩
    · exact .refl s

/-- What reaches its tile cache leaves only caches and counters behind. -/
theorem State.touched_cachesOnly (s : State) (w : Who) (p : Page) (acc : Access) (phys : Nat) :
    s.cachesOnly (s.touched w p acc phys) := by
  have hf : s.cachesOnly (s.filledBy p phys w.core) := by
    unfold State.filledBy; split
    · exact .refl s
    · exact ⟨s.tlb, s.touch, _, s.recoloured, s.drawn, s.evc, s.out, rfl⟩
  have ht : ∀ (u : State) (n : Nat), u.cachesOnly (u.tileCount n) := fun u n => by
    unfold State.tileCount; split
    · exact .trans ⟨u.tlb, u.touch, u.filled, u.recoloured, _, u.evc, u.out, rfl⟩ (State.countEv_cachesOnly _ _ _ _)
    · exact .refl u
  have hr : ∀ u : State, u.cachesOnly (u.rewrites p phys w.core) := fun u => by
    unfold State.rewrites; split
    · exact .refl u
    · exact ⟨u.tlb, u.touch, u.filled, _, u.drawn, u.evc, u.out, rfl⟩
  have hw : ∀ u : State, u.cachesOnly (if acc = .write ∨ acc = .readWrite then u.rewrites p phys w.core else u) := fun u => by
    split
    · exact hr u
    · exact .refl u
  have hl : ∀ u : State, u.cachesOnly (if p.line = 2 ∧ tabGet 0 u.touch p.base = 0 then
      { u with touch := tabPut 0 u.touch p.base (clusterOf w.core % 16 + 1) } else u) := fun u => by
    split
    · exact ⟨u.tlb, _, u.filled, u.recoloured, u.drawn, u.evc, u.out, rfl⟩
    · exact .refl u
  unfold State.touched
  split
  · exact ((hf.trans (ht _ w.acct.toNat)).trans (hw _)).trans (hl _)
  · exact .refl s

/-- Where a test throws, success says that it does not hold. -/
theorem stop_if_eq_ok {β : Type} {c : Prop} [Decidable c] {e : Stop} {x : Except Stop β} {b : β}
    (h : (if c then Except.error e else x) = .ok b) : ¬ c ∧ x = .ok b := by
  by_cases hc : c
  · simp [hc] at h
  · exact ⟨hc, by simpa [hc] using h⟩

/-- Asking the host for a translation changes only what the machine has put out. -/
theorem State.asked_cachesOnly (s : State) (c : Prop) [Decidable c] (src : Source) (o : Out) :
    s.cachesOnly (if c then s.emit src o else s) := by
  split
  · exact ⟨s.tlb, s.touch, s.filled, s.recoloured, s.drawn, s.evc, _, rfl⟩
  · exact .refl s

/-- Translation fills caches, and answers a page of some physical place. -/
theorem State.translate_cachesOnly {s t : State} {w : Who} {u : TlbUnit} {acc : Access} {va : Word} {p : Page} {phys : Nat}
    (h : s.translate w u acc va = .ok (p, phys, t)) : s.cachesOnly t := by
  unfold State.translate at h
  simp only [stop_throw, stop_bind_error, stop_pure] at h
  obtain ⟨-, h⟩ := stop_if_eq_ok h
  cases hc : s.cached (tlbPath u w.core) w.tenant va.toNat with
  | some q =>
    simp only [hc, stop_bind_ok] at h
    obtain ⟨-, h⟩ := stop_if_eq_ok h
    obtain ⟨-, h⟩ := stop_if_eq_ok h
    simp only [Except.ok.injEq, Prod.mk.injEq] at h
    exact h.2.2 ▸ (s.asked_cachesOnly _ _ _).trans (State.fill_cachesOnly _ _ _)
  | none =>
    simp only [hc] at h
    obtain ⟨q, -, h⟩ := stop_bind_eq_ok h
    obtain ⟨-, h⟩ := stop_if_eq_ok h
    obtain ⟨-, h⟩ := stop_if_eq_ok h
    simp only [Except.ok.injEq, Prod.mk.injEq] at h
    exact h.2.2 ▸ (s.asked_cachesOnly _ _ _).trans (State.fill_cachesOnly _ _ _)

/-- The checks of an access fill caches and change nothing else. -/
theorem State.checked_cachesOnly {s t : State} {w : Who} {u : TlbUnit} {r : Req} {va : Word} {p : Page} {phys : Nat}
    (h : s.checked w u r va = .ok (p, phys, t)) : s.cachesOnly t := by
  unfold State.checked at h
  simp only [stop_throw, stop_bind_error, stop_pure] at h
  obtain ⟨-, h⟩ := stop_if_eq_ok h
  obtain ⟨⟨q, ph, s1⟩, ht, h⟩ := stop_bind_eq_ok h
  obtain ⟨-, h⟩ := stop_if_eq_ok h
  obtain ⟨-, h⟩ := stop_if_eq_ok h
  obtain ⟨-, h⟩ := stop_if_eq_ok h
  obtain ⟨-, h⟩ := stop_if_eq_ok h
  obtain ⟨-, h⟩ := stop_if_eq_ok h
  simp only [Except.ok.injEq, Prod.mk.injEq] at h
  exact h.2.2 ▸ State.translate_cachesOnly ht

/-- All that an access can do before it is performed: caches are filled, the host may be asked, a first touch is noted, and events are
counted. -/
theorem State.access_cachesOnly {s t : State} {w : Who} {u : TlbUnit} {r : Req} {va : Word} {p : Page} {phys : Nat}
    (h : s.access w u r va = .ok (p, phys, t)) : s.cachesOnly t := by
  unfold State.access at h
  simp only [stop_throw, stop_pure] at h
  obtain ⟨⟨q, ph, s1⟩, hc, h⟩ := stop_bind_eq_ok h
  obtain ⟨-, h⟩ := stop_if_eq_ok h
  cases hk : s1.heldBy q r ph w.core with
  | some k => simp [hk] at h
  | none =>
    simp only [hk, Except.ok.injEq, Prod.mk.injEq] at h
    exact (State.checked_cachesOnly hc).trans (h.2.2 ▸ s1.touched_cachesOnly _ _ _ _)

/-- An access that is misaligned faults with 0x05, before anything else is looked at (R25). -/
theorem State.checked_misaligned {s : State} {w : Who} {u : TlbUnit} {r : Req} {va : Word} (h : va.toNat % r.align ≠ 0) :
    s.checked w u r va = .error (.trap 0x05 va) := by
  unfold State.checked; simp [h]

theorem State.access_misaligned {s : State} {w : Who} {u : TlbUnit} {r : Req} {va : Word} (h : va.toNat % r.align ≠ 0) :
    s.access w u r va = .error (.trap 0x05 va) := by
  unfold State.access; rw [State.checked_misaligned h]; rfl

/-- An aligned address beyond 2^52 faults with 0x07 (R24, R25). -/
theorem State.access_beyond {s : State} {w : Who} {u : TlbUnit} {r : Req} {va : Word} (h : va.toNat % r.align = 0)
    (h2 : 2 ^ 52 ≤ va.toNat) : s.access w u r va = .error (.trap 0x07 va) := by
  have ht : s.translate w u r.acc va = .error (.trap 0x07 va) := by
    unfold State.translate; simp only [h2, if_true]; rfl
  have hc : s.checked w u r va = .error (.trap 0x07 va) := by
    unfold State.checked; simp only [h, ne_eq, not_true, if_false, ht]; rfl
  unfold State.access; rw [hc]; rfl

/-! ### Accesses whose translation is held -/

/-- A page that the path of an access holds, and that is no SELF or HOST page, is the page of the access. -/
theorem State.translate_of_cached {s : State} {w : Who} {u : TlbUnit} {acc : Access} {va : Word} {p : Page} (h : va.toNat < 2 ^ 52)
    (hp : s.cached (tlbPath u w.core) w.tenant va.toNat = some p) (hs : p.self = false) (ht : p.tgt ≠ 5) :
    s.translate w u acc va = .ok (p, p.base + va.toNat % 2 ^ p.bits, s.fill (tlbPath u w.core) p) := by
  unfold State.translate
  simp [hp, hs, ht, Nat.not_le.mpr h] <;> omega

/-- The page that the first structure of a path holds is the one that the path finds. -/
theorem State.cached_of_head {s : State} {path : List (Nat × Nat)} {k : Nat × Nat} {t : BitVec 8} {a : Nat} {p : Page} (hk : k ∈ path.head?)
    (h : (tabGet [] s.tlb k.1).find? (fun p => p.covers t a) = some p) : s.cached path t a = some p := by
  cases path with
  | nil => cases hk
  | cons x l =>
    obtain rfl : x = k := by simpa using hk
    unfold State.cached; simp [h]

/-- An access of an engine whose page is held, and which no check and no drop stops, is performed; it leaves caches and counters
behind. -/
theorem State.access_of_cached {s : State} {w : Who} {u : TlbUnit} {r : Req} {va : Word} {p : Page} {phys : Nat}
    (h : va.toNat < 2 ^ 52) (ha : va.toNat % r.align = 0) (hp : s.cached (tlbPath u w.core) w.tenant va.toNat = some p)
    (hs : p.self = false) (ht : p.tgt = 0 ∨ p.tgt = 2) (hr : permits p r = true) (hx : atomicOk p r = true)
    (hq : phys = p.base + va.toNat % 2 ^ p.bits) (hd : s.dropping = []) (hb : s.poison = []) (hc : s.quarantine = [])
    (he : s.badHash = []) (hf : s.badTags = []) : ∃ t, s.access w u r va = .ok (p, phys, t) ∧ s.cachesOnly t := by
  have h5 : p.tgt ≠ 5 := by rcases ht with e | e <;> rw [e] <;> decide
  have h6 : p.tgt ≠ 6 := by rcases ht with e | e <;> rw [e] <;> decide
  have h4 : p.tgt ≠ 4 := by rcases ht with e | e <;> rw [e] <;> decide
  obtain ⟨_, _, _, _, _, _, _, hfill⟩ := s.fill_cachesOnly (tlbPath u w.core) p
  have hck : s.checked w u r va = .ok (p, phys, s.fill (tlbPath u w.core) p) := by
    unfold State.checked
    rw [State.translate_of_cached h hp hs h5]
    have h3 : ¬ (r.pres = true ∧ p.tgt ≠ 0 ∧ p.tgt ≠ 2) := by rcases ht with e | e <;> simp [e]
    simp [ha, hr, h3, h6, hx, ← hq, hfill, State.badState, hb, hc, he]
  refine ⟨(s.fill (tlbPath u w.core) p).touched w p r.acc phys, ?_,
    (s.fill_cachesOnly _ _).trans (State.touched_cachesOnly _ _ _ _ _)⟩
  unfold State.access
  rw [hck]
  simp [hfill, hf, State.heldBy, hd, h4]

end Sys2Proof.Machine
end

