-- ==== Sys2Proof/Laws/PerInstr.lean ====
section
/-! SUPPORT. The round trip, instruction by instruction: the decoder reads back what the encoder writes. -/

namespace Sys2Proof.Laws

set_option Elab.async false
set_option linter.unusedSimpArgs false

/-- Decoding the word of `i` gives `i`, when `i` has an encoding and its field values are ones that the encoding admits. -/
def RoundTrip.Statement (i : Instr) : Prop := i.encoded = true → i.wf = true → decodeAny (encode i) = .ok i

/-! ### The fields of each format (R73) -/

theorem encRR_26_6 (op : BitVec 6) (d : BitVec 5) (a : BitVec 5) (b : BitVec 5) (fn : BitVec 11) :
    (encRR op d a b fn).extractLsb' 26 6 = op := by
  simp (disch := omega) only [encRR, BitVec.extractLsb'_append_eq_of_le, BitVec.extractLsb'_append_eq_of_add_le,
    Nat.reduceSub, BitVec.extractLsb'_eq_self, Nat.sub_self, Nat.sub_zero]
theorem encRR_21_5 (op : BitVec 6) (d : BitVec 5) (a : BitVec 5) (b : BitVec 5) (fn : BitVec 11) :
    (encRR op d a b fn).extractLsb' 21 5 = d := by
  simp (disch := omega) only [encRR, BitVec.extractLsb'_append_eq_of_le, BitVec.extractLsb'_append_eq_of_add_le,
    Nat.reduceSub, BitVec.extractLsb'_eq_self, Nat.sub_self, Nat.sub_zero]
theorem encRR_16_5 (op : BitVec 6) (d : BitVec 5) (a : BitVec 5) (b : BitVec 5) (fn : BitVec 11) :
    (encRR op d a b fn).extractLsb' 16 5 = a := by
  simp (disch := omega) only [encRR, BitVec.extractLsb'_append_eq_of_le, BitVec.extractLsb'_append_eq_of_add_le,
    Nat.reduceSub, BitVec.extractLsb'_eq_self, Nat.sub_self, Nat.sub_zero]
theorem encRR_11_5 (op : BitVec 6) (d : BitVec 5) (a : BitVec 5) (b : BitVec 5) (fn : BitVec 11) :
    (encRR op d a b fn).extractLsb' 11 5 = b := by
  simp (disch := omega) only [encRR, BitVec.extractLsb'_append_eq_of_le, BitVec.extractLsb'_append_eq_of_add_le,
    Nat.reduceSub, BitVec.extractLsb'_eq_self, Nat.sub_self, Nat.sub_zero]
theorem encRR_6_5 (op : BitVec 6) (d : BitVec 5) (a : BitVec 5) (b : BitVec 5) (fn : BitVec 11) :
    (encRR op d a b fn).extractLsb' 6 5 = fn.extractLsb' 6 5 := by
  simp (disch := omega) only [encRR, BitVec.extractLsb'_append_eq_of_le, BitVec.extractLsb'_append_eq_of_add_le,
    Nat.reduceSub, BitVec.extractLsb'_eq_self, Nat.sub_self, Nat.sub_zero]
theorem encRR_3_3 (op : BitVec 6) (d : BitVec 5) (a : BitVec 5) (b : BitVec 5) (fn : BitVec 11) :
    (encRR op d a b fn).extractLsb' 3 3 = fn.extractLsb' 3 3 := by
  simp (disch := omega) only [encRR, BitVec.extractLsb'_append_eq_of_le, BitVec.extractLsb'_append_eq_of_add_le,
    Nat.reduceSub, BitVec.extractLsb'_eq_self, Nat.sub_self, Nat.sub_zero]
theorem encRR_0_11 (op : BitVec 6) (d : BitVec 5) (a : BitVec 5) (b : BitVec 5) (fn : BitVec 11) :
    (encRR op d a b fn).extractLsb' 0 11 = fn := by
  simp (disch := omega) only [encRR, BitVec.extractLsb'_append_eq_of_le, BitVec.extractLsb'_append_eq_of_add_le,
    Nat.reduceSub, BitVec.extractLsb'_eq_self, Nat.sub_self, Nat.sub_zero]
theorem encRR_0_3 (op : BitVec 6) (d : BitVec 5) (a : BitVec 5) (b : BitVec 5) (fn : BitVec 11) :
    (encRR op d a b fn).extractLsb' 0 3 = fn.extractLsb' 0 3 := by
  simp (disch := omega) only [encRR, BitVec.extractLsb'_append_eq_of_le, BitVec.extractLsb'_append_eq_of_add_le,
    Nat.reduceSub, BitVec.extractLsb'_eq_self, Nat.sub_self, Nat.sub_zero]
theorem encRI_26_6 (op : BitVec 6) (d : BitVec 5) (a : BitVec 5) (imm : BitVec 16) :
    (encRI op d a imm).extractLsb' 26 6 = op := by
  simp (disch := omega) only [encRI, BitVec.extractLsb'_append_eq_of_le, BitVec.extractLsb'_append_eq_of_add_le,
    Nat.reduceSub, BitVec.extractLsb'_eq_self, Nat.sub_self, Nat.sub_zero]
theorem encRI_21_5 (op : BitVec 6) (d : BitVec 5) (a : BitVec 5) (imm : BitVec 16) :
    (encRI op d a imm).extractLsb' 21 5 = d := by
  simp (disch := omega) only [encRI, BitVec.extractLsb'_append_eq_of_le, BitVec.extractLsb'_append_eq_of_add_le,
    Nat.reduceSub, BitVec.extractLsb'_eq_self, Nat.sub_self, Nat.sub_zero]
theorem encRI_16_5 (op : BitVec 6) (d : BitVec 5) (a : BitVec 5) (imm : BitVec 16) :
    (encRI op d a imm).extractLsb' 16 5 = a := by
  simp (disch := omega) only [encRI, BitVec.extractLsb'_append_eq_of_le, BitVec.extractLsb'_append_eq_of_add_le,
    Nat.reduceSub, BitVec.extractLsb'_eq_self, Nat.sub_self, Nat.sub_zero]
theorem encRI_14_2 (op : BitVec 6) (d : BitVec 5) (a : BitVec 5) (imm : BitVec 16) :
    (encRI op d a imm).extractLsb' 14 2 = imm.extractLsb' 14 2 := by
  simp (disch := omega) only [encRI, BitVec.extractLsb'_append_eq_of_le, BitVec.extractLsb'_append_eq_of_add_le,
    Nat.reduceSub, BitVec.extractLsb'_eq_self, Nat.sub_self, Nat.sub_zero]
theorem encRI_6_8 (op : BitVec 6) (d : BitVec 5) (a : BitVec 5) (imm : BitVec 16) :
    (encRI op d a imm).extractLsb' 6 8 = imm.extractLsb' 6 8 := by
  simp (disch := omega) only [encRI, BitVec.extractLsb'_append_eq_of_le, BitVec.extractLsb'_append_eq_of_add_le,
    Nat.reduceSub, BitVec.extractLsb'_eq_self, Nat.sub_self, Nat.sub_zero]
theorem encRI_0_16 (op : BitVec 6) (d : BitVec 5) (a : BitVec 5) (imm : BitVec 16) :
    (encRI op d a imm).extractLsb' 0 16 = imm := by
  simp (disch := omega) only [encRI, BitVec.extractLsb'_append_eq_of_le, BitVec.extractLsb'_append_eq_of_add_le,
    Nat.reduceSub, BitVec.extractLsb'_eq_self, Nat.sub_self, Nat.sub_zero]
theorem encRI_0_6 (op : BitVec 6) (d : BitVec 5) (a : BitVec 5) (imm : BitVec 16) :
    (encRI op d a imm).extractLsb' 0 6 = imm.extractLsb' 0 6 := by
  simp (disch := omega) only [encRI, BitVec.extractLsb'_append_eq_of_le, BitVec.extractLsb'_append_eq_of_add_le,
    Nat.reduceSub, BitVec.extractLsb'_eq_self, Nat.sub_self, Nat.sub_zero]
theorem encRL_26_6 (op : BitVec 6) (d : BitVec 5) (imm : BitVec 21) :
    (encRL op d imm).extractLsb' 26 6 = op := by
  simp (disch := omega) only [encRL, BitVec.extractLsb'_append_eq_of_le, BitVec.extractLsb'_append_eq_of_add_le,
    Nat.reduceSub, BitVec.extractLsb'_eq_self, Nat.sub_self, Nat.sub_zero]
theorem encRL_21_5 (op : BitVec 6) (d : BitVec 5) (imm : BitVec 21) :
    (encRL op d imm).extractLsb' 21 5 = d := by
  simp (disch := omega) only [encRL, BitVec.extractLsb'_append_eq_of_le, BitVec.extractLsb'_append_eq_of_add_le,
    Nat.reduceSub, BitVec.extractLsb'_eq_self, Nat.sub_self, Nat.sub_zero]
theorem encRL_0_21 (op : BitVec 6) (d : BitVec 5) (imm : BitVec 21) :
    (encRL op d imm).extractLsb' 0 21 = imm := by
  simp (disch := omega) only [encRL, BitVec.extractLsb'_append_eq_of_le, BitVec.extractLsb'_append_eq_of_add_le,
    Nat.reduceSub, BitVec.extractLsb'_eq_self, Nat.sub_self, Nat.sub_zero]
theorem encRB_26_6 (op : BitVec 6) (cc : BitVec 4) (a : BitVec 5) (b : BitVec 5) (disp : BitVec 12) :
    (encRB op cc a b disp).extractLsb' 26 6 = op := by
  simp (disch := omega) only [encRB, BitVec.extractLsb'_append_eq_of_le, BitVec.extractLsb'_append_eq_of_add_le,
    Nat.reduceSub, BitVec.extractLsb'_eq_self, Nat.sub_self, Nat.sub_zero]
theorem encRB_22_4 (op : BitVec 6) (cc : BitVec 4) (a : BitVec 5) (b : BitVec 5) (disp : BitVec 12) :
    (encRB op cc a b disp).extractLsb' 22 4 = cc := by
  simp (disch := omega) only [encRB, BitVec.extractLsb'_append_eq_of_le, BitVec.extractLsb'_append_eq_of_add_le,
    Nat.reduceSub, BitVec.extractLsb'_eq_self, Nat.sub_self, Nat.sub_zero]
theorem encRB_17_5 (op : BitVec 6) (cc : BitVec 4) (a : BitVec 5) (b : BitVec 5) (disp : BitVec 12) :
    (encRB op cc a b disp).extractLsb' 17 5 = a := by
  simp (disch := omega) only [encRB, BitVec.extractLsb'_append_eq_of_le, BitVec.extractLsb'_append_eq_of_add_le,
    Nat.reduceSub, BitVec.extractLsb'_eq_self, Nat.sub_self, Nat.sub_zero]
theorem encRB_12_5 (op : BitVec 6) (cc : BitVec 4) (a : BitVec 5) (b : BitVec 5) (disp : BitVec 12) :
    (encRB op cc a b disp).extractLsb' 12 5 = b := by
  simp (disch := omega) only [encRB, BitVec.extractLsb'_append_eq_of_le, BitVec.extractLsb'_append_eq_of_add_le,
    Nat.reduceSub, BitVec.extractLsb'_eq_self, Nat.sub_self, Nat.sub_zero]
theorem encRB_0_12 (op : BitVec 6) (cc : BitVec 4) (a : BitVec 5) (b : BitVec 5) (disp : BitVec 12) :
    (encRB op cc a b disp).extractLsb' 0 12 = disp := by
  simp (disch := omega) only [encRB, BitVec.extractLsb'_append_eq_of_le, BitVec.extractLsb'_append_eq_of_add_le,
    Nat.reduceSub, BitVec.extractLsb'_eq_self, Nat.sub_self, Nat.sub_zero]
theorem encJ_26_6 (op : BitVec 6) (l : BitVec 1) (disp : BitVec 25) :
    (encJ op l disp).extractLsb' 26 6 = op := by
  simp (disch := omega) only [encJ, BitVec.extractLsb'_append_eq_of_le, BitVec.extractLsb'_append_eq_of_add_le,
    Nat.reduceSub, BitVec.extractLsb'_eq_self, Nat.sub_self, Nat.sub_zero]
theorem encJ_25_1 (op : BitVec 6) (l : BitVec 1) (disp : BitVec 25) :
    (encJ op l disp).extractLsb' 25 1 = l := by
  simp (disch := omega) only [encJ, BitVec.extractLsb'_append_eq_of_le, BitVec.extractLsb'_append_eq_of_add_le,
    Nat.reduceSub, BitVec.extractLsb'_eq_self, Nat.sub_self, Nat.sub_zero]
theorem encJ_0_25 (op : BitVec 6) (l : BitVec 1) (disp : BitVec 25) :
    (encJ op l disp).extractLsb' 0 25 = disp := by
  simp (disch := omega) only [encJ, BitVec.extractLsb'_append_eq_of_le, BitVec.extractLsb'_append_eq_of_add_le,
    Nat.reduceSub, BitVec.extractLsb'_eq_self, Nat.sub_self, Nat.sub_zero]
theorem encRM_26_6 (op : BitVec 6) (d : BitVec 5) (a : BitVec 5) (off : BitVec 9) (sc : BitVec 3) (w : BitVec 2) (x : BitVec 2) :
    (encRM op d a off sc w x).extractLsb' 26 6 = op := by
  simp (disch := omega) only [encRM, BitVec.extractLsb'_append_eq_of_le, BitVec.extractLsb'_append_eq_of_add_le,
    Nat.reduceSub, BitVec.extractLsb'_eq_self, Nat.sub_self, Nat.sub_zero]
theorem encRM_21_5 (op : BitVec 6) (d : BitVec 5) (a : BitVec 5) (off : BitVec 9) (sc : BitVec 3) (w : BitVec 2) (x : BitVec 2) :
    (encRM op d a off sc w x).extractLsb' 21 5 = d := by
  simp (disch := omega) only [encRM, BitVec.extractLsb'_append_eq_of_le, BitVec.extractLsb'_append_eq_of_add_le,
    Nat.reduceSub, BitVec.extractLsb'_eq_self, Nat.sub_self, Nat.sub_zero]
theorem encRM_16_5 (op : BitVec 6) (d : BitVec 5) (a : BitVec 5) (off : BitVec 9) (sc : BitVec 3) (w : BitVec 2) (x : BitVec 2) :
    (encRM op d a off sc w x).extractLsb' 16 5 = a := by
  simp (disch := omega) only [encRM, BitVec.extractLsb'_append_eq_of_le, BitVec.extractLsb'_append_eq_of_add_le,
    Nat.reduceSub, BitVec.extractLsb'_eq_self, Nat.sub_self, Nat.sub_zero]
theorem encRM_7_9 (op : BitVec 6) (d : BitVec 5) (a : BitVec 5) (off : BitVec 9) (sc : BitVec 3) (w : BitVec 2) (x : BitVec 2) :
    (encRM op d a off sc w x).extractLsb' 7 9 = off := by
  simp (disch := omega) only [encRM, BitVec.extractLsb'_append_eq_of_le, BitVec.extractLsb'_append_eq_of_add_le,
    Nat.reduceSub, BitVec.extractLsb'_eq_self, Nat.sub_self, Nat.sub_zero]
theorem encRM_4_3 (op : BitVec 6) (d : BitVec 5) (a : BitVec 5) (off : BitVec 9) (sc : BitVec 3) (w : BitVec 2) (x : BitVec 2) :
    (encRM op d a off sc w x).extractLsb' 4 3 = sc := by
  simp (disch := omega) only [encRM, BitVec.extractLsb'_append_eq_of_le, BitVec.extractLsb'_append_eq_of_add_le,
    Nat.reduceSub, BitVec.extractLsb'_eq_self, Nat.sub_self, Nat.sub_zero]
theorem encRM_2_2 (op : BitVec 6) (d : BitVec 5) (a : BitVec 5) (off : BitVec 9) (sc : BitVec 3) (w : BitVec 2) (x : BitVec 2) :
    (encRM op d a off sc w x).extractLsb' 2 2 = w := by
  simp (disch := omega) only [encRM, BitVec.extractLsb'_append_eq_of_le, BitVec.extractLsb'_append_eq_of_add_le,
    Nat.reduceSub, BitVec.extractLsb'_eq_self, Nat.sub_self, Nat.sub_zero]
theorem encRM_1_1 (op : BitVec 6) (d : BitVec 5) (a : BitVec 5) (off : BitVec 9) (sc : BitVec 3) (w : BitVec 2) (x : BitVec 2) :
    (encRM op d a off sc w x).extractLsb' 1 1 = x.extractLsb' 1 1 := by
  simp (disch := omega) only [encRM, BitVec.extractLsb'_append_eq_of_le, BitVec.extractLsb'_append_eq_of_add_le,
    Nat.reduceSub, BitVec.extractLsb'_eq_self, Nat.sub_self, Nat.sub_zero]
theorem encRM_0_2 (op : BitVec 6) (d : BitVec 5) (a : BitVec 5) (off : BitVec 9) (sc : BitVec 3) (w : BitVec 2) (x : BitVec 2) :
    (encRM op d a off sc w x).extractLsb' 0 2 = x := by
  simp (disch := omega) only [encRM, BitVec.extractLsb'_append_eq_of_le, BitVec.extractLsb'_append_eq_of_add_le,
    Nat.reduceSub, BitVec.extractLsb'_eq_self, Nat.sub_self, Nat.sub_zero]
theorem encRM_0_1 (op : BitVec 6) (d : BitVec 5) (a : BitVec 5) (off : BitVec 9) (sc : BitVec 3) (w : BitVec 2) (x : BitVec 2) :
    (encRM op d a off sc w x).extractLsb' 0 1 = x.extractLsb' 0 1 := by
  simp (disch := omega) only [encRM, BitVec.extractLsb'_append_eq_of_le, BitVec.extractLsb'_append_eq_of_add_le,
    Nat.reduceSub, BitVec.extractLsb'_eq_self, Nat.sub_self, Nat.sub_zero]
theorem encRA_26_6 (op : BitVec 6) (d : BitVec 5) (a : BitVec 5) (b : BitVec 5) (fn : BitVec 5) (sc : BitVec 3) (ord : BitVec 3) :
    (encRA op d a b fn sc ord).extractLsb' 26 6 = op := by
  simp (disch := omega) only [encRA, BitVec.extractLsb'_append_eq_of_le, BitVec.extractLsb'_append_eq_of_add_le,
    Nat.reduceSub, BitVec.extractLsb'_eq_self, Nat.sub_self, Nat.sub_zero]
theorem encRA_21_5 (op : BitVec 6) (d : BitVec 5) (a : BitVec 5) (b : BitVec 5) (fn : BitVec 5) (sc : BitVec 3) (ord : BitVec 3) :
    (encRA op d a b fn sc ord).extractLsb' 21 5 = d := by
  simp (disch := omega) only [encRA, BitVec.extractLsb'_append_eq_of_le, BitVec.extractLsb'_append_eq_of_add_le,
    Nat.reduceSub, BitVec.extractLsb'_eq_self, Nat.sub_self, Nat.sub_zero]
theorem encRA_16_5 (op : BitVec 6) (d : BitVec 5) (a : BitVec 5) (b : BitVec 5) (fn : BitVec 5) (sc : BitVec 3) (ord : BitVec 3) :
    (encRA op d a b fn sc ord).extractLsb' 16 5 = a := by
  simp (disch := omega) only [encRA, BitVec.extractLsb'_append_eq_of_le, BitVec.extractLsb'_append_eq_of_add_le,
    Nat.reduceSub, BitVec.extractLsb'_eq_self, Nat.sub_self, Nat.sub_zero]
theorem encRA_11_5 (op : BitVec 6) (d : BitVec 5) (a : BitVec 5) (b : BitVec 5) (fn : BitVec 5) (sc : BitVec 3) (ord : BitVec 3) :
    (encRA op d a b fn sc ord).extractLsb' 11 5 = b := by
  simp (disch := omega) only [encRA, BitVec.extractLsb'_append_eq_of_le, BitVec.extractLsb'_append_eq_of_add_le,
    Nat.reduceSub, BitVec.extractLsb'_eq_self, Nat.sub_self, Nat.sub_zero]
theorem encRA_6_5 (op : BitVec 6) (d : BitVec 5) (a : BitVec 5) (b : BitVec 5) (fn : BitVec 5) (sc : BitVec 3) (ord : BitVec 3) :
    (encRA op d a b fn sc ord).extractLsb' 6 5 = fn := by
  simp (disch := omega) only [encRA, BitVec.extractLsb'_append_eq_of_le, BitVec.extractLsb'_append_eq_of_add_le,
    Nat.reduceSub, BitVec.extractLsb'_eq_self, Nat.sub_self, Nat.sub_zero]
theorem encRA_3_3 (op : BitVec 6) (d : BitVec 5) (a : BitVec 5) (b : BitVec 5) (fn : BitVec 5) (sc : BitVec 3) (ord : BitVec 3) :
    (encRA op d a b fn sc ord).extractLsb' 3 3 = sc := by
  simp (disch := omega) only [encRA, BitVec.extractLsb'_append_eq_of_le, BitVec.extractLsb'_append_eq_of_add_le,
    Nat.reduceSub, BitVec.extractLsb'_eq_self, Nat.sub_self, Nat.sub_zero]
theorem encRA_0_3 (op : BitVec 6) (d : BitVec 5) (a : BitVec 5) (b : BitVec 5) (fn : BitVec 5) (sc : BitVec 3) (ord : BitVec 3) :
    (encRA op d a b fn sc ord).extractLsb' 0 3 = ord := by
  simp (disch := omega) only [encRA, BitVec.extractLsb'_append_eq_of_le, BitVec.extractLsb'_append_eq_of_add_le,
    Nat.reduceSub, BitVec.extractLsb'_eq_self, Nat.sub_self, Nat.sub_zero]
theorem encRF_26_6 (op : BitVec 6) (d : BitVec 5) (a : BitVec 5) (b : BitVec 5) (c : BitVec 5) (fn : BitVec 6) :
    (encRF op d a b c fn).extractLsb' 26 6 = op := by
  simp (disch := omega) only [encRF, BitVec.extractLsb'_append_eq_of_le, BitVec.extractLsb'_append_eq_of_add_le,
    Nat.reduceSub, BitVec.extractLsb'_eq_self, Nat.sub_self, Nat.sub_zero]
theorem encRF_21_5 (op : BitVec 6) (d : BitVec 5) (a : BitVec 5) (b : BitVec 5) (c : BitVec 5) (fn : BitVec 6) :
    (encRF op d a b c fn).extractLsb' 21 5 = d := by
  simp (disch := omega) only [encRF, BitVec.extractLsb'_append_eq_of_le, BitVec.extractLsb'_append_eq_of_add_le,
    Nat.reduceSub, BitVec.extractLsb'_eq_self, Nat.sub_self, Nat.sub_zero]
theorem encRF_16_5 (op : BitVec 6) (d : BitVec 5) (a : BitVec 5) (b : BitVec 5) (c : BitVec 5) (fn : BitVec 6) :
    (encRF op d a b c fn).extractLsb' 16 5 = a := by
  simp (disch := omega) only [encRF, BitVec.extractLsb'_append_eq_of_le, BitVec.extractLsb'_append_eq_of_add_le,
    Nat.reduceSub, BitVec.extractLsb'_eq_self, Nat.sub_self, Nat.sub_zero]
theorem encRF_11_5 (op : BitVec 6) (d : BitVec 5) (a : BitVec 5) (b : BitVec 5) (c : BitVec 5) (fn : BitVec 6) :
    (encRF op d a b c fn).extractLsb' 11 5 = b := by
  simp (disch := omega) only [encRF, BitVec.extractLsb'_append_eq_of_le, BitVec.extractLsb'_append_eq_of_add_le,
    Nat.reduceSub, BitVec.extractLsb'_eq_self, Nat.sub_self, Nat.sub_zero]
theorem encRF_6_5 (op : BitVec 6) (d : BitVec 5) (a : BitVec 5) (b : BitVec 5) (c : BitVec 5) (fn : BitVec 6) :
    (encRF op d a b c fn).extractLsb' 6 5 = c := by
  simp (disch := omega) only [encRF, BitVec.extractLsb'_append_eq_of_le, BitVec.extractLsb'_append_eq_of_add_le,
    Nat.reduceSub, BitVec.extractLsb'_eq_self, Nat.sub_self, Nat.sub_zero]
theorem encRF_0_6 (op : BitVec 6) (d : BitVec 5) (a : BitVec 5) (b : BitVec 5) (c : BitVec 5) (fn : BitVec 6) :
    (encRF op d a b c fn).extractLsb' 0 6 = fn := by
  simp (disch := omega) only [encRF, BitVec.extractLsb'_append_eq_of_le, BitVec.extractLsb'_append_eq_of_add_le,
    Nat.reduceSub, BitVec.extractLsb'_eq_self, Nat.sub_self, Nat.sub_zero]
theorem encV_26_6 (op : BitVec 6) (vd : BitVec 4) (va : BitVec 4) (vb : BitVec 4) (km : BitVec 3) (ew : BitVec 2) (fn : BitVec 9) :
    (encV op vd va vb km ew fn).extractLsb' 26 6 = op := by
  simp (disch := omega) only [encV, BitVec.extractLsb'_append_eq_of_le, BitVec.extractLsb'_append_eq_of_add_le,
    Nat.reduceSub, BitVec.extractLsb'_eq_self, Nat.sub_self, Nat.sub_zero]
theorem encV_25_1 (op : BitVec 6) (vd : BitVec 4) (va : BitVec 4) (vb : BitVec 4) (km : BitVec 3) (ew : BitVec 2) (fn : BitVec 9) :
    (encV op vd va vb km ew fn).extractLsb' 25 1 = vd.extractLsb' 3 1 := by
  simp (disch := omega) only [encV, BitVec.extractLsb'_append_eq_of_le, BitVec.extractLsb'_append_eq_of_add_le,
    Nat.reduceSub, BitVec.extractLsb'_eq_self, Nat.sub_self, Nat.sub_zero]
theorem encV_22_4 (op : BitVec 6) (vd : BitVec 4) (va : BitVec 4) (vb : BitVec 4) (km : BitVec 3) (ew : BitVec 2) (fn : BitVec 9) :
    (encV op vd va vb km ew fn).extractLsb' 22 4 = vd := by
  simp (disch := omega) only [encV, BitVec.extractLsb'_append_eq_of_le, BitVec.extractLsb'_append_eq_of_add_le,
    Nat.reduceSub, BitVec.extractLsb'_eq_self, Nat.sub_self, Nat.sub_zero]
theorem encV_22_3 (op : BitVec 6) (vd : BitVec 4) (va : BitVec 4) (vb : BitVec 4) (km : BitVec 3) (ew : BitVec 2) (fn : BitVec 9) :
    (encV op vd va vb km ew fn).extractLsb' 22 3 = vd.extractLsb' 0 3 := by
  simp (disch := omega) only [encV, BitVec.extractLsb'_append_eq_of_le, BitVec.extractLsb'_append_eq_of_add_le,
    Nat.reduceSub, BitVec.extractLsb'_eq_self, Nat.sub_self, Nat.sub_zero]
theorem encV_21_1 (op : BitVec 6) (vd : BitVec 4) (va : BitVec 4) (vb : BitVec 4) (km : BitVec 3) (ew : BitVec 2) (fn : BitVec 9) :
    (encV op vd va vb km ew fn).extractLsb' 21 1 = va.extractLsb' 3 1 := by
  simp (disch := omega) only [encV, BitVec.extractLsb'_append_eq_of_le, BitVec.extractLsb'_append_eq_of_add_le,
    Nat.reduceSub, BitVec.extractLsb'_eq_self, Nat.sub_self, Nat.sub_zero]
theorem encV_18_4 (op : BitVec 6) (vd : BitVec 4) (va : BitVec 4) (vb : BitVec 4) (km : BitVec 3) (ew : BitVec 2) (fn : BitVec 9) :
    (encV op vd va vb km ew fn).extractLsb' 18 4 = va := by
  simp (disch := omega) only [encV, BitVec.extractLsb'_append_eq_of_le, BitVec.extractLsb'_append_eq_of_add_le,
    Nat.reduceSub, BitVec.extractLsb'_eq_self, Nat.sub_self, Nat.sub_zero]
theorem encV_18_3 (op : BitVec 6) (vd : BitVec 4) (va : BitVec 4) (vb : BitVec 4) (km : BitVec 3) (ew : BitVec 2) (fn : BitVec 9) :
    (encV op vd va vb km ew fn).extractLsb' 18 3 = va.extractLsb' 0 3 := by
  simp (disch := omega) only [encV, BitVec.extractLsb'_append_eq_of_le, BitVec.extractLsb'_append_eq_of_add_le,
    Nat.reduceSub, BitVec.extractLsb'_eq_self, Nat.sub_self, Nat.sub_zero]
theorem encV_17_1 (op : BitVec 6) (vd : BitVec 4) (va : BitVec 4) (vb : BitVec 4) (km : BitVec 3) (ew : BitVec 2) (fn : BitVec 9) :
    (encV op vd va vb km ew fn).extractLsb' 17 1 = vb.extractLsb' 3 1 := by
  simp (disch := omega) only [encV, BitVec.extractLsb'_append_eq_of_le, BitVec.extractLsb'_append_eq_of_add_le,
    Nat.reduceSub, BitVec.extractLsb'_eq_self, Nat.sub_self, Nat.sub_zero]
theorem encV_16_1 (op : BitVec 6) (vd : BitVec 4) (va : BitVec 4) (vb : BitVec 4) (km : BitVec 3) (ew : BitVec 2) (fn : BitVec 9) :
    (encV op vd va vb km ew fn).extractLsb' 16 1 = vb.extractLsb' 2 1 := by
  simp (disch := omega) only [encV, BitVec.extractLsb'_append_eq_of_le, BitVec.extractLsb'_append_eq_of_add_le,
    Nat.reduceSub, BitVec.extractLsb'_eq_self, Nat.sub_self, Nat.sub_zero]
theorem encV_14_4 (op : BitVec 6) (vd : BitVec 4) (va : BitVec 4) (vb : BitVec 4) (km : BitVec 3) (ew : BitVec 2) (fn : BitVec 9) :
    (encV op vd va vb km ew fn).extractLsb' 14 4 = vb := by
  simp (disch := omega) only [encV, BitVec.extractLsb'_append_eq_of_le, BitVec.extractLsb'_append_eq_of_add_le,
    Nat.reduceSub, BitVec.extractLsb'_eq_self, Nat.sub_self, Nat.sub_zero]
theorem encV_14_3 (op : BitVec 6) (vd : BitVec 4) (va : BitVec 4) (vb : BitVec 4) (km : BitVec 3) (ew : BitVec 2) (fn : BitVec 9) :
    (encV op vd va vb km ew fn).extractLsb' 14 3 = vb.extractLsb' 0 3 := by
  simp (disch := omega) only [encV, BitVec.extractLsb'_append_eq_of_le, BitVec.extractLsb'_append_eq_of_add_le,
    Nat.reduceSub, BitVec.extractLsb'_eq_self, Nat.sub_self, Nat.sub_zero]
theorem encV_11_3 (op : BitVec 6) (vd : BitVec 4) (va : BitVec 4) (vb : BitVec 4) (km : BitVec 3) (ew : BitVec 2) (fn : BitVec 9) :
    (encV op vd va vb km ew fn).extractLsb' 11 3 = km := by
  simp (disch := omega) only [encV, BitVec.extractLsb'_append_eq_of_le, BitVec.extractLsb'_append_eq_of_add_le,
    Nat.reduceSub, BitVec.extractLsb'_eq_self, Nat.sub_self, Nat.sub_zero]
theorem encV_9_2 (op : BitVec 6) (vd : BitVec 4) (va : BitVec 4) (vb : BitVec 4) (km : BitVec 3) (ew : BitVec 2) (fn : BitVec 9) :
    (encV op vd va vb km ew fn).extractLsb' 9 2 = ew := by
  simp (disch := omega) only [encV, BitVec.extractLsb'_append_eq_of_le, BitVec.extractLsb'_append_eq_of_add_le,
    Nat.reduceSub, BitVec.extractLsb'_eq_self, Nat.sub_self, Nat.sub_zero]
theorem encV_8_1 (op : BitVec 6) (vd : BitVec 4) (va : BitVec 4) (vb : BitVec 4) (km : BitVec 3) (ew : BitVec 2) (fn : BitVec 9) :
    (encV op vd va vb km ew fn).extractLsb' 8 1 = fn.extractLsb' 8 1 := by
  simp (disch := omega) only [encV, BitVec.extractLsb'_append_eq_of_le, BitVec.extractLsb'_append_eq_of_add_le,
    Nat.reduceSub, BitVec.extractLsb'_eq_self, Nat.sub_self, Nat.sub_zero]
theorem encV_5_4 (op : BitVec 6) (vd : BitVec 4) (va : BitVec 4) (vb : BitVec 4) (km : BitVec 3) (ew : BitVec 2) (fn : BitVec 9) :
    (encV op vd va vb km ew fn).extractLsb' 5 4 = fn.extractLsb' 5 4 := by
  simp (disch := omega) only [encV, BitVec.extractLsb'_append_eq_of_le, BitVec.extractLsb'_append_eq_of_add_le,
    Nat.reduceSub, BitVec.extractLsb'_eq_self, Nat.sub_self, Nat.sub_zero]
theorem encV_4_4 (op : BitVec 6) (vd : BitVec 4) (va : BitVec 4) (vb : BitVec 4) (km : BitVec 3) (ew : BitVec 2) (fn : BitVec 9) :
    (encV op vd va vb km ew fn).extractLsb' 4 4 = fn.extractLsb' 4 4 := by
  simp (disch := omega) only [encV, BitVec.extractLsb'_append_eq_of_le, BitVec.extractLsb'_append_eq_of_add_le,
    Nat.reduceSub, BitVec.extractLsb'_eq_self, Nat.sub_self, Nat.sub_zero]
theorem encV_0_9 (op : BitVec 6) (vd : BitVec 4) (va : BitVec 4) (vb : BitVec 4) (km : BitVec 3) (ew : BitVec 2) (fn : BitVec 9) :
    (encV op vd va vb km ew fn).extractLsb' 0 9 = fn := by
  simp (disch := omega) only [encV, BitVec.extractLsb'_append_eq_of_le, BitVec.extractLsb'_append_eq_of_add_le,
    Nat.reduceSub, BitVec.extractLsb'_eq_self, Nat.sub_self, Nat.sub_zero]
theorem encV_0_5 (op : BitVec 6) (vd : BitVec 4) (va : BitVec 4) (vb : BitVec 4) (km : BitVec 3) (ew : BitVec 2) (fn : BitVec 9) :
    (encV op vd va vb km ew fn).extractLsb' 0 5 = fn.extractLsb' 0 5 := by
  simp (disch := omega) only [encV, BitVec.extractLsb'_append_eq_of_le, BitVec.extractLsb'_append_eq_of_add_le,
    Nat.reduceSub, BitVec.extractLsb'_eq_self, Nat.sub_self, Nat.sub_zero]
theorem encV_0_4 (op : BitVec 6) (vd : BitVec 4) (va : BitVec 4) (vb : BitVec 4) (km : BitVec 3) (ew : BitVec 2) (fn : BitVec 9) :
    (encV op vd va vb km ew fn).extractLsb' 0 4 = fn.extractLsb' 0 4 := by
  simp (disch := omega) only [encV, BitVec.extractLsb'_append_eq_of_le, BitVec.extractLsb'_append_eq_of_add_le,
    Nat.reduceSub, BitVec.extractLsb'_eq_self, Nat.sub_self, Nat.sub_zero]
theorem encVF_26_6 (op : BitVec 6) (vd : BitVec 4) (va : BitVec 4) (vb : BitVec 4) (vc : BitVec 4) (km : BitVec 3) (fn : BitVec 7) :
    (encVF op vd va vb vc km fn).extractLsb' 26 6 = op := by
  simp (disch := omega) only [encVF, BitVec.extractLsb'_append_eq_of_le, BitVec.extractLsb'_append_eq_of_add_le,
    Nat.reduceSub, BitVec.extractLsb'_eq_self, Nat.sub_self, Nat.sub_zero]
theorem encVF_22_4 (op : BitVec 6) (vd : BitVec 4) (va : BitVec 4) (vb : BitVec 4) (vc : BitVec 4) (km : BitVec 3) (fn : BitVec 7) :
    (encVF op vd va vb vc km fn).extractLsb' 22 4 = vd := by
  simp (disch := omega) only [encVF, BitVec.extractLsb'_append_eq_of_le, BitVec.extractLsb'_append_eq_of_add_le,
    Nat.reduceSub, BitVec.extractLsb'_eq_self, Nat.sub_self, Nat.sub_zero]
theorem encVF_18_4 (op : BitVec 6) (vd : BitVec 4) (va : BitVec 4) (vb : BitVec 4) (vc : BitVec 4) (km : BitVec 3) (fn : BitVec 7) :
    (encVF op vd va vb vc km fn).extractLsb' 18 4 = va := by
  simp (disch := omega) only [encVF, BitVec.extractLsb'_append_eq_of_le, BitVec.extractLsb'_append_eq_of_add_le,
    Nat.reduceSub, BitVec.extractLsb'_eq_self, Nat.sub_self, Nat.sub_zero]
theorem encVF_14_4 (op : BitVec 6) (vd : BitVec 4) (va : BitVec 4) (vb : BitVec 4) (vc : BitVec 4) (km : BitVec 3) (fn : BitVec 7) :
    (encVF op vd va vb vc km fn).extractLsb' 14 4 = vb := by
  simp (disch := omega) only [encVF, BitVec.extractLsb'_append_eq_of_le, BitVec.extractLsb'_append_eq_of_add_le,
    Nat.reduceSub, BitVec.extractLsb'_eq_self, Nat.sub_self, Nat.sub_zero]
theorem encVF_10_4 (op : BitVec 6) (vd : BitVec 4) (va : BitVec 4) (vb : BitVec 4) (vc : BitVec 4) (km : BitVec 3) (fn : BitVec 7) :
    (encVF op vd va vb vc km fn).extractLsb' 10 4 = vc := by
  simp (disch := omega) only [encVF, BitVec.extractLsb'_append_eq_of_le, BitVec.extractLsb'_append_eq_of_add_le,
    Nat.reduceSub, BitVec.extractLsb'_eq_self, Nat.sub_self, Nat.sub_zero]
theorem encVF_7_3 (op : BitVec 6) (vd : BitVec 4) (va : BitVec 4) (vb : BitVec 4) (vc : BitVec 4) (km : BitVec 3) (fn : BitVec 7) :
    (encVF op vd va vb vc km fn).extractLsb' 7 3 = km := by
  simp (disch := omega) only [encVF, BitVec.extractLsb'_append_eq_of_le, BitVec.extractLsb'_append_eq_of_add_le,
    Nat.reduceSub, BitVec.extractLsb'_eq_self, Nat.sub_self, Nat.sub_zero]
theorem encVF_5_2 (op : BitVec 6) (vd : BitVec 4) (va : BitVec 4) (vb : BitVec 4) (vc : BitVec 4) (km : BitVec 3) (fn : BitVec 7) :
    (encVF op vd va vb vc km fn).extractLsb' 5 2 = fn.extractLsb' 5 2 := by
  simp (disch := omega) only [encVF, BitVec.extractLsb'_append_eq_of_le, BitVec.extractLsb'_append_eq_of_add_le,
    Nat.reduceSub, BitVec.extractLsb'_eq_self, Nat.sub_self, Nat.sub_zero]
theorem encVF_0_5 (op : BitVec 6) (vd : BitVec 4) (va : BitVec 4) (vb : BitVec 4) (vc : BitVec 4) (km : BitVec 3) (fn : BitVec 7) :
    (encVF op vd va vb vc km fn).extractLsb' 0 5 = fn.extractLsb' 0 5 := by
  simp (disch := omega) only [encVF, BitVec.extractLsb'_append_eq_of_le, BitVec.extractLsb'_append_eq_of_add_le,
    Nat.reduceSub, BitVec.extractLsb'_eq_self, Nat.sub_self, Nat.sub_zero]
theorem encVS_26_6 (op : BitVec 6) (vd : BitVec 4) (g : BitVec 5) (va : BitVec 4) (km : BitVec 3) (lane : BitVec 5) (fn : BitVec 5) :
    (encVS op vd g va km lane fn).extractLsb' 26 6 = op := by
  simp (disch := omega) only [encVS, BitVec.extractLsb'_append_eq_of_le, BitVec.extractLsb'_append_eq_of_add_le,
    Nat.reduceSub, BitVec.extractLsb'_eq_self, Nat.sub_self, Nat.sub_zero]
theorem encVS_22_4 (op : BitVec 6) (vd : BitVec 4) (g : BitVec 5) (va : BitVec 4) (km : BitVec 3) (lane : BitVec 5) (fn : BitVec 5) :
    (encVS op vd g va km lane fn).extractLsb' 22 4 = vd := by
  simp (disch := omega) only [encVS, BitVec.extractLsb'_append_eq_of_le, BitVec.extractLsb'_append_eq_of_add_le,
    Nat.reduceSub, BitVec.extractLsb'_eq_self, Nat.sub_self, Nat.sub_zero]
theorem encVS_18_4 (op : BitVec 6) (vd : BitVec 4) (g : BitVec 5) (va : BitVec 4) (km : BitVec 3) (lane : BitVec 5) (fn : BitVec 5) :
    (encVS op vd g va km lane fn).extractLsb' 18 4 = g.extractLsb' 1 4 := by
  simp (disch := omega) only [encVS, BitVec.extractLsb'_append_eq_of_le, BitVec.extractLsb'_append_eq_of_add_le,
    Nat.reduceSub, BitVec.extractLsb'_eq_self, Nat.sub_self, Nat.sub_zero]
theorem encVS_17_5 (op : BitVec 6) (vd : BitVec 4) (g : BitVec 5) (va : BitVec 4) (km : BitVec 3) (lane : BitVec 5) (fn : BitVec 5) :
    (encVS op vd g va km lane fn).extractLsb' 17 5 = g := by
  simp (disch := omega) only [encVS, BitVec.extractLsb'_append_eq_of_le, BitVec.extractLsb'_append_eq_of_add_le,
    Nat.reduceSub, BitVec.extractLsb'_eq_self, Nat.sub_self, Nat.sub_zero]
theorem encVS_16_1 (op : BitVec 6) (vd : BitVec 4) (g : BitVec 5) (va : BitVec 4) (km : BitVec 3) (lane : BitVec 5) (fn : BitVec 5) :
    (encVS op vd g va km lane fn).extractLsb' 16 1 = va.extractLsb' 3 1 := by
  simp (disch := omega) only [encVS, BitVec.extractLsb'_append_eq_of_le, BitVec.extractLsb'_append_eq_of_add_le,
    Nat.reduceSub, BitVec.extractLsb'_eq_self, Nat.sub_self, Nat.sub_zero]
theorem encVS_13_4 (op : BitVec 6) (vd : BitVec 4) (g : BitVec 5) (va : BitVec 4) (km : BitVec 3) (lane : BitVec 5) (fn : BitVec 5) :
    (encVS op vd g va km lane fn).extractLsb' 13 4 = va := by
  simp (disch := omega) only [encVS, BitVec.extractLsb'_append_eq_of_le, BitVec.extractLsb'_append_eq_of_add_le,
    Nat.reduceSub, BitVec.extractLsb'_eq_self, Nat.sub_self, Nat.sub_zero]
theorem encVS_13_3 (op : BitVec 6) (vd : BitVec 4) (g : BitVec 5) (va : BitVec 4) (km : BitVec 3) (lane : BitVec 5) (fn : BitVec 5) :
    (encVS op vd g va km lane fn).extractLsb' 13 3 = va.extractLsb' 0 3 := by
  simp (disch := omega) only [encVS, BitVec.extractLsb'_append_eq_of_le, BitVec.extractLsb'_append_eq_of_add_le,
    Nat.reduceSub, BitVec.extractLsb'_eq_self, Nat.sub_self, Nat.sub_zero]
theorem encVS_10_3 (op : BitVec 6) (vd : BitVec 4) (g : BitVec 5) (va : BitVec 4) (km : BitVec 3) (lane : BitVec 5) (fn : BitVec 5) :
    (encVS op vd g va km lane fn).extractLsb' 10 3 = km := by
  simp (disch := omega) only [encVS, BitVec.extractLsb'_append_eq_of_le, BitVec.extractLsb'_append_eq_of_add_le,
    Nat.reduceSub, BitVec.extractLsb'_eq_self, Nat.sub_self, Nat.sub_zero]
theorem encVS_5_5 (op : BitVec 6) (vd : BitVec 4) (g : BitVec 5) (va : BitVec 4) (km : BitVec 3) (lane : BitVec 5) (fn : BitVec 5) :
    (encVS op vd g va km lane fn).extractLsb' 5 5 = lane := by
  simp (disch := omega) only [encVS, BitVec.extractLsb'_append_eq_of_le, BitVec.extractLsb'_append_eq_of_add_le,
    Nat.reduceSub, BitVec.extractLsb'_eq_self, Nat.sub_self, Nat.sub_zero]
theorem encVS_5_4 (op : BitVec 6) (vd : BitVec 4) (g : BitVec 5) (va : BitVec 4) (km : BitVec 3) (lane : BitVec 5) (fn : BitVec 5) :
    (encVS op vd g va km lane fn).extractLsb' 5 4 = lane.extractLsb' 0 4 := by
  simp (disch := omega) only [encVS, BitVec.extractLsb'_append_eq_of_le, BitVec.extractLsb'_append_eq_of_add_le,
    Nat.reduceSub, BitVec.extractLsb'_eq_self, Nat.sub_self, Nat.sub_zero]
theorem encVS_0_5 (op : BitVec 6) (vd : BitVec 4) (g : BitVec 5) (va : BitVec 4) (km : BitVec 3) (lane : BitVec 5) (fn : BitVec 5) :
    (encVS op vd g va km lane fn).extractLsb' 0 5 = fn := by
  simp (disch := omega) only [encVS, BitVec.extractLsb'_append_eq_of_le, BitVec.extractLsb'_append_eq_of_add_le,
    Nat.reduceSub, BitVec.extractLsb'_eq_self, Nat.sub_self, Nat.sub_zero]
theorem encVM_26_6 (op : BitVec 6) (vd : BitVec 4) (a : BitVec 5) (b : BitVec 5) (km : BitVec 3) (ew : BitVec 2) (fn : BitVec 7) :
    (encVM op vd a b km ew fn).extractLsb' 26 6 = op := by
  simp (disch := omega) only [encVM, BitVec.extractLsb'_append_eq_of_le, BitVec.extractLsb'_append_eq_of_add_le,
    Nat.reduceSub, BitVec.extractLsb'_eq_self, Nat.sub_self, Nat.sub_zero]
theorem encVM_22_4 (op : BitVec 6) (vd : BitVec 4) (a : BitVec 5) (b : BitVec 5) (km : BitVec 3) (ew : BitVec 2) (fn : BitVec 7) :
    (encVM op vd a b km ew fn).extractLsb' 22 4 = vd := by
  simp (disch := omega) only [encVM, BitVec.extractLsb'_append_eq_of_le, BitVec.extractLsb'_append_eq_of_add_le,
    Nat.reduceSub, BitVec.extractLsb'_eq_self, Nat.sub_self, Nat.sub_zero]
theorem encVM_17_5 (op : BitVec 6) (vd : BitVec 4) (a : BitVec 5) (b : BitVec 5) (km : BitVec 3) (ew : BitVec 2) (fn : BitVec 7) :
    (encVM op vd a b km ew fn).extractLsb' 17 5 = a := by
  simp (disch := omega) only [encVM, BitVec.extractLsb'_append_eq_of_le, BitVec.extractLsb'_append_eq_of_add_le,
    Nat.reduceSub, BitVec.extractLsb'_eq_self, Nat.sub_self, Nat.sub_zero]
theorem encVM_13_4 (op : BitVec 6) (vd : BitVec 4) (a : BitVec 5) (b : BitVec 5) (km : BitVec 3) (ew : BitVec 2) (fn : BitVec 7) :
    (encVM op vd a b km ew fn).extractLsb' 13 4 = b.extractLsb' 1 4 := by
  simp (disch := omega) only [encVM, BitVec.extractLsb'_append_eq_of_le, BitVec.extractLsb'_append_eq_of_add_le,
    Nat.reduceSub, BitVec.extractLsb'_eq_self, Nat.sub_self, Nat.sub_zero]
theorem encVM_12_5 (op : BitVec 6) (vd : BitVec 4) (a : BitVec 5) (b : BitVec 5) (km : BitVec 3) (ew : BitVec 2) (fn : BitVec 7) :
    (encVM op vd a b km ew fn).extractLsb' 12 5 = b := by
  simp (disch := omega) only [encVM, BitVec.extractLsb'_append_eq_of_le, BitVec.extractLsb'_append_eq_of_add_le,
    Nat.reduceSub, BitVec.extractLsb'_eq_self, Nat.sub_self, Nat.sub_zero]
theorem encVM_12_1 (op : BitVec 6) (vd : BitVec 4) (a : BitVec 5) (b : BitVec 5) (km : BitVec 3) (ew : BitVec 2) (fn : BitVec 7) :
    (encVM op vd a b km ew fn).extractLsb' 12 1 = b.extractLsb' 0 1 := by
  simp (disch := omega) only [encVM, BitVec.extractLsb'_append_eq_of_le, BitVec.extractLsb'_append_eq_of_add_le,
    Nat.reduceSub, BitVec.extractLsb'_eq_self, Nat.sub_self, Nat.sub_zero]
theorem encVM_9_3 (op : BitVec 6) (vd : BitVec 4) (a : BitVec 5) (b : BitVec 5) (km : BitVec 3) (ew : BitVec 2) (fn : BitVec 7) :
    (encVM op vd a b km ew fn).extractLsb' 9 3 = km := by
  simp (disch := omega) only [encVM, BitVec.extractLsb'_append_eq_of_le, BitVec.extractLsb'_append_eq_of_add_le,
    Nat.reduceSub, BitVec.extractLsb'_eq_self, Nat.sub_self, Nat.sub_zero]
theorem encVM_7_2 (op : BitVec 6) (vd : BitVec 4) (a : BitVec 5) (b : BitVec 5) (km : BitVec 3) (ew : BitVec 2) (fn : BitVec 7) :
    (encVM op vd a b km ew fn).extractLsb' 7 2 = ew := by
  simp (disch := omega) only [encVM, BitVec.extractLsb'_append_eq_of_le, BitVec.extractLsb'_append_eq_of_add_le,
    Nat.reduceSub, BitVec.extractLsb'_eq_self, Nat.sub_self, Nat.sub_zero]
theorem encVM_0_7 (op : BitVec 6) (vd : BitVec 4) (a : BitVec 5) (b : BitVec 5) (km : BitVec 3) (ew : BitVec 2) (fn : BitVec 7) :
    (encVM op vd a b km ew fn).extractLsb' 0 7 = fn := by
  simp (disch := omega) only [encVM, BitVec.extractLsb'_append_eq_of_le, BitVec.extractLsb'_append_eq_of_add_le,
    Nat.reduceSub, BitVec.extractLsb'_eq_self, Nat.sub_self, Nat.sub_zero]
theorem encS_26_6 (op : BitVec 6) (fn : BitVec 6) (a : BitVec 5) (b : BitVec 5) (imm : BitVec 10) :
    (encS op fn a b imm).extractLsb' 26 6 = op := by
  simp (disch := omega) only [encS, BitVec.extractLsb'_append_eq_of_le, BitVec.extractLsb'_append_eq_of_add_le,
    Nat.reduceSub, BitVec.extractLsb'_eq_self, Nat.sub_self, Nat.sub_zero]
theorem encS_20_6 (op : BitVec 6) (fn : BitVec 6) (a : BitVec 5) (b : BitVec 5) (imm : BitVec 10) :
    (encS op fn a b imm).extractLsb' 20 6 = fn := by
  simp (disch := omega) only [encS, BitVec.extractLsb'_append_eq_of_le, BitVec.extractLsb'_append_eq_of_add_le,
    Nat.reduceSub, BitVec.extractLsb'_eq_self, Nat.sub_self, Nat.sub_zero]
theorem encS_19_1 (op : BitVec 6) (fn : BitVec 6) (a : BitVec 5) (b : BitVec 5) (imm : BitVec 10) :
    (encS op fn a b imm).extractLsb' 19 1 = a.extractLsb' 4 1 := by
  simp (disch := omega) only [encS, BitVec.extractLsb'_append_eq_of_le, BitVec.extractLsb'_append_eq_of_add_le,
    Nat.reduceSub, BitVec.extractLsb'_eq_self, Nat.sub_self, Nat.sub_zero]
theorem encS_15_5 (op : BitVec 6) (fn : BitVec 6) (a : BitVec 5) (b : BitVec 5) (imm : BitVec 10) :
    (encS op fn a b imm).extractLsb' 15 5 = a := by
  simp (disch := omega) only [encS, BitVec.extractLsb'_append_eq_of_le, BitVec.extractLsb'_append_eq_of_add_le,
    Nat.reduceSub, BitVec.extractLsb'_eq_self, Nat.sub_self, Nat.sub_zero]
theorem encS_15_4 (op : BitVec 6) (fn : BitVec 6) (a : BitVec 5) (b : BitVec 5) (imm : BitVec 10) :
    (encS op fn a b imm).extractLsb' 15 4 = a.extractLsb' 0 4 := by
  simp (disch := omega) only [encS, BitVec.extractLsb'_append_eq_of_le, BitVec.extractLsb'_append_eq_of_add_le,
    Nat.reduceSub, BitVec.extractLsb'_eq_self, Nat.sub_self, Nat.sub_zero]
theorem encS_14_1 (op : BitVec 6) (fn : BitVec 6) (a : BitVec 5) (b : BitVec 5) (imm : BitVec 10) :
    (encS op fn a b imm).extractLsb' 14 1 = b.extractLsb' 4 1 := by
  simp (disch := omega) only [encS, BitVec.extractLsb'_append_eq_of_le, BitVec.extractLsb'_append_eq_of_add_le,
    Nat.reduceSub, BitVec.extractLsb'_eq_self, Nat.sub_self, Nat.sub_zero]
theorem encS_10_5 (op : BitVec 6) (fn : BitVec 6) (a : BitVec 5) (b : BitVec 5) (imm : BitVec 10) :
    (encS op fn a b imm).extractLsb' 10 5 = b := by
  simp (disch := omega) only [encS, BitVec.extractLsb'_append_eq_of_le, BitVec.extractLsb'_append_eq_of_add_le,
    Nat.reduceSub, BitVec.extractLsb'_eq_self, Nat.sub_self, Nat.sub_zero]
theorem encS_10_4 (op : BitVec 6) (fn : BitVec 6) (a : BitVec 5) (b : BitVec 5) (imm : BitVec 10) :
    (encS op fn a b imm).extractLsb' 10 4 = b.extractLsb' 0 4 := by
  simp (disch := omega) only [encS, BitVec.extractLsb'_append_eq_of_le, BitVec.extractLsb'_append_eq_of_add_le,
    Nat.reduceSub, BitVec.extractLsb'_eq_self, Nat.sub_self, Nat.sub_zero]
theorem encS_9_1 (op : BitVec 6) (fn : BitVec 6) (a : BitVec 5) (b : BitVec 5) (imm : BitVec 10) :
    (encS op fn a b imm).extractLsb' 9 1 = imm.extractLsb' 9 1 := by
  simp (disch := omega) only [encS, BitVec.extractLsb'_append_eq_of_le, BitVec.extractLsb'_append_eq_of_add_le,
    Nat.reduceSub, BitVec.extractLsb'_eq_self, Nat.sub_self, Nat.sub_zero]
theorem encS_8_2 (op : BitVec 6) (fn : BitVec 6) (a : BitVec 5) (b : BitVec 5) (imm : BitVec 10) :
    (encS op fn a b imm).extractLsb' 8 2 = imm.extractLsb' 8 2 := by
  simp (disch := omega) only [encS, BitVec.extractLsb'_append_eq_of_le, BitVec.extractLsb'_append_eq_of_add_le,
    Nat.reduceSub, BitVec.extractLsb'_eq_self, Nat.sub_self, Nat.sub_zero]
theorem encS_7_3 (op : BitVec 6) (fn : BitVec 6) (a : BitVec 5) (b : BitVec 5) (imm : BitVec 10) :
    (encS op fn a b imm).extractLsb' 7 3 = imm.extractLsb' 7 3 := by
  simp (disch := omega) only [encS, BitVec.extractLsb'_append_eq_of_le, BitVec.extractLsb'_append_eq_of_add_le,
    Nat.reduceSub, BitVec.extractLsb'_eq_self, Nat.sub_self, Nat.sub_zero]
theorem encS_7_1 (op : BitVec 6) (fn : BitVec 6) (a : BitVec 5) (b : BitVec 5) (imm : BitVec 10) :
    (encS op fn a b imm).extractLsb' 7 1 = imm.extractLsb' 7 1 := by
  simp (disch := omega) only [encS, BitVec.extractLsb'_append_eq_of_le, BitVec.extractLsb'_append_eq_of_add_le,
    Nat.reduceSub, BitVec.extractLsb'_eq_self, Nat.sub_self, Nat.sub_zero]
theorem encS_6_4 (op : BitVec 6) (fn : BitVec 6) (a : BitVec 5) (b : BitVec 5) (imm : BitVec 10) :
    (encS op fn a b imm).extractLsb' 6 4 = imm.extractLsb' 6 4 := by
  simp (disch := omega) only [encS, BitVec.extractLsb'_append_eq_of_le, BitVec.extractLsb'_append_eq_of_add_le,
    Nat.reduceSub, BitVec.extractLsb'_eq_self, Nat.sub_self, Nat.sub_zero]
theorem encS_5_5 (op : BitVec 6) (fn : BitVec 6) (a : BitVec 5) (b : BitVec 5) (imm : BitVec 10) :
    (encS op fn a b imm).extractLsb' 5 5 = imm.extractLsb' 5 5 := by
  simp (disch := omega) only [encS, BitVec.extractLsb'_append_eq_of_le, BitVec.extractLsb'_append_eq_of_add_le,
    Nat.reduceSub, BitVec.extractLsb'_eq_self, Nat.sub_self, Nat.sub_zero]
theorem encS_5_4 (op : BitVec 6) (fn : BitVec 6) (a : BitVec 5) (b : BitVec 5) (imm : BitVec 10) :
    (encS op fn a b imm).extractLsb' 5 4 = imm.extractLsb' 5 4 := by
  simp (disch := omega) only [encS, BitVec.extractLsb'_append_eq_of_le, BitVec.extractLsb'_append_eq_of_add_le,
    Nat.reduceSub, BitVec.extractLsb'_eq_self, Nat.sub_self, Nat.sub_zero]
theorem encS_4_6 (op : BitVec 6) (fn : BitVec 6) (a : BitVec 5) (b : BitVec 5) (imm : BitVec 10) :
    (encS op fn a b imm).extractLsb' 4 6 = imm.extractLsb' 4 6 := by
  simp (disch := omega) only [encS, BitVec.extractLsb'_append_eq_of_le, BitVec.extractLsb'_append_eq_of_add_le,
    Nat.reduceSub, BitVec.extractLsb'_eq_self, Nat.sub_self, Nat.sub_zero]
theorem encS_4_3 (op : BitVec 6) (fn : BitVec 6) (a : BitVec 5) (b : BitVec 5) (imm : BitVec 10) :
    (encS op fn a b imm).extractLsb' 4 3 = imm.extractLsb' 4 3 := by
  simp (disch := omega) only [encS, BitVec.extractLsb'_append_eq_of_le, BitVec.extractLsb'_append_eq_of_add_le,
    Nat.reduceSub, BitVec.extractLsb'_eq_self, Nat.sub_self, Nat.sub_zero]
theorem encS_3_4 (op : BitVec 6) (fn : BitVec 6) (a : BitVec 5) (b : BitVec 5) (imm : BitVec 10) :
    (encS op fn a b imm).extractLsb' 3 4 = imm.extractLsb' 3 4 := by
  simp (disch := omega) only [encS, BitVec.extractLsb'_append_eq_of_le, BitVec.extractLsb'_append_eq_of_add_le,
    Nat.reduceSub, BitVec.extractLsb'_eq_self, Nat.sub_self, Nat.sub_zero]
theorem encS_2_8 (op : BitVec 6) (fn : BitVec 6) (a : BitVec 5) (b : BitVec 5) (imm : BitVec 10) :
    (encS op fn a b imm).extractLsb' 2 8 = imm.extractLsb' 2 8 := by
  simp (disch := omega) only [encS, BitVec.extractLsb'_append_eq_of_le, BitVec.extractLsb'_append_eq_of_add_le,
    Nat.reduceSub, BitVec.extractLsb'_eq_self, Nat.sub_self, Nat.sub_zero]
theorem encS_2_3 (op : BitVec 6) (fn : BitVec 6) (a : BitVec 5) (b : BitVec 5) (imm : BitVec 10) :
    (encS op fn a b imm).extractLsb' 2 3 = imm.extractLsb' 2 3 := by
  simp (disch := omega) only [encS, BitVec.extractLsb'_append_eq_of_le, BitVec.extractLsb'_append_eq_of_add_le,
    Nat.reduceSub, BitVec.extractLsb'_eq_self, Nat.sub_self, Nat.sub_zero]
theorem encS_1_9 (op : BitVec 6) (fn : BitVec 6) (a : BitVec 5) (b : BitVec 5) (imm : BitVec 10) :
    (encS op fn a b imm).extractLsb' 1 9 = imm.extractLsb' 1 9 := by
  simp (disch := omega) only [encS, BitVec.extractLsb'_append_eq_of_le, BitVec.extractLsb'_append_eq_of_add_le,
    Nat.reduceSub, BitVec.extractLsb'_eq_self, Nat.sub_self, Nat.sub_zero]
theorem encS_0_10 (op : BitVec 6) (fn : BitVec 6) (a : BitVec 5) (b : BitVec 5) (imm : BitVec 10) :
    (encS op fn a b imm).extractLsb' 0 10 = imm := by
  simp (disch := omega) only [encS, BitVec.extractLsb'_append_eq_of_le, BitVec.extractLsb'_append_eq_of_add_le,
    Nat.reduceSub, BitVec.extractLsb'_eq_self, Nat.sub_self, Nat.sub_zero]
theorem encS_0_6 (op : BitVec 6) (fn : BitVec 6) (a : BitVec 5) (b : BitVec 5) (imm : BitVec 10) :
    (encS op fn a b imm).extractLsb' 0 6 = imm.extractLsb' 0 6 := by
  simp (disch := omega) only [encS, BitVec.extractLsb'_append_eq_of_le, BitVec.extractLsb'_append_eq_of_add_le,
    Nat.reduceSub, BitVec.extractLsb'_eq_self, Nat.sub_self, Nat.sub_zero]
theorem encS_0_5 (op : BitVec 6) (fn : BitVec 6) (a : BitVec 5) (b : BitVec 5) (imm : BitVec 10) :
    (encS op fn a b imm).extractLsb' 0 5 = imm.extractLsb' 0 5 := by
  simp (disch := omega) only [encS, BitVec.extractLsb'_append_eq_of_le, BitVec.extractLsb'_append_eq_of_add_le,
    Nat.reduceSub, BitVec.extractLsb'_eq_self, Nat.sub_self, Nat.sub_zero]
theorem encS_0_4 (op : BitVec 6) (fn : BitVec 6) (a : BitVec 5) (b : BitVec 5) (imm : BitVec 10) :
    (encS op fn a b imm).extractLsb' 0 4 = imm.extractLsb' 0 4 := by
  simp (disch := omega) only [encS, BitVec.extractLsb'_append_eq_of_le, BitVec.extractLsb'_append_eq_of_add_le,
    Nat.reduceSub, BitVec.extractLsb'_eq_self, Nat.sub_self, Nat.sub_zero]
theorem encS_0_3 (op : BitVec 6) (fn : BitVec 6) (a : BitVec 5) (b : BitVec 5) (imm : BitVec 10) :
    (encS op fn a b imm).extractLsb' 0 3 = imm.extractLsb' 0 3 := by
  simp (disch := omega) only [encS, BitVec.extractLsb'_append_eq_of_le, BitVec.extractLsb'_append_eq_of_add_le,
    Nat.reduceSub, BitVec.extractLsb'_eq_self, Nat.sub_self, Nat.sub_zero]
theorem encS_0_2 (op : BitVec 6) (fn : BitVec 6) (a : BitVec 5) (b : BitVec 5) (imm : BitVec 10) :
    (encS op fn a b imm).extractLsb' 0 2 = imm.extractLsb' 0 2 := by
  simp (disch := omega) only [encS, BitVec.extractLsb'_append_eq_of_le, BitVec.extractLsb'_append_eq_of_add_le,
    Nat.reduceSub, BitVec.extractLsb'_eq_self, Nat.sub_self, Nat.sub_zero]
theorem encS_0_1 (op : BitVec 6) (fn : BitVec 6) (a : BitVec 5) (b : BitVec 5) (imm : BitVec 10) :
    (encS op fn a b imm).extractLsb' 0 1 = imm.extractLsb' 0 1 := by
  simp (disch := omega) only [encS, BitVec.extractLsb'_append_eq_of_le, BitVec.extractLsb'_append_eq_of_add_le,
    Nat.reduceSub, BitVec.extractLsb'_eq_self, Nat.sub_self, Nat.sub_zero]

/-! ### Every instruction -/

theorem RoundTrip.add (x1 : BitVec 5) (x2 : BitVec 5) (x3 : BitVec 5) : RoundTrip.Statement (.add x1 x2 x3) := by
  intro _ _
  show decodeAny (encRR 1 x1 x2 x3 0#11) = .ok (.add x1 x2 x3)
  simp only [decodeAny, decInt, legal, encRR_26_6, encRR_21_5, encRR_16_5, encRR_11_5, encRR_6_5, encRR_3_3, encRR_0_11, encRR_0_3,
    BitVec.reduceToNat, List.any_nil, List.any_cons, id_eq, Bool.false_eq_true, Bool.or_false, Bool.or_self, if_false, ne_eq, not_true_eq_false, decide_false,
    BitVec.reduceEq, not_false_eq_true, decide_true, BitVec.ofNat_eq_ofNat, reduceIte]
theorem RoundTrip.sub (x1 : BitVec 5) (x2 : BitVec 5) (x3 : BitVec 5) : RoundTrip.Statement (.sub x1 x2 x3) := by
  intro _ _
  show decodeAny (encRR 1 x1 x2 x3 1#11) = .ok (.sub x1 x2 x3)
  simp only [decodeAny, decInt, legal, encRR_26_6, encRR_21_5, encRR_16_5, encRR_11_5, encRR_6_5, encRR_3_3, encRR_0_11, encRR_0_3,
    BitVec.reduceToNat, List.any_nil, List.any_cons, id_eq, Bool.false_eq_true, Bool.or_false, Bool.or_self, if_false, ne_eq, not_true_eq_false, decide_false,
    BitVec.reduceEq, not_false_eq_true, decide_true, BitVec.ofNat_eq_ofNat, reduceIte]
theorem RoundTrip.and (x1 : BitVec 5) (x2 : BitVec 5) (x3 : BitVec 5) : RoundTrip.Statement (.and x1 x2 x3) := by
  intro _ _
  show decodeAny (encRR 1 x1 x2 x3 2#11) = .ok (.and x1 x2 x3)
  simp only [decodeAny, decInt, legal, encRR_26_6, encRR_21_5, encRR_16_5, encRR_11_5, encRR_6_5, encRR_3_3, encRR_0_11, encRR_0_3,
    BitVec.reduceToNat, List.any_nil, List.any_cons, id_eq, Bool.false_eq_true, Bool.or_false, Bool.or_self, if_false, ne_eq, not_true_eq_false, decide_false,
    BitVec.reduceEq, not_false_eq_true, decide_true, BitVec.ofNat_eq_ofNat, reduceIte]
theorem RoundTrip.or (x1 : BitVec 5) (x2 : BitVec 5) (x3 : BitVec 5) : RoundTrip.Statement (.or x1 x2 x3) := by
  intro _ _
  show decodeAny (encRR 1 x1 x2 x3 3#11) = .ok (.or x1 x2 x3)
  simp only [decodeAny, decInt, legal, encRR_26_6, encRR_21_5, encRR_16_5, encRR_11_5, encRR_6_5, encRR_3_3, encRR_0_11, encRR_0_3,
    BitVec.reduceToNat, List.any_nil, List.any_cons, id_eq, Bool.false_eq_true, Bool.or_false, Bool.or_self, if_false, ne_eq, not_true_eq_false, decide_false,
    BitVec.reduceEq, not_false_eq_true, decide_true, BitVec.ofNat_eq_ofNat, reduceIte]
theorem RoundTrip.xor (x1 : BitVec 5) (x2 : BitVec 5) (x3 : BitVec 5) : RoundTrip.Statement (.xor x1 x2 x3) := by
  intro _ _
  show decodeAny (encRR 1 x1 x2 x3 4#11) = .ok (.xor x1 x2 x3)
  simp only [decodeAny, decInt, legal, encRR_26_6, encRR_21_5, encRR_16_5, encRR_11_5, encRR_6_5, encRR_3_3, encRR_0_11, encRR_0_3,
    BitVec.reduceToNat, List.any_nil, List.any_cons, id_eq, Bool.false_eq_true, Bool.or_false, Bool.or_self, if_false, ne_eq, not_true_eq_false, decide_false,
    BitVec.reduceEq, not_false_eq_true, decide_true, BitVec.ofNat_eq_ofNat, reduceIte]
theorem RoundTrip.sll (x1 : BitVec 5) (x2 : BitVec 5) (x3 : BitVec 5) : RoundTrip.Statement (.sll x1 x2 x3) := by
  intro _ _
  show decodeAny (encRR 1 x1 x2 x3 5#11) = .ok (.sll x1 x2 x3)
  simp only [decodeAny, decInt, legal, encRR_26_6, encRR_21_5, encRR_16_5, encRR_11_5, encRR_6_5, encRR_3_3, encRR_0_11, encRR_0_3,
    BitVec.reduceToNat, List.any_nil, List.any_cons, id_eq, Bool.false_eq_true, Bool.or_false, Bool.or_self, if_false, ne_eq, not_true_eq_false, decide_false,
    BitVec.reduceEq, not_false_eq_true, decide_true, BitVec.ofNat_eq_ofNat, reduceIte]
theorem RoundTrip.srl (x1 : BitVec 5) (x2 : BitVec 5) (x3 : BitVec 5) : RoundTrip.Statement (.srl x1 x2 x3) := by
  intro _ _
  show decodeAny (encRR 1 x1 x2 x3 6#11) = .ok (.srl x1 x2 x3)
  simp only [decodeAny, decInt, legal, encRR_26_6, encRR_21_5, encRR_16_5, encRR_11_5, encRR_6_5, encRR_3_3, encRR_0_11, encRR_0_3,
    BitVec.reduceToNat, List.any_nil, List.any_cons, id_eq, Bool.false_eq_true, Bool.or_false, Bool.or_self, if_false, ne_eq, not_true_eq_false, decide_false,
    BitVec.reduceEq, not_false_eq_true, decide_true, BitVec.ofNat_eq_ofNat, reduceIte]
theorem RoundTrip.sra (x1 : BitVec 5) (x2 : BitVec 5) (x3 : BitVec 5) : RoundTrip.Statement (.sra x1 x2 x3) := by
  intro _ _
  show decodeAny (encRR 1 x1 x2 x3 7#11) = .ok (.sra x1 x2 x3)
  simp only [decodeAny, decInt, legal, encRR_26_6, encRR_21_5, encRR_16_5, encRR_11_5, encRR_6_5, encRR_3_3, encRR_0_11, encRR_0_3,
    BitVec.reduceToNat, List.any_nil, List.any_cons, id_eq, Bool.false_eq_true, Bool.or_false, Bool.or_self, if_false, ne_eq, not_true_eq_false, decide_false,
    BitVec.reduceEq, not_false_eq_true, decide_true, BitVec.ofNat_eq_ofNat, reduceIte]
theorem RoundTrip.slt (x1 : BitVec 5) (x2 : BitVec 5) (x3 : BitVec 5) : RoundTrip.Statement (.slt x1 x2 x3) := by
  intro _ _
  show decodeAny (encRR 1 x1 x2 x3 8#11) = .ok (.slt x1 x2 x3)
  simp only [decodeAny, decInt, legal, encRR_26_6, encRR_21_5, encRR_16_5, encRR_11_5, encRR_6_5, encRR_3_3, encRR_0_11, encRR_0_3,
    BitVec.reduceToNat, List.any_nil, List.any_cons, id_eq, Bool.false_eq_true, Bool.or_false, Bool.or_self, if_false, ne_eq, not_true_eq_false, decide_false,
    BitVec.reduceEq, not_false_eq_true, decide_true, BitVec.ofNat_eq_ofNat, reduceIte]
theorem RoundTrip.sltu (x1 : BitVec 5) (x2 : BitVec 5) (x3 : BitVec 5) : RoundTrip.Statement (.sltu x1 x2 x3) := by
  intro _ _
  show decodeAny (encRR 1 x1 x2 x3 9#11) = .ok (.sltu x1 x2 x3)
  simp only [decodeAny, decInt, legal, encRR_26_6, encRR_21_5, encRR_16_5, encRR_11_5, encRR_6_5, encRR_3_3, encRR_0_11, encRR_0_3,
    BitVec.reduceToNat, List.any_nil, List.any_cons, id_eq, Bool.false_eq_true, Bool.or_false, Bool.or_self, if_false, ne_eq, not_true_eq_false, decide_false,
    BitVec.reduceEq, not_false_eq_true, decide_true, BitVec.ofNat_eq_ofNat, reduceIte]
theorem RoundTrip.min (x1 : BitVec 5) (x2 : BitVec 5) (x3 : BitVec 5) : RoundTrip.Statement (.min x1 x2 x3) := by
  intro _ _
  show decodeAny (encRR 1 x1 x2 x3 10#11) = .ok (.min x1 x2 x3)
  simp only [decodeAny, decInt, legal, encRR_26_6, encRR_21_5, encRR_16_5, encRR_11_5, encRR_6_5, encRR_3_3, encRR_0_11, encRR_0_3,
    BitVec.reduceToNat, List.any_nil, List.any_cons, id_eq, Bool.false_eq_true, Bool.or_false, Bool.or_self, if_false, ne_eq, not_true_eq_false, decide_false,
    BitVec.reduceEq, not_false_eq_true, decide_true, BitVec.ofNat_eq_ofNat, reduceIte]
theorem RoundTrip.max (x1 : BitVec 5) (x2 : BitVec 5) (x3 : BitVec 5) : RoundTrip.Statement (.max x1 x2 x3) := by
  intro _ _
  show decodeAny (encRR 1 x1 x2 x3 11#11) = .ok (.max x1 x2 x3)
  simp only [decodeAny, decInt, legal, encRR_26_6, encRR_21_5, encRR_16_5, encRR_11_5, encRR_6_5, encRR_3_3, encRR_0_11, encRR_0_3,
    BitVec.reduceToNat, List.any_nil, List.any_cons, id_eq, Bool.false_eq_true, Bool.or_false, Bool.or_self, if_false, ne_eq, not_true_eq_false, decide_false,
    BitVec.reduceEq, not_false_eq_true, decide_true, BitVec.ofNat_eq_ofNat, reduceIte]
theorem RoundTrip.minu (x1 : BitVec 5) (x2 : BitVec 5) (x3 : BitVec 5) : RoundTrip.Statement (.minu x1 x2 x3) := by
  intro _ _
  show decodeAny (encRR 1 x1 x2 x3 12#11) = .ok (.minu x1 x2 x3)
  simp only [decodeAny, decInt, legal, encRR_26_6, encRR_21_5, encRR_16_5, encRR_11_5, encRR_6_5, encRR_3_3, encRR_0_11, encRR_0_3,
    BitVec.reduceToNat, List.any_nil, List.any_cons, id_eq, Bool.false_eq_true, Bool.or_false, Bool.or_self, if_false, ne_eq, not_true_eq_false, decide_false,
    BitVec.reduceEq, not_false_eq_true, decide_true, BitVec.ofNat_eq_ofNat, reduceIte]
theorem RoundTrip.maxu (x1 : BitVec 5) (x2 : BitVec 5) (x3 : BitVec 5) : RoundTrip.Statement (.maxu x1 x2 x3) := by
  intro _ _
  show decodeAny (encRR 1 x1 x2 x3 13#11) = .ok (.maxu x1 x2 x3)
  simp only [decodeAny, decInt, legal, encRR_26_6, encRR_21_5, encRR_16_5, encRR_11_5, encRR_6_5, encRR_3_3, encRR_0_11, encRR_0_3,
    BitVec.reduceToNat, List.any_nil, List.any_cons, id_eq, Bool.false_eq_true, Bool.or_false, Bool.or_self, if_false, ne_eq, not_true_eq_false, decide_false,
    BitVec.reduceEq, not_false_eq_true, decide_true, BitVec.ofNat_eq_ofNat, reduceIte]
theorem RoundTrip.clz (x1 : BitVec 5) (x2 : BitVec 5) : RoundTrip.Statement (.clz x1 x2) := by
  intro _ _
  show decodeAny (encRR 1 x1 x2 0#5 14#11) = .ok (.clz x1 x2)
  simp only [decodeAny, decInt, legal, encRR_26_6, encRR_21_5, encRR_16_5, encRR_11_5, encRR_6_5, encRR_3_3, encRR_0_11, encRR_0_3,
    BitVec.reduceToNat, List.any_nil, List.any_cons, id_eq, Bool.false_eq_true, Bool.or_false, Bool.or_self, if_false, ne_eq, not_true_eq_false, decide_false,
    BitVec.reduceEq, not_false_eq_true, decide_true, BitVec.ofNat_eq_ofNat, reduceIte]
theorem RoundTrip.ctz (x1 : BitVec 5) (x2 : BitVec 5) : RoundTrip.Statement (.ctz x1 x2) := by
  intro _ _
  show decodeAny (encRR 1 x1 x2 0#5 15#11) = .ok (.ctz x1 x2)
  simp only [decodeAny, decInt, legal, encRR_26_6, encRR_21_5, encRR_16_5, encRR_11_5, encRR_6_5, encRR_3_3, encRR_0_11, encRR_0_3,
    BitVec.reduceToNat, List.any_nil, List.any_cons, id_eq, Bool.false_eq_true, Bool.or_false, Bool.or_self, if_false, ne_eq, not_true_eq_false, decide_false,
    BitVec.reduceEq, not_false_eq_true, decide_true, BitVec.ofNat_eq_ofNat, reduceIte]
theorem RoundTrip.popc (x1 : BitVec 5) (x2 : BitVec 5) : RoundTrip.Statement (.popc x1 x2) := by
  intro _ _
  show decodeAny (encRR 1 x1 x2 0#5 16#11) = .ok (.popc x1 x2)
  simp only [decodeAny, decInt, legal, encRR_26_6, encRR_21_5, encRR_16_5, encRR_11_5, encRR_6_5, encRR_3_3, encRR_0_11, encRR_0_3,
    BitVec.reduceToNat, List.any_nil, List.any_cons, id_eq, Bool.false_eq_true, Bool.or_false, Bool.or_self, if_false, ne_eq, not_true_eq_false, decide_false,
    BitVec.reduceEq, not_false_eq_true, decide_true, BitVec.ofNat_eq_ofNat, reduceIte]
theorem RoundTrip.bext (x1 : BitVec 5) (x2 : BitVec 5) (x3 : BitVec 5) : RoundTrip.Statement (.bext x1 x2 x3) := by
  intro _ _
  show decodeAny (encRR 1 x1 x2 x3 17#11) = .ok (.bext x1 x2 x3)
  simp only [decodeAny, decInt, legal, encRR_26_6, encRR_21_5, encRR_16_5, encRR_11_5, encRR_6_5, encRR_3_3, encRR_0_11, encRR_0_3,
    BitVec.reduceToNat, List.any_nil, List.any_cons, id_eq, Bool.false_eq_true, Bool.or_false, Bool.or_self, if_false, ne_eq, not_true_eq_false, decide_false,
    BitVec.reduceEq, not_false_eq_true, decide_true, BitVec.ofNat_eq_ofNat, reduceIte]
theorem RoundTrip.bins (x1 : BitVec 5) (x2 : BitVec 5) (x3 : BitVec 5) : RoundTrip.Statement (.bins x1 x2 x3) := by
  intro _ _
  show decodeAny (encRR 1 x1 x2 x3 18#11) = .ok (.bins x1 x2 x3)
  simp only [decodeAny, decInt, legal, encRR_26_6, encRR_21_5, encRR_16_5, encRR_11_5, encRR_6_5, encRR_3_3, encRR_0_11, encRR_0_3,
    BitVec.reduceToNat, List.any_nil, List.any_cons, id_eq, Bool.false_eq_true, Bool.or_false, Bool.or_self, if_false, ne_eq, not_true_eq_false, decide_false,
    BitVec.reduceEq, not_false_eq_true, decide_true, BitVec.ofNat_eq_ofNat, reduceIte]
theorem RoundTrip.csel (x1 : BitVec 5) (x2 : BitVec 5) (x3 : BitVec 5) : RoundTrip.Statement (.csel x1 x2 x3) := by
  intro _ _
  show decodeAny (encRR 1 x1 x2 x3 19#11) = .ok (.csel x1 x2 x3)
  simp only [decodeAny, decInt, legal, encRR_26_6, encRR_21_5, encRR_16_5, encRR_11_5, encRR_6_5, encRR_3_3, encRR_0_11, encRR_0_3,
    BitVec.reduceToNat, List.any_nil, List.any_cons, id_eq, Bool.false_eq_true, Bool.or_false, Bool.or_self, if_false, ne_eq, not_true_eq_false, decide_false,
    BitVec.reduceEq, not_false_eq_true, decide_true, BitVec.ofNat_eq_ofNat, reduceIte]
theorem RoundTrip.addW (x1 : BitVec 5) (x2 : BitVec 5) (x3 : BitVec 5) : RoundTrip.Statement (.addW x1 x2 x3) := by
  intro _ _
  show decodeAny (encRR 1 x1 x2 x3 32#11) = .ok (.addW x1 x2 x3)
  simp only [decodeAny, decInt, legal, encRR_26_6, encRR_21_5, encRR_16_5, encRR_11_5, encRR_6_5, encRR_3_3, encRR_0_11, encRR_0_3,
    BitVec.reduceToNat, List.any_nil, List.any_cons, id_eq, Bool.false_eq_true, Bool.or_false, Bool.or_self, if_false, ne_eq, not_true_eq_false, decide_false,
    BitVec.reduceEq, not_false_eq_true, decide_true, BitVec.ofNat_eq_ofNat, reduceIte]
theorem RoundTrip.subW (x1 : BitVec 5) (x2 : BitVec 5) (x3 : BitVec 5) : RoundTrip.Statement (.subW x1 x2 x3) := by
  intro _ _
  show decodeAny (encRR 1 x1 x2 x3 33#11) = .ok (.subW x1 x2 x3)
  simp only [decodeAny, decInt, legal, encRR_26_6, encRR_21_5, encRR_16_5, encRR_11_5, encRR_6_5, encRR_3_3, encRR_0_11, encRR_0_3,
    BitVec.reduceToNat, List.any_nil, List.any_cons, id_eq, Bool.false_eq_true, Bool.or_false, Bool.or_self, if_false, ne_eq, not_true_eq_false, decide_false,
    BitVec.reduceEq, not_false_eq_true, decide_true, BitVec.ofNat_eq_ofNat, reduceIte]
theorem RoundTrip.sllW (x1 : BitVec 5) (x2 : BitVec 5) (x3 : BitVec 5) : RoundTrip.Statement (.sllW x1 x2 x3) := by
  intro _ _
  show decodeAny (encRR 1 x1 x2 x3 37#11) = .ok (.sllW x1 x2 x3)
  simp only [decodeAny, decInt, legal, encRR_26_6, encRR_21_5, encRR_16_5, encRR_11_5, encRR_6_5, encRR_3_3, encRR_0_11, encRR_0_3,
    BitVec.reduceToNat, List.any_nil, List.any_cons, id_eq, Bool.false_eq_true, Bool.or_false, Bool.or_self, if_false, ne_eq, not_true_eq_false, decide_false,
    BitVec.reduceEq, not_false_eq_true, decide_true, BitVec.ofNat_eq_ofNat, reduceIte]
theorem RoundTrip.srlW (x1 : BitVec 5) (x2 : BitVec 5) (x3 : BitVec 5) : RoundTrip.Statement (.srlW x1 x2 x3) := by
  intro _ _
  show decodeAny (encRR 1 x1 x2 x3 38#11) = .ok (.srlW x1 x2 x3)
  simp only [decodeAny, decInt, legal, encRR_26_6, encRR_21_5, encRR_16_5, encRR_11_5, encRR_6_5, encRR_3_3, encRR_0_11, encRR_0_3,
    BitVec.reduceToNat, List.any_nil, List.any_cons, id_eq, Bool.false_eq_true, Bool.or_false, Bool.or_self, if_false, ne_eq, not_true_eq_false, decide_false,
    BitVec.reduceEq, not_false_eq_true, decide_true, BitVec.ofNat_eq_ofNat, reduceIte]
theorem RoundTrip.sraW (x1 : BitVec 5) (x2 : BitVec 5) (x3 : BitVec 5) : RoundTrip.Statement (.sraW x1 x2 x3) := by
  intro _ _
  show decodeAny (encRR 1 x1 x2 x3 39#11) = .ok (.sraW x1 x2 x3)
  simp only [decodeAny, decInt, legal, encRR_26_6, encRR_21_5, encRR_16_5, encRR_11_5, encRR_6_5, encRR_3_3, encRR_0_11, encRR_0_3,
    BitVec.reduceToNat, List.any_nil, List.any_cons, id_eq, Bool.false_eq_true, Bool.or_false, Bool.or_self, if_false, ne_eq, not_true_eq_false, decide_false,
    BitVec.reduceEq, not_false_eq_true, decide_true, BitVec.ofNat_eq_ofNat, reduceIte]
theorem RoundTrip.mul (x1 : BitVec 5) (x2 : BitVec 5) (x3 : BitVec 5) : RoundTrip.Statement (.mul x1 x2 x3) := by
  intro _ _
  show decodeAny (encRR 2 x1 x2 x3 0#11) = .ok (.mul x1 x2 x3)
  simp only [decodeAny, decMulDiv, legal, encRR_26_6, encRR_21_5, encRR_16_5, encRR_11_5, encRR_6_5, encRR_3_3, encRR_0_11, encRR_0_3,
    BitVec.reduceToNat, List.any_nil, List.any_cons, id_eq, Bool.false_eq_true, Bool.or_false, Bool.or_self, if_false, ne_eq, not_true_eq_false, decide_false,
    BitVec.reduceEq, not_false_eq_true, decide_true, BitVec.ofNat_eq_ofNat, reduceIte]
theorem RoundTrip.mulh (x1 : BitVec 5) (x2 : BitVec 5) (x3 : BitVec 5) : RoundTrip.Statement (.mulh x1 x2 x3) := by
  intro _ _
  show decodeAny (encRR 2 x1 x2 x3 1#11) = .ok (.mulh x1 x2 x3)
  simp only [decodeAny, decMulDiv, legal, encRR_26_6, encRR_21_5, encRR_16_5, encRR_11_5, encRR_6_5, encRR_3_3, encRR_0_11, encRR_0_3,
    BitVec.reduceToNat, List.any_nil, List.any_cons, id_eq, Bool.false_eq_true, Bool.or_false, Bool.or_self, if_false, ne_eq, not_true_eq_false, decide_false,
    BitVec.reduceEq, not_false_eq_true, decide_true, BitVec.ofNat_eq_ofNat, reduceIte]
theorem RoundTrip.mulhu (x1 : BitVec 5) (x2 : BitVec 5) (x3 : BitVec 5) : RoundTrip.Statement (.mulhu x1 x2 x3) := by
  intro _ _
  show decodeAny (encRR 2 x1 x2 x3 2#11) = .ok (.mulhu x1 x2 x3)
  simp only [decodeAny, decMulDiv, legal, encRR_26_6, encRR_21_5, encRR_16_5, encRR_11_5, encRR_6_5, encRR_3_3, encRR_0_11, encRR_0_3,
    BitVec.reduceToNat, List.any_nil, List.any_cons, id_eq, Bool.false_eq_true, Bool.or_false, Bool.or_self, if_false, ne_eq, not_true_eq_false, decide_false,
    BitVec.reduceEq, not_false_eq_true, decide_true, BitVec.ofNat_eq_ofNat, reduceIte]
theorem RoundTrip.div (x1 : BitVec 5) (x2 : BitVec 5) (x3 : BitVec 5) : RoundTrip.Statement (.div x1 x2 x3) := by
  intro _ _
  show decodeAny (encRR 2 x1 x2 x3 3#11) = .ok (.div x1 x2 x3)
  simp only [decodeAny, decMulDiv, legal, encRR_26_6, encRR_21_5, encRR_16_5, encRR_11_5, encRR_6_5, encRR_3_3, encRR_0_11, encRR_0_3,
    BitVec.reduceToNat, List.any_nil, List.any_cons, id_eq, Bool.false_eq_true, Bool.or_false, Bool.or_self, if_false, ne_eq, not_true_eq_false, decide_false,
    BitVec.reduceEq, not_false_eq_true, decide_true, BitVec.ofNat_eq_ofNat, reduceIte]
theorem RoundTrip.divu (x1 : BitVec 5) (x2 : BitVec 5) (x3 : BitVec 5) : RoundTrip.Statement (.divu x1 x2 x3) := by
  intro _ _
  show decodeAny (encRR 2 x1 x2 x3 4#11) = .ok (.divu x1 x2 x3)
  simp only [decodeAny, decMulDiv, legal, encRR_26_6, encRR_21_5, encRR_16_5, encRR_11_5, encRR_6_5, encRR_3_3, encRR_0_11, encRR_0_3,
    BitVec.reduceToNat, List.any_nil, List.any_cons, id_eq, Bool.false_eq_true, Bool.or_false, Bool.or_self, if_false, ne_eq, not_true_eq_false, decide_false,
    BitVec.reduceEq, not_false_eq_true, decide_true, BitVec.ofNat_eq_ofNat, reduceIte]
theorem RoundTrip.rem (x1 : BitVec 5) (x2 : BitVec 5) (x3 : BitVec 5) : RoundTrip.Statement (.rem x1 x2 x3) := by
  intro _ _
  show decodeAny (encRR 2 x1 x2 x3 5#11) = .ok (.rem x1 x2 x3)
  simp only [decodeAny, decMulDiv, legal, encRR_26_6, encRR_21_5, encRR_16_5, encRR_11_5, encRR_6_5, encRR_3_3, encRR_0_11, encRR_0_3,
    BitVec.reduceToNat, List.any_nil, List.any_cons, id_eq, Bool.false_eq_true, Bool.or_false, Bool.or_self, if_false, ne_eq, not_true_eq_false, decide_false,
    BitVec.reduceEq, not_false_eq_true, decide_true, BitVec.ofNat_eq_ofNat, reduceIte]
theorem RoundTrip.remu (x1 : BitVec 5) (x2 : BitVec 5) (x3 : BitVec 5) : RoundTrip.Statement (.remu x1 x2 x3) := by
  intro _ _
  show decodeAny (encRR 2 x1 x2 x3 6#11) = .ok (.remu x1 x2 x3)
  simp only [decodeAny, decMulDiv, legal, encRR_26_6, encRR_21_5, encRR_16_5, encRR_11_5, encRR_6_5, encRR_3_3, encRR_0_11, encRR_0_3,
    BitVec.reduceToNat, List.any_nil, List.any_cons, id_eq, Bool.false_eq_true, Bool.or_false, Bool.or_self, if_false, ne_eq, not_true_eq_false, decide_false,
    BitVec.reduceEq, not_false_eq_true, decide_true, BitVec.ofNat_eq_ofNat, reduceIte]
theorem RoundTrip.mulW (x1 : BitVec 5) (x2 : BitVec 5) (x3 : BitVec 5) : RoundTrip.Statement (.mulW x1 x2 x3) := by
  intro _ _
  show decodeAny (encRR 2 x1 x2 x3 32#11) = .ok (.mulW x1 x2 x3)
  simp only [decodeAny, decMulDiv, legal, encRR_26_6, encRR_21_5, encRR_16_5, encRR_11_5, encRR_6_5, encRR_3_3, encRR_0_11, encRR_0_3,
    BitVec.reduceToNat, List.any_nil, List.any_cons, id_eq, Bool.false_eq_true, Bool.or_false, Bool.or_self, if_false, ne_eq, not_true_eq_false, decide_false,
    BitVec.reduceEq, not_false_eq_true, decide_true, BitVec.ofNat_eq_ofNat, reduceIte]
theorem RoundTrip.addi (x1 : BitVec 5) (x2 : BitVec 5) (x3 : BitVec 16) : RoundTrip.Statement (.addi x1 x2 x3) := by
  intro _ _
  show decodeAny (encRI 3 x1 x2 x3) = .ok (.addi x1 x2 x3)
  simp only [decodeAny, legal, encRI_26_6, encRI_21_5, encRI_16_5, encRI_14_2, encRI_6_8, encRI_0_16, encRI_0_6,
    BitVec.reduceToNat, List.any_nil, List.any_cons, id_eq, Bool.false_eq_true, Bool.or_false, Bool.or_self, if_false, ne_eq, not_true_eq_false, decide_false,
    BitVec.reduceEq, not_false_eq_true, decide_true, BitVec.ofNat_eq_ofNat, reduceIte]
theorem RoundTrip.andi (x1 : BitVec 5) (x2 : BitVec 5) (x3 : BitVec 16) : RoundTrip.Statement (.andi x1 x2 x3) := by
  intro _ _
  show decodeAny (encRI 4 x1 x2 x3) = .ok (.andi x1 x2 x3)
  simp only [decodeAny, legal, encRI_26_6, encRI_21_5, encRI_16_5, encRI_14_2, encRI_6_8, encRI_0_16, encRI_0_6,
    BitVec.reduceToNat, List.any_nil, List.any_cons, id_eq, Bool.false_eq_true, Bool.or_false, Bool.or_self, if_false, ne_eq, not_true_eq_false, decide_false,
    BitVec.reduceEq, not_false_eq_true, decide_true, BitVec.ofNat_eq_ofNat, reduceIte]
theorem RoundTrip.ori (x1 : BitVec 5) (x2 : BitVec 5) (x3 : BitVec 16) : RoundTrip.Statement (.ori x1 x2 x3) := by
  intro _ _
  show decodeAny (encRI 5 x1 x2 x3) = .ok (.ori x1 x2 x3)
  simp only [decodeAny, legal, encRI_26_6, encRI_21_5, encRI_16_5, encRI_14_2, encRI_6_8, encRI_0_16, encRI_0_6,
    BitVec.reduceToNat, List.any_nil, List.any_cons, id_eq, Bool.false_eq_true, Bool.or_false, Bool.or_self, if_false, ne_eq, not_true_eq_false, decide_false,
    BitVec.reduceEq, not_false_eq_true, decide_true, BitVec.ofNat_eq_ofNat, reduceIte]
theorem RoundTrip.xori (x1 : BitVec 5) (x2 : BitVec 5) (x3 : BitVec 16) : RoundTrip.Statement (.xori x1 x2 x3) := by
  intro _ _
  show decodeAny (encRI 6 x1 x2 x3) = .ok (.xori x1 x2 x3)
  simp only [decodeAny, legal, encRI_26_6, encRI_21_5, encRI_16_5, encRI_14_2, encRI_6_8, encRI_0_16, encRI_0_6,
    BitVec.reduceToNat, List.any_nil, List.any_cons, id_eq, Bool.false_eq_true, Bool.or_false, Bool.or_self, if_false, ne_eq, not_true_eq_false, decide_false,
    BitVec.reduceEq, not_false_eq_true, decide_true, BitVec.ofNat_eq_ofNat, reduceIte]
theorem RoundTrip.slli (x1 : BitVec 5) (x2 : BitVec 5) (x3 : BitVec 6) : RoundTrip.Statement (.slli x1 x2 x3) := by
  intro _ _
  show decodeAny (encRI 7 x1 x2 (0#10 ++ x3)) = .ok (.slli x1 x2 x3)
  simp (disch := omega) only [decodeAny, decShi, legal, encRI_26_6, encRI_21_5, encRI_16_5, encRI_14_2, encRI_6_8, encRI_0_16, encRI_0_6,
    BitVec.extractLsb'_append_eq_of_le, BitVec.extractLsb'_append_eq_of_add_le, Nat.reduceSub, BitVec.extractLsb'_eq_self,
    BitVec.reduceExtractLsb', Nat.sub_self, Nat.sub_zero, BitVec.reduceToNat, List.any_nil, List.any_cons, id_eq, Bool.false_eq_true, Bool.or_false, Bool.or_self, if_false, ne_eq, not_true_eq_false, decide_false,
    BitVec.reduceEq, not_false_eq_true, decide_true, BitVec.ofNat_eq_ofNat, reduceIte]
theorem RoundTrip.srli (x1 : BitVec 5) (x2 : BitVec 5) (x3 : BitVec 6) : RoundTrip.Statement (.srli x1 x2 x3) := by
  intro _ _
  show decodeAny (encRI 7 x1 x2 (256#10 ++ x3)) = .ok (.srli x1 x2 x3)
  simp (disch := omega) only [decodeAny, decShi, legal, encRI_26_6, encRI_21_5, encRI_16_5, encRI_14_2, encRI_6_8, encRI_0_16, encRI_0_6,
    BitVec.extractLsb'_append_eq_of_le, BitVec.extractLsb'_append_eq_of_add_le, Nat.reduceSub, BitVec.extractLsb'_eq_self,
    BitVec.reduceExtractLsb', Nat.sub_self, Nat.sub_zero, BitVec.reduceToNat, List.any_nil, List.any_cons, id_eq, Bool.false_eq_true, Bool.or_false, Bool.or_self, if_false, ne_eq, not_true_eq_false, decide_false,
    BitVec.reduceEq, not_false_eq_true, decide_true, BitVec.ofNat_eq_ofNat, reduceIte]
theorem RoundTrip.srai (x1 : BitVec 5) (x2 : BitVec 5) (x3 : BitVec 6) : RoundTrip.Statement (.srai x1 x2 x3) := by
  intro _ _
  show decodeAny (encRI 7 x1 x2 (512#10 ++ x3)) = .ok (.srai x1 x2 x3)
  simp (disch := omega) only [decodeAny, decShi, legal, encRI_26_6, encRI_21_5, encRI_16_5, encRI_14_2, encRI_6_8, encRI_0_16, encRI_0_6,
    BitVec.extractLsb'_append_eq_of_le, BitVec.extractLsb'_append_eq_of_add_le, Nat.reduceSub, BitVec.extractLsb'_eq_self,
    BitVec.reduceExtractLsb', Nat.sub_self, Nat.sub_zero, BitVec.reduceToNat, List.any_nil, List.any_cons, id_eq, Bool.false_eq_true, Bool.or_false, Bool.or_self, if_false, ne_eq, not_true_eq_false, decide_false,
    BitVec.reduceEq, not_false_eq_true, decide_true, BitVec.ofNat_eq_ofNat, reduceIte]
theorem RoundTrip.lui (x1 : BitVec 5) (x2 : BitVec 21) : RoundTrip.Statement (.lui x1 x2) := by
  intro _ _
  show decodeAny (encRL 8 x1 x2) = .ok (.lui x1 x2)
  simp only [decodeAny, legal, encRL_26_6, encRL_21_5, encRL_0_21,
    BitVec.reduceToNat, List.any_nil, List.any_cons, id_eq, Bool.false_eq_true, Bool.or_false, Bool.or_self, if_false, ne_eq, not_true_eq_false, decide_false,
    BitVec.reduceEq, not_false_eq_true, decide_true, BitVec.ofNat_eq_ofNat, reduceIte]
theorem RoundTrip.addpc (x1 : BitVec 5) (x2 : BitVec 21) : RoundTrip.Statement (.addpc x1 x2) := by
  intro _ _
  show decodeAny (encRL 9 x1 x2) = .ok (.addpc x1 x2)
  simp only [decodeAny, legal, encRL_26_6, encRL_21_5, encRL_0_21,
    BitVec.reduceToNat, List.any_nil, List.any_cons, id_eq, Bool.false_eq_true, Bool.or_false, Bool.or_self, if_false, ne_eq, not_true_eq_false, decide_false,
    BitVec.reduceEq, not_false_eq_true, decide_true, BitVec.ofNat_eq_ofNat, reduceIte]
theorem RoundTrip.slti (x1 : BitVec 5) (x2 : BitVec 5) (x3 : BitVec 16) : RoundTrip.Statement (.slti x1 x2 x3) := by
  intro _ _
  show decodeAny (encRI 10 x1 x2 x3) = .ok (.slti x1 x2 x3)
  simp only [decodeAny, legal, encRI_26_6, encRI_21_5, encRI_16_5, encRI_14_2, encRI_6_8, encRI_0_16, encRI_0_6,
    BitVec.reduceToNat, List.any_nil, List.any_cons, id_eq, Bool.false_eq_true, Bool.or_false, Bool.or_self, if_false, ne_eq, not_true_eq_false, decide_false,
    BitVec.reduceEq, not_false_eq_true, decide_true, BitVec.ofNat_eq_ofNat, reduceIte]
theorem RoundTrip.bEq (x1 : BitVec 5) (x2 : BitVec 5) (x3 : BitVec 12) : RoundTrip.Statement (.bEq x1 x2 x3) := by
  intro _ _
  show decodeAny (encRB 11 0#4 x1 x2 x3) = .ok (.bEq x1 x2 x3)
  simp only [decodeAny, decBranch, legal, encRB_26_6, encRB_22_4, encRB_17_5, encRB_12_5, encRB_0_12,
    BitVec.reduceToNat, List.any_nil, List.any_cons, id_eq, Bool.false_eq_true, Bool.or_false, Bool.or_self, if_false, ne_eq, not_true_eq_false, decide_false,
    BitVec.reduceEq, not_false_eq_true, decide_true, BitVec.ofNat_eq_ofNat, reduceIte]
theorem RoundTrip.bNe (x1 : BitVec 5) (x2 : BitVec 5) (x3 : BitVec 12) : RoundTrip.Statement (.bNe x1 x2 x3) := by
  intro _ _
  show decodeAny (encRB 11 1#4 x1 x2 x3) = .ok (.bNe x1 x2 x3)
  simp only [decodeAny, decBranch, legal, encRB_26_6, encRB_22_4, encRB_17_5, encRB_12_5, encRB_0_12,
    BitVec.reduceToNat, List.any_nil, List.any_cons, id_eq, Bool.false_eq_true, Bool.or_false, Bool.or_self, if_false, ne_eq, not_true_eq_false, decide_false,
    BitVec.reduceEq, not_false_eq_true, decide_true, BitVec.ofNat_eq_ofNat, reduceIte]
theorem RoundTrip.bLt (x1 : BitVec 5) (x2 : BitVec 5) (x3 : BitVec 12) : RoundTrip.Statement (.bLt x1 x2 x3) := by
  intro _ _
  show decodeAny (encRB 11 2#4 x1 x2 x3) = .ok (.bLt x1 x2 x3)
  simp only [decodeAny, decBranch, legal, encRB_26_6, encRB_22_4, encRB_17_5, encRB_12_5, encRB_0_12,
    BitVec.reduceToNat, List.any_nil, List.any_cons, id_eq, Bool.false_eq_true, Bool.or_false, Bool.or_self, if_false, ne_eq, not_true_eq_false, decide_false,
    BitVec.reduceEq, not_false_eq_true, decide_true, BitVec.ofNat_eq_ofNat, reduceIte]
theorem RoundTrip.bGe (x1 : BitVec 5) (x2 : BitVec 5) (x3 : BitVec 12) : RoundTrip.Statement (.bGe x1 x2 x3) := by
  intro _ _
  show decodeAny (encRB 11 3#4 x1 x2 x3) = .ok (.bGe x1 x2 x3)
  simp only [decodeAny, decBranch, legal, encRB_26_6, encRB_22_4, encRB_17_5, encRB_12_5, encRB_0_12,
    BitVec.reduceToNat, List.any_nil, List.any_cons, id_eq, Bool.false_eq_true, Bool.or_false, Bool.or_self, if_false, ne_eq, not_true_eq_false, decide_false,
    BitVec.reduceEq, not_false_eq_true, decide_true, BitVec.ofNat_eq_ofNat, reduceIte]
theorem RoundTrip.bLtu (x1 : BitVec 5) (x2 : BitVec 5) (x3 : BitVec 12) : RoundTrip.Statement (.bLtu x1 x2 x3) := by
  intro _ _
  show decodeAny (encRB 11 4#4 x1 x2 x3) = .ok (.bLtu x1 x2 x3)
  simp only [decodeAny, decBranch, legal, encRB_26_6, encRB_22_4, encRB_17_5, encRB_12_5, encRB_0_12,
    BitVec.reduceToNat, List.any_nil, List.any_cons, id_eq, Bool.false_eq_true, Bool.or_false, Bool.or_self, if_false, ne_eq, not_true_eq_false, decide_false,
    BitVec.reduceEq, not_false_eq_true, decide_true, BitVec.ofNat_eq_ofNat, reduceIte]
theorem RoundTrip.bGeu (x1 : BitVec 5) (x2 : BitVec 5) (x3 : BitVec 12) : RoundTrip.Statement (.bGeu x1 x2 x3) := by
  intro _ _
  show decodeAny (encRB 11 5#4 x1 x2 x3) = .ok (.bGeu x1 x2 x3)
  simp only [decodeAny, decBranch, legal, encRB_26_6, encRB_22_4, encRB_17_5, encRB_12_5, encRB_0_12,
    BitVec.reduceToNat, List.any_nil, List.any_cons, id_eq, Bool.false_eq_true, Bool.or_false, Bool.or_self, if_false, ne_eq, not_true_eq_false, decide_false,
    BitVec.reduceEq, not_false_eq_true, decide_true, BitVec.ofNat_eq_ofNat, reduceIte]
theorem RoundTrip.bVs (x1 : BitVec 12) : RoundTrip.Statement (.bVs x1) := by
  intro _ _
  show decodeAny (encRB 11 6#4 0#5 0#5 x1) = .ok (.bVs x1)
  simp only [decodeAny, decBranch, legal, encRB_26_6, encRB_22_4, encRB_17_5, encRB_12_5, encRB_0_12,
    BitVec.reduceToNat, List.any_nil, List.any_cons, id_eq, Bool.false_eq_true, Bool.or_false, Bool.or_self, if_false, ne_eq, not_true_eq_false, decide_false,
    BitVec.reduceEq, not_false_eq_true, decide_true, BitVec.ofNat_eq_ofNat, reduceIte]
theorem RoundTrip.bVc (x1 : BitVec 12) : RoundTrip.Statement (.bVc x1) := by
  intro _ _
  show decodeAny (encRB 11 7#4 0#5 0#5 x1) = .ok (.bVc x1)
  simp only [decodeAny, decBranch, legal, encRB_26_6, encRB_22_4, encRB_17_5, encRB_12_5, encRB_0_12,
    BitVec.reduceToNat, List.any_nil, List.any_cons, id_eq, Bool.false_eq_true, Bool.or_false, Bool.or_self, if_false, ne_eq, not_true_eq_false, decide_false,
    BitVec.reduceEq, not_false_eq_true, decide_true, BitVec.ofNat_eq_ofNat, reduceIte]
theorem RoundTrip.j (x1 : BitVec 25) : RoundTrip.Statement (.j x1) := by
  intro _ _
  show decodeAny (encJ 12 0#1 x1) = .ok (.j x1)
  simp only [decodeAny, decJump, legal, encJ_26_6, encJ_25_1, encJ_0_25,
    BitVec.reduceToNat, List.any_nil, List.any_cons, id_eq, Bool.false_eq_true, Bool.or_false, Bool.or_self, if_false, ne_eq, not_true_eq_false, decide_false,
    BitVec.reduceEq, not_false_eq_true, decide_true, BitVec.ofNat_eq_ofNat, reduceIte]
theorem RoundTrip.jal (x1 : BitVec 25) : RoundTrip.Statement (.jal x1) := by
  intro _ _
  show decodeAny (encJ 12 1#1 x1) = .ok (.jal x1)
  simp only [decodeAny, decJump, legal, encJ_26_6, encJ_25_1, encJ_0_25,
    BitVec.reduceToNat, List.any_nil, List.any_cons, id_eq, Bool.false_eq_true, Bool.or_false, Bool.or_self, if_false, ne_eq, not_true_eq_false, decide_false,
    BitVec.reduceEq, not_false_eq_true, decide_true, BitVec.ofNat_eq_ofNat, reduceIte]
theorem RoundTrip.jalr (x1 : BitVec 5) (x2 : BitVec 5) (x3 : BitVec 16) : RoundTrip.Statement (.jalr x1 x2 x3) := by
  intro _ _
  show decodeAny (encRI 13 x1 x2 x3) = .ok (.jalr x1 x2 x3)
  simp only [decodeAny, legal, encRI_26_6, encRI_21_5, encRI_16_5, encRI_14_2, encRI_6_8, encRI_0_16, encRI_0_6,
    BitVec.reduceToNat, List.any_nil, List.any_cons, id_eq, Bool.false_eq_true, Bool.or_false, Bool.or_self, if_false, ne_eq, not_true_eq_false, decide_false,
    BitVec.reduceEq, not_false_eq_true, decide_true, BitVec.ofNat_eq_ofNat, reduceIte]
theorem RoundTrip.fadd (x1 : BitVec 5) (x2 : BitVec 5) (x3 : BitVec 5) : RoundTrip.Statement (.fadd x1 x2 x3) := by
  intro _ _
  show decodeAny (encRR 14 x1 x2 x3 0#11) = .ok (.fadd x1 x2 x3)
  simp (disch := omega) only [decodeAny, decFp, legal, encRR_26_6, encRR_21_5, encRR_16_5, encRR_11_5, encRR_6_5, encRR_3_3, encRR_0_11, encRR_0_3,
    BitVec.extractLsb'_append_eq_of_le, BitVec.extractLsb'_append_eq_of_add_le, Nat.reduceSub, BitVec.extractLsb'_eq_self,
    BitVec.reduceExtractLsb', Nat.sub_self, Nat.sub_zero, BitVec.reduceToNat, List.any_nil, List.any_cons, id_eq, Bool.false_eq_true, Bool.or_false, Bool.or_self, if_false, ne_eq, not_true_eq_false, decide_false,
    BitVec.reduceEq, not_false_eq_true, decide_true, BitVec.ofNat_eq_ofNat, reduceIte]
theorem RoundTrip.fsub (x1 : BitVec 5) (x2 : BitVec 5) (x3 : BitVec 5) : RoundTrip.Statement (.fsub x1 x2 x3) := by
  intro _ _
  show decodeAny (encRR 14 x1 x2 x3 1#11) = .ok (.fsub x1 x2 x3)
  simp (disch := omega) only [decodeAny, decFp, legal, encRR_26_6, encRR_21_5, encRR_16_5, encRR_11_5, encRR_6_5, encRR_3_3, encRR_0_11, encRR_0_3,
    BitVec.extractLsb'_append_eq_of_le, BitVec.extractLsb'_append_eq_of_add_le, Nat.reduceSub, BitVec.extractLsb'_eq_self,
    BitVec.reduceExtractLsb', Nat.sub_self, Nat.sub_zero, BitVec.reduceToNat, List.any_nil, List.any_cons, id_eq, Bool.false_eq_true, Bool.or_false, Bool.or_self, if_false, ne_eq, not_true_eq_false, decide_false,
    BitVec.reduceEq, not_false_eq_true, decide_true, BitVec.ofNat_eq_ofNat, reduceIte]
theorem RoundTrip.fmul (x1 : BitVec 5) (x2 : BitVec 5) (x3 : BitVec 5) : RoundTrip.Statement (.fmul x1 x2 x3) := by
  intro _ _
  show decodeAny (encRR 14 x1 x2 x3 2#11) = .ok (.fmul x1 x2 x3)
  simp (disch := omega) only [decodeAny, decFp, legal, encRR_26_6, encRR_21_5, encRR_16_5, encRR_11_5, encRR_6_5, encRR_3_3, encRR_0_11, encRR_0_3,
    BitVec.extractLsb'_append_eq_of_le, BitVec.extractLsb'_append_eq_of_add_le, Nat.reduceSub, BitVec.extractLsb'_eq_self,
    BitVec.reduceExtractLsb', Nat.sub_self, Nat.sub_zero, BitVec.reduceToNat, List.any_nil, List.any_cons, id_eq, Bool.false_eq_true, Bool.or_false, Bool.or_self, if_false, ne_eq, not_true_eq_false, decide_false,
    BitVec.reduceEq, not_false_eq_true, decide_true, BitVec.ofNat_eq_ofNat, reduceIte]
theorem RoundTrip.fdiv (x1 : BitVec 5) (x2 : BitVec 5) (x3 : BitVec 5) : RoundTrip.Statement (.fdiv x1 x2 x3) := by
  intro _ _
  show decodeAny (encRR 14 x1 x2 x3 3#11) = .ok (.fdiv x1 x2 x3)
  simp (disch := omega) only [decodeAny, decFp, legal, encRR_26_6, encRR_21_5, encRR_16_5, encRR_11_5, encRR_6_5, encRR_3_3, encRR_0_11, encRR_0_3,
    BitVec.extractLsb'_append_eq_of_le, BitVec.extractLsb'_append_eq_of_add_le, Nat.reduceSub, BitVec.extractLsb'_eq_self,
    BitVec.reduceExtractLsb', Nat.sub_self, Nat.sub_zero, BitVec.reduceToNat, List.any_nil, List.any_cons, id_eq, Bool.false_eq_true, Bool.or_false, Bool.or_self, if_false, ne_eq, not_true_eq_false, decide_false,
    BitVec.reduceEq, not_false_eq_true, decide_true, BitVec.ofNat_eq_ofNat, reduceIte]
theorem RoundTrip.fsqrt (x1 : BitVec 5) (x2 : BitVec 5) : RoundTrip.Statement (.fsqrt x1 x2) := by
  intro _ _
  show decodeAny (encRR 14 x1 x2 0#5 4#11) = .ok (.fsqrt x1 x2)
  simp (disch := omega) only [decodeAny, decFp, legal, encRR_26_6, encRR_21_5, encRR_16_5, encRR_11_5, encRR_6_5, encRR_3_3, encRR_0_11, encRR_0_3,
    BitVec.extractLsb'_append_eq_of_le, BitVec.extractLsb'_append_eq_of_add_le, Nat.reduceSub, BitVec.extractLsb'_eq_self,
    BitVec.reduceExtractLsb', Nat.sub_self, Nat.sub_zero, BitVec.reduceToNat, List.any_nil, List.any_cons, id_eq, Bool.false_eq_true, Bool.or_false, Bool.or_self, if_false, ne_eq, not_true_eq_false, decide_false,
    BitVec.reduceEq, not_false_eq_true, decide_true, BitVec.ofNat_eq_ofNat, reduceIte]
theorem RoundTrip.fmin (x1 : BitVec 5) (x2 : BitVec 5) (x3 : BitVec 5) : RoundTrip.Statement (.fmin x1 x2 x3) := by
  intro _ _
  show decodeAny (encRR 14 x1 x2 x3 5#11) = .ok (.fmin x1 x2 x3)
  simp (disch := omega) only [decodeAny, decFp, legal, encRR_26_6, encRR_21_5, encRR_16_5, encRR_11_5, encRR_6_5, encRR_3_3, encRR_0_11, encRR_0_3,
    BitVec.extractLsb'_append_eq_of_le, BitVec.extractLsb'_append_eq_of_add_le, Nat.reduceSub, BitVec.extractLsb'_eq_self,
    BitVec.reduceExtractLsb', Nat.sub_self, Nat.sub_zero, BitVec.reduceToNat, List.any_nil, List.any_cons, id_eq, Bool.false_eq_true, Bool.or_false, Bool.or_self, if_false, ne_eq, not_true_eq_false, decide_false,
    BitVec.reduceEq, not_false_eq_true, decide_true, BitVec.ofNat_eq_ofNat, reduceIte]
theorem RoundTrip.fmax (x1 : BitVec 5) (x2 : BitVec 5) (x3 : BitVec 5) : RoundTrip.Statement (.fmax x1 x2 x3) := by
  intro _ _
  show decodeAny (encRR 14 x1 x2 x3 6#11) = .ok (.fmax x1 x2 x3)
  simp (disch := omega) only [decodeAny, decFp, legal, encRR_26_6, encRR_21_5, encRR_16_5, encRR_11_5, encRR_6_5, encRR_3_3, encRR_0_11, encRR_0_3,
    BitVec.extractLsb'_append_eq_of_le, BitVec.extractLsb'_append_eq_of_add_le, Nat.reduceSub, BitVec.extractLsb'_eq_self,
    BitVec.reduceExtractLsb', Nat.sub_self, Nat.sub_zero, BitVec.reduceToNat, List.any_nil, List.any_cons, id_eq, Bool.false_eq_true, Bool.or_false, Bool.or_self, if_false, ne_eq, not_true_eq_false, decide_false,
    BitVec.reduceEq, not_false_eq_true, decide_true, BitVec.ofNat_eq_ofNat, reduceIte]
theorem RoundTrip.feq (x1 : BitVec 5) (x2 : BitVec 5) (x3 : BitVec 5) : RoundTrip.Statement (.feq x1 x2 x3) := by
  intro _ _
  show decodeAny (encRR 14 x1 x2 x3 7#11) = .ok (.feq x1 x2 x3)
  simp (disch := omega) only [decodeAny, decFp, legal, encRR_26_6, encRR_21_5, encRR_16_5, encRR_11_5, encRR_6_5, encRR_3_3, encRR_0_11, encRR_0_3,
    BitVec.extractLsb'_append_eq_of_le, BitVec.extractLsb'_append_eq_of_add_le, Nat.reduceSub, BitVec.extractLsb'_eq_self,
    BitVec.reduceExtractLsb', Nat.sub_self, Nat.sub_zero, BitVec.reduceToNat, List.any_nil, List.any_cons, id_eq, Bool.false_eq_true, Bool.or_false, Bool.or_self, if_false, ne_eq, not_true_eq_false, decide_false,
    BitVec.reduceEq, not_false_eq_true, decide_true, BitVec.ofNat_eq_ofNat, reduceIte]
theorem RoundTrip.flt (x1 : BitVec 5) (x2 : BitVec 5) (x3 : BitVec 5) : RoundTrip.Statement (.flt x1 x2 x3) := by
  intro _ _
  show decodeAny (encRR 14 x1 x2 x3 8#11) = .ok (.flt x1 x2 x3)
  simp (disch := omega) only [decodeAny, decFp, legal, encRR_26_6, encRR_21_5, encRR_16_5, encRR_11_5, encRR_6_5, encRR_3_3, encRR_0_11, encRR_0_3,
    BitVec.extractLsb'_append_eq_of_le, BitVec.extractLsb'_append_eq_of_add_le, Nat.reduceSub, BitVec.extractLsb'_eq_self,
    BitVec.reduceExtractLsb', Nat.sub_self, Nat.sub_zero, BitVec.reduceToNat, List.any_nil, List.any_cons, id_eq, Bool.false_eq_true, Bool.or_false, Bool.or_self, if_false, ne_eq, not_true_eq_false, decide_false,
    BitVec.reduceEq, not_false_eq_true, decide_true, BitVec.ofNat_eq_ofNat, reduceIte]
theorem RoundTrip.fle (x1 : BitVec 5) (x2 : BitVec 5) (x3 : BitVec 5) : RoundTrip.Statement (.fle x1 x2 x3) := by
  intro _ _
  show decodeAny (encRR 14 x1 x2 x3 9#11) = .ok (.fle x1 x2 x3)
  simp (disch := omega) only [decodeAny, decFp, legal, encRR_26_6, encRR_21_5, encRR_16_5, encRR_11_5, encRR_6_5, encRR_3_3, encRR_0_11, encRR_0_3,
    BitVec.extractLsb'_append_eq_of_le, BitVec.extractLsb'_append_eq_of_add_le, Nat.reduceSub, BitVec.extractLsb'_eq_self,
    BitVec.reduceExtractLsb', Nat.sub_self, Nat.sub_zero, BitVec.reduceToNat, List.any_nil, List.any_cons, id_eq, Bool.false_eq_true, Bool.or_false, Bool.or_self, if_false, ne_eq, not_true_eq_false, decide_false,
    BitVec.reduceEq, not_false_eq_true, decide_true, BitVec.ofNat_eq_ofNat, reduceIte]
theorem RoundTrip.fclass (x1 : BitVec 5) (x2 : BitVec 5) : RoundTrip.Statement (.fclass x1 x2) := by
  intro _ _
  show decodeAny (encRR 14 x1 x2 0#5 10#11) = .ok (.fclass x1 x2)
  simp (disch := omega) only [decodeAny, decFp, legal, encRR_26_6, encRR_21_5, encRR_16_5, encRR_11_5, encRR_6_5, encRR_3_3, encRR_0_11, encRR_0_3,
    BitVec.extractLsb'_append_eq_of_le, BitVec.extractLsb'_append_eq_of_add_le, Nat.reduceSub, BitVec.extractLsb'_eq_self,
    BitVec.reduceExtractLsb', Nat.sub_self, Nat.sub_zero, BitVec.reduceToNat, List.any_nil, List.any_cons, id_eq, Bool.false_eq_true, Bool.or_false, Bool.or_self, if_false, ne_eq, not_true_eq_false, decide_false,
    BitVec.reduceEq, not_false_eq_true, decide_true, BitVec.ofNat_eq_ofNat, reduceIte]
theorem RoundTrip.fexp2 (x1 : BitVec 5) (x2 : BitVec 5) : RoundTrip.Statement (.fexp2 x1 x2) := by
  intro _ _
  show decodeAny (encRR 14 x1 x2 0#5 11#11) = .ok (.fexp2 x1 x2)
  simp (disch := omega) only [decodeAny, decFp, legal, encRR_26_6, encRR_21_5, encRR_16_5, encRR_11_5, encRR_6_5, encRR_3_3, encRR_0_11, encRR_0_3,
    BitVec.extractLsb'_append_eq_of_le, BitVec.extractLsb'_append_eq_of_add_le, Nat.reduceSub, BitVec.extractLsb'_eq_self,
    BitVec.reduceExtractLsb', Nat.sub_self, Nat.sub_zero, BitVec.reduceToNat, List.any_nil, List.any_cons, id_eq, Bool.false_eq_true, Bool.or_false, Bool.or_self, if_false, ne_eq, not_true_eq_false, decide_false,
    BitVec.reduceEq, not_false_eq_true, decide_true, BitVec.ofNat_eq_ofNat, reduceIte]
theorem RoundTrip.frcp (x1 : BitVec 5) (x2 : BitVec 5) : RoundTrip.Statement (.frcp x1 x2) := by
  intro _ _
  show decodeAny (encRR 14 x1 x2 0#5 12#11) = .ok (.frcp x1 x2)
  simp (disch := omega) only [decodeAny, decFp, legal, encRR_26_6, encRR_21_5, encRR_16_5, encRR_11_5, encRR_6_5, encRR_3_3, encRR_0_11, encRR_0_3,
    BitVec.extractLsb'_append_eq_of_le, BitVec.extractLsb'_append_eq_of_add_le, Nat.reduceSub, BitVec.extractLsb'_eq_self,
    BitVec.reduceExtractLsb', Nat.sub_self, Nat.sub_zero, BitVec.reduceToNat, List.any_nil, List.any_cons, id_eq, Bool.false_eq_true, Bool.or_false, Bool.or_self, if_false, ne_eq, not_true_eq_false, decide_false,
    BitVec.reduceEq, not_false_eq_true, decide_true, BitVec.ofNat_eq_ofNat, reduceIte]
theorem RoundTrip.fcvt (x1 : BitVec 5) (x2 : BitVec 5) (x3 : BitVec 3) (x4 : BitVec 3) : RoundTrip.Statement (.fcvt x1 x2 x3 x4) := by
  intro _ h
  simp only [Instr.wf, scopeOk, orderOk, levelOk, widthOk, formatOk, bitsOk, windowOk, fieldOk, Bool.and_eq_true,
    Bool.or_eq_true, Bool.not_eq_true', decide_eq_true_eq, decide_eq_false_iff_not] at h
  show decodeAny (encRR 14 x1 x2 0#5 (1#5 ++ x3 ++ x4)) = .ok (.fcvt x1 x2 x3 x4)
  simp (disch := omega) only [decodeAny, decFp, legal, encRR_26_6, encRR_21_5, encRR_16_5, encRR_11_5, encRR_6_5, encRR_3_3, encRR_0_11, encRR_0_3,
    BitVec.extractLsb'_append_eq_of_le, BitVec.extractLsb'_append_eq_of_add_le, Nat.reduceSub, BitVec.extractLsb'_eq_self,
    BitVec.reduceExtractLsb', Nat.sub_self, Nat.sub_zero, BitVec.reduceToNat, List.any_nil, List.any_cons, id_eq, Bool.false_eq_true, Bool.or_false, Bool.or_self, if_false, ne_eq, not_true_eq_false, decide_false,
    BitVec.reduceEq, not_false_eq_true, decide_true, BitVec.ofNat_eq_ofNat, reduceIte]
  simp_all
theorem RoundTrip.ffma (x1 : BitVec 5) (x2 : BitVec 5) (x3 : BitVec 5) (x4 : BitVec 5) : RoundTrip.Statement (.ffma x1 x2 x3 x4) := by
  intro _ _
  show decodeAny (encRF 15 x1 x2 x3 x4 0#6) = .ok (.ffma x1 x2 x3 x4)
  simp only [decodeAny, decFfma, legal, encRF_26_6, encRF_21_5, encRF_16_5, encRF_11_5, encRF_6_5, encRF_0_6,
    BitVec.reduceToNat, List.any_nil, List.any_cons, id_eq, Bool.false_eq_true, Bool.or_false, Bool.or_self, if_false, ne_eq, not_true_eq_false, decide_false,
    BitVec.reduceEq, not_false_eq_true, decide_true, BitVec.ofNat_eq_ofNat, reduceIte]
theorem RoundTrip.ffms (x1 : BitVec 5) (x2 : BitVec 5) (x3 : BitVec 5) (x4 : BitVec 5) : RoundTrip.Statement (.ffms x1 x2 x3 x4) := by
  intro _ _
  show decodeAny (encRF 15 x1 x2 x3 x4 1#6) = .ok (.ffms x1 x2 x3 x4)
  simp only [decodeAny, decFfma, legal, encRF_26_6, encRF_21_5, encRF_16_5, encRF_11_5, encRF_6_5, encRF_0_6,
    BitVec.reduceToNat, List.any_nil, List.any_cons, id_eq, Bool.false_eq_true, Bool.or_false, Bool.or_self, if_false, ne_eq, not_true_eq_false, decide_false,
    BitVec.reduceEq, not_false_eq_true, decide_true, BitVec.ofNat_eq_ofNat, reduceIte]
theorem RoundTrip.fnma (x1 : BitVec 5) (x2 : BitVec 5) (x3 : BitVec 5) (x4 : BitVec 5) : RoundTrip.Statement (.fnma x1 x2 x3 x4) := by
  intro _ _
  show decodeAny (encRF 15 x1 x2 x3 x4 2#6) = .ok (.fnma x1 x2 x3 x4)
  simp only [decodeAny, decFfma, legal, encRF_26_6, encRF_21_5, encRF_16_5, encRF_11_5, encRF_6_5, encRF_0_6,
    BitVec.reduceToNat, List.any_nil, List.any_cons, id_eq, Bool.false_eq_true, Bool.or_false, Bool.or_self, if_false, ne_eq, not_true_eq_false, decide_false,
    BitVec.reduceEq, not_false_eq_true, decide_true, BitVec.ofNat_eq_ofNat, reduceIte]
theorem RoundTrip.ld (x1 : BitVec 5) (x2 : BitVec 5) (x3 : BitVec 9) (x4 : BitVec 3) (x5 : BitVec 2) (x6 : BitVec 1) (x7 : BitVec 1) : RoundTrip.Statement (.ld x1 x2 x3 x4 x5 x6 x7) := by
  intro _ h
  simp only [Instr.wf, scopeOk, orderOk, levelOk, widthOk, formatOk, bitsOk, windowOk, fieldOk, Bool.and_eq_true,
    Bool.or_eq_true, Bool.not_eq_true', decide_eq_true_eq, decide_eq_false_iff_not] at h
  show decodeAny (encRM 16 x1 x2 x3 x4 x5 (x6 ++ x7)) = .ok (.ld x1 x2 x3 x4 x5 x6 x7)
  simp (disch := omega) only [decodeAny, legal, encRM_26_6, encRM_21_5, encRM_16_5, encRM_7_9, encRM_4_3, encRM_2_2, encRM_1_1, encRM_0_2, encRM_0_1,
    BitVec.extractLsb'_append_eq_of_le, BitVec.extractLsb'_append_eq_of_add_le, Nat.reduceSub, BitVec.extractLsb'_eq_self,
    BitVec.reduceExtractLsb', Nat.sub_self, Nat.sub_zero, BitVec.reduceToNat, List.any_nil, List.any_cons, id_eq, Bool.false_eq_true, Bool.or_false, Bool.or_self, if_false, ne_eq, not_true_eq_false, decide_false,
    BitVec.reduceEq, not_false_eq_true, decide_true, BitVec.ofNat_eq_ofNat, reduceIte]
  simp_all
theorem RoundTrip.st (x1 : BitVec 5) (x2 : BitVec 5) (x3 : BitVec 9) (x4 : BitVec 3) (x5 : BitVec 2) (x6 : BitVec 1) : RoundTrip.Statement (.st x1 x2 x3 x4 x5 x6) := by
  intro _ h
  simp only [Instr.wf, scopeOk, orderOk, levelOk, widthOk, formatOk, bitsOk, windowOk, fieldOk, Bool.and_eq_true,
    Bool.or_eq_true, Bool.not_eq_true', decide_eq_true_eq, decide_eq_false_iff_not] at h
  show decodeAny (encRM 17 x1 x2 x3 x4 x5 (0#1 ++ x6)) = .ok (.st x1 x2 x3 x4 x5 x6)
  simp (disch := omega) only [decodeAny, legal, encRM_26_6, encRM_21_5, encRM_16_5, encRM_7_9, encRM_4_3, encRM_2_2, encRM_1_1, encRM_0_2, encRM_0_1,
    BitVec.extractLsb'_append_eq_of_le, BitVec.extractLsb'_append_eq_of_add_le, Nat.reduceSub, BitVec.extractLsb'_eq_self,
    BitVec.reduceExtractLsb', Nat.sub_self, Nat.sub_zero, BitVec.reduceToNat, List.any_nil, List.any_cons, id_eq, Bool.false_eq_true, Bool.or_false, Bool.or_self, if_false, ne_eq, not_true_eq_false, decide_false,
    BitVec.reduceEq, not_false_eq_true, decide_true, BitVec.ofNat_eq_ofNat, reduceIte]
  simp_all
theorem RoundTrip.lds (x1 : BitVec 5) (x2 : BitVec 5) (x3 : BitVec 9) (x4 : BitVec 3) : RoundTrip.Statement (.lds x1 x2 x3 x4) := by
  intro _ h
  simp only [Instr.wf, scopeOk, orderOk, levelOk, widthOk, formatOk, bitsOk, windowOk, fieldOk, Bool.and_eq_true,
    Bool.or_eq_true, Bool.not_eq_true', decide_eq_true_eq, decide_eq_false_iff_not] at h
  show decodeAny (encRM 18 x1 x2 x3 x4 3#2 0#2) = .ok (.lds x1 x2 x3 x4)
  simp only [decodeAny, decPresLoad, legal, encRM_26_6, encRM_21_5, encRM_16_5, encRM_7_9, encRM_4_3, encRM_2_2, encRM_1_1, encRM_0_2, encRM_0_1,
    BitVec.reduceToNat, List.any_nil, List.any_cons, id_eq, Bool.false_eq_true, Bool.or_false, Bool.or_self, if_false, ne_eq, not_true_eq_false, decide_false,
    BitVec.reduceEq, not_false_eq_true, decide_true, BitVec.ofNat_eq_ofNat, reduceIte]
  simp_all
theorem RoundTrip.ldc (x1 : BitVec 5) (x2 : BitVec 5) (x3 : BitVec 9) (x4 : BitVec 3) : RoundTrip.Statement (.ldc x1 x2 x3 x4) := by
  intro _ h
  simp only [Instr.wf, scopeOk, orderOk, levelOk, widthOk, formatOk, bitsOk, windowOk, fieldOk, Bool.and_eq_true,
    Bool.or_eq_true, Bool.not_eq_true', decide_eq_true_eq, decide_eq_false_iff_not] at h
  show decodeAny (encRM 18 x1 x2 x3 x4 3#2 1#2) = .ok (.ldc x1 x2 x3 x4)
  simp only [decodeAny, decPresLoad, legal, encRM_26_6, encRM_21_5, encRM_16_5, encRM_7_9, encRM_4_3, encRM_2_2, encRM_1_1, encRM_0_2, encRM_0_1,
    BitVec.reduceToNat, List.any_nil, List.any_cons, id_eq, Bool.false_eq_true, Bool.or_false, Bool.or_self, if_false, ne_eq, not_true_eq_false, decide_false,
    BitVec.reduceEq, not_false_eq_true, decide_true, BitVec.ofNat_eq_ofNat, reduceIte]
  simp_all
theorem RoundTrip.ldq (x1 : BitVec 5) (x2 : BitVec 5) (x3 : BitVec 9) (x4 : BitVec 3) : RoundTrip.Statement (.ldq x1 x2 x3 x4) := by
  intro _ h
  simp only [Instr.wf, scopeOk, orderOk, levelOk, widthOk, formatOk, bitsOk, windowOk, fieldOk, Bool.and_eq_true,
    Bool.or_eq_true, Bool.not_eq_true', decide_eq_true_eq, decide_eq_false_iff_not] at h
  show decodeAny (encRM 18 x1 x2 x3 x4 3#2 2#2) = .ok (.ldq x1 x2 x3 x4)
  simp only [decodeAny, decPresLoad, legal, encRM_26_6, encRM_21_5, encRM_16_5, encRM_7_9, encRM_4_3, encRM_2_2, encRM_1_1, encRM_0_2, encRM_0_1,
    BitVec.reduceToNat, List.any_nil, List.any_cons, id_eq, Bool.false_eq_true, Bool.or_false, Bool.or_self, if_false, ne_eq, not_true_eq_false, decide_false,
    BitVec.reduceEq, not_false_eq_true, decide_true, BitVec.ofNat_eq_ofNat, reduceIte]
  simp_all
theorem RoundTrip.ldt (x1 : BitVec 5) (x2 : BitVec 5) (x3 : BitVec 9) (x4 : BitVec 3) : RoundTrip.Statement (.ldt x1 x2 x3 x4) := by
  intro _ h
  simp only [Instr.wf, scopeOk, orderOk, levelOk, widthOk, formatOk, bitsOk, windowOk, fieldOk, Bool.and_eq_true,
    Bool.or_eq_true, Bool.not_eq_true', decide_eq_true_eq, decide_eq_false_iff_not] at h
  show decodeAny (encRM 18 x1 x2 x3 x4 3#2 3#2) = .ok (.ldt x1 x2 x3 x4)
  simp only [decodeAny, decPresLoad, legal, encRM_26_6, encRM_21_5, encRM_16_5, encRM_7_9, encRM_4_3, encRM_2_2, encRM_1_1, encRM_0_2, encRM_0_1,
    BitVec.reduceToNat, List.any_nil, List.any_cons, id_eq, Bool.false_eq_true, Bool.or_false, Bool.or_self, if_false, ne_eq, not_true_eq_false, decide_false,
    BitVec.reduceEq, not_false_eq_true, decide_true, BitVec.ofNat_eq_ofNat, reduceIte]
  simp_all
theorem RoundTrip.stf (x1 : BitVec 5) (x2 : BitVec 5) (x3 : BitVec 9) (x4 : BitVec 3) : RoundTrip.Statement (.stf x1 x2 x3 x4) := by
  intro _ h
  simp only [Instr.wf, scopeOk, orderOk, levelOk, widthOk, formatOk, bitsOk, windowOk, fieldOk, Bool.and_eq_true,
    Bool.or_eq_true, Bool.not_eq_true', decide_eq_true_eq, decide_eq_false_iff_not] at h
  show decodeAny (encRM 19 x1 x2 x3 x4 3#2 0#2) = .ok (.stf x1 x2 x3 x4)
  simp only [decodeAny, decPresStore, legal, encRM_26_6, encRM_21_5, encRM_16_5, encRM_7_9, encRM_4_3, encRM_2_2, encRM_1_1, encRM_0_2, encRM_0_1,
    BitVec.reduceToNat, List.any_nil, List.any_cons, id_eq, Bool.false_eq_true, Bool.or_false, Bool.or_self, if_false, ne_eq, not_true_eq_false, decide_false,
    BitVec.reduceEq, not_false_eq_true, decide_true, BitVec.ofNat_eq_ofNat, reduceIte]
  simp_all
theorem RoundTrip.stw (x1 : BitVec 5) (x2 : BitVec 5) (x3 : BitVec 9) (x4 : BitVec 3) : RoundTrip.Statement (.stw x1 x2 x3 x4) := by
  intro _ h
  simp only [Instr.wf, scopeOk, orderOk, levelOk, widthOk, formatOk, bitsOk, windowOk, fieldOk, Bool.and_eq_true,
    Bool.or_eq_true, Bool.not_eq_true', decide_eq_true_eq, decide_eq_false_iff_not] at h
  show decodeAny (encRM 19 x1 x2 x3 x4 3#2 1#2) = .ok (.stw x1 x2 x3 x4)
  simp only [decodeAny, decPresStore, legal, encRM_26_6, encRM_21_5, encRM_16_5, encRM_7_9, encRM_4_3, encRM_2_2, encRM_1_1, encRM_0_2, encRM_0_1,
    BitVec.reduceToNat, List.any_nil, List.any_cons, id_eq, Bool.false_eq_true, Bool.or_false, Bool.or_self, if_false, ne_eq, not_true_eq_false, decide_false,
    BitVec.reduceEq, not_false_eq_true, decide_true, BitVec.ofNat_eq_ofNat, reduceIte]
  simp_all
theorem RoundTrip.stv (x1 : BitVec 5) (x2 : BitVec 5) (x3 : BitVec 9) (x4 : BitVec 3) : RoundTrip.Statement (.stv x1 x2 x3 x4) := by
  intro _ h
  simp only [Instr.wf, scopeOk, orderOk, levelOk, widthOk, formatOk, bitsOk, windowOk, fieldOk, Bool.and_eq_true,
    Bool.or_eq_true, Bool.not_eq_true', decide_eq_true_eq, decide_eq_false_iff_not] at h
  show decodeAny (encRM 19 x1 x2 x3 x4 3#2 2#2) = .ok (.stv x1 x2 x3 x4)
  simp only [decodeAny, decPresStore, legal, encRM_26_6, encRM_21_5, encRM_16_5, encRM_7_9, encRM_4_3, encRM_2_2, encRM_1_1, encRM_0_2, encRM_0_1,
    BitVec.reduceToNat, List.any_nil, List.any_cons, id_eq, Bool.false_eq_true, Bool.or_false, Bool.or_self, if_false, ne_eq, not_true_eq_false, decide_false,
    BitVec.reduceEq, not_false_eq_true, decide_true, BitVec.ofNat_eq_ofNat, reduceIte]
  simp_all
theorem RoundTrip.ste (x1 : BitVec 5) (x2 : BitVec 5) (x3 : BitVec 9) (x4 : BitVec 3) : RoundTrip.Statement (.ste x1 x2 x3 x4) := by
  intro _ h
  simp only [Instr.wf, scopeOk, orderOk, levelOk, widthOk, formatOk, bitsOk, windowOk, fieldOk, Bool.and_eq_true,
    Bool.or_eq_true, Bool.not_eq_true', decide_eq_true_eq, decide_eq_false_iff_not] at h
  show decodeAny (encRM 19 x1 x2 x3 x4 3#2 3#2) = .ok (.ste x1 x2 x3 x4)
  simp only [decodeAny, decPresStore, legal, encRM_26_6, encRM_21_5, encRM_16_5, encRM_7_9, encRM_4_3, encRM_2_2, encRM_1_1, encRM_0_2, encRM_0_1,
    BitVec.reduceToNat, List.any_nil, List.any_cons, id_eq, Bool.false_eq_true, Bool.or_false, Bool.or_self, if_false, ne_eq, not_true_eq_false, decide_false,
    BitVec.reduceEq, not_false_eq_true, decide_true, BitVec.ofNat_eq_ofNat, reduceIte]
  simp_all
theorem RoundTrip.amoAdd (x1 : BitVec 5) (x2 : BitVec 5) (x3 : BitVec 5) (x4 : BitVec 3) (x5 : BitVec 3) : RoundTrip.Statement (.amoAdd x1 x2 x3 x4 x5) := by
  intro _ h
  simp only [Instr.wf, scopeOk, orderOk, levelOk, widthOk, formatOk, bitsOk, windowOk, fieldOk, Bool.and_eq_true,
    Bool.or_eq_true, Bool.not_eq_true', decide_eq_true_eq, decide_eq_false_iff_not] at h
  show decodeAny (encRA 20 x1 x2 x3 0#5 x4 x5) = .ok (.amoAdd x1 x2 x3 x4 x5)
  simp only [decodeAny, decAmo, legal, encRA_26_6, encRA_21_5, encRA_16_5, encRA_11_5, encRA_6_5, encRA_3_3, encRA_0_3,
    BitVec.reduceToNat, List.any_nil, List.any_cons, id_eq, Bool.false_eq_true, Bool.or_false, Bool.or_self, if_false, ne_eq, not_true_eq_false, decide_false,
    BitVec.reduceEq, not_false_eq_true, decide_true, BitVec.ofNat_eq_ofNat, reduceIte]
  simp_all
theorem RoundTrip.amoAnd (x1 : BitVec 5) (x2 : BitVec 5) (x3 : BitVec 5) (x4 : BitVec 3) (x5 : BitVec 3) : RoundTrip.Statement (.amoAnd x1 x2 x3 x4 x5) := by
  intro _ h
  simp only [Instr.wf, scopeOk, orderOk, levelOk, widthOk, formatOk, bitsOk, windowOk, fieldOk, Bool.and_eq_true,
    Bool.or_eq_true, Bool.not_eq_true', decide_eq_true_eq, decide_eq_false_iff_not] at h
  show decodeAny (encRA 20 x1 x2 x3 1#5 x4 x5) = .ok (.amoAnd x1 x2 x3 x4 x5)
  simp only [decodeAny, decAmo, legal, encRA_26_6, encRA_21_5, encRA_16_5, encRA_11_5, encRA_6_5, encRA_3_3, encRA_0_3,
    BitVec.reduceToNat, List.any_nil, List.any_cons, id_eq, Bool.false_eq_true, Bool.or_false, Bool.or_self, if_false, ne_eq, not_true_eq_false, decide_false,
    BitVec.reduceEq, not_false_eq_true, decide_true, BitVec.ofNat_eq_ofNat, reduceIte]
  simp_all
theorem RoundTrip.amoOr (x1 : BitVec 5) (x2 : BitVec 5) (x3 : BitVec 5) (x4 : BitVec 3) (x5 : BitVec 3) : RoundTrip.Statement (.amoOr x1 x2 x3 x4 x5) := by
  intro _ h
  simp only [Instr.wf, scopeOk, orderOk, levelOk, widthOk, formatOk, bitsOk, windowOk, fieldOk, Bool.and_eq_true,
    Bool.or_eq_true, Bool.not_eq_true', decide_eq_true_eq, decide_eq_false_iff_not] at h
  show decodeAny (encRA 20 x1 x2 x3 2#5 x4 x5) = .ok (.amoOr x1 x2 x3 x4 x5)
  simp only [decodeAny, decAmo, legal, encRA_26_6, encRA_21_5, encRA_16_5, encRA_11_5, encRA_6_5, encRA_3_3, encRA_0_3,
    BitVec.reduceToNat, List.any_nil, List.any_cons, id_eq, Bool.false_eq_true, Bool.or_false, Bool.or_self, if_false, ne_eq, not_true_eq_false, decide_false,
    BitVec.reduceEq, not_false_eq_true, decide_true, BitVec.ofNat_eq_ofNat, reduceIte]
  simp_all
theorem RoundTrip.amoXor (x1 : BitVec 5) (x2 : BitVec 5) (x3 : BitVec 5) (x4 : BitVec 3) (x5 : BitVec 3) : RoundTrip.Statement (.amoXor x1 x2 x3 x4 x5) := by
  intro _ h
  simp only [Instr.wf, scopeOk, orderOk, levelOk, widthOk, formatOk, bitsOk, windowOk, fieldOk, Bool.and_eq_true,
    Bool.or_eq_true, Bool.not_eq_true', decide_eq_true_eq, decide_eq_false_iff_not] at h
  show decodeAny (encRA 20 x1 x2 x3 3#5 x4 x5) = .ok (.amoXor x1 x2 x3 x4 x5)
  simp only [decodeAny, decAmo, legal, encRA_26_6, encRA_21_5, encRA_16_5, encRA_11_5, encRA_6_5, encRA_3_3, encRA_0_3,
    BitVec.reduceToNat, List.any_nil, List.any_cons, id_eq, Bool.false_eq_true, Bool.or_false, Bool.or_self, if_false, ne_eq, not_true_eq_false, decide_false,
    BitVec.reduceEq, not_false_eq_true, decide_true, BitVec.ofNat_eq_ofNat, reduceIte]
  simp_all
theorem RoundTrip.amoMin (x1 : BitVec 5) (x2 : BitVec 5) (x3 : BitVec 5) (x4 : BitVec 3) (x5 : BitVec 3) : RoundTrip.Statement (.amoMin x1 x2 x3 x4 x5) := by
  intro _ h
  simp only [Instr.wf, scopeOk, orderOk, levelOk, widthOk, formatOk, bitsOk, windowOk, fieldOk, Bool.and_eq_true,
    Bool.or_eq_true, Bool.not_eq_true', decide_eq_true_eq, decide_eq_false_iff_not] at h
  show decodeAny (encRA 20 x1 x2 x3 4#5 x4 x5) = .ok (.amoMin x1 x2 x3 x4 x5)
  simp only [decodeAny, decAmo, legal, encRA_26_6, encRA_21_5, encRA_16_5, encRA_11_5, encRA_6_5, encRA_3_3, encRA_0_3,
    BitVec.reduceToNat, List.any_nil, List.any_cons, id_eq, Bool.false_eq_true, Bool.or_false, Bool.or_self, if_false, ne_eq, not_true_eq_false, decide_false,
    BitVec.reduceEq, not_false_eq_true, decide_true, BitVec.ofNat_eq_ofNat, reduceIte]
  simp_all
theorem RoundTrip.amoMax (x1 : BitVec 5) (x2 : BitVec 5) (x3 : BitVec 5) (x4 : BitVec 3) (x5 : BitVec 3) : RoundTrip.Statement (.amoMax x1 x2 x3 x4 x5) := by
  intro _ h
  simp only [Instr.wf, scopeOk, orderOk, levelOk, widthOk, formatOk, bitsOk, windowOk, fieldOk, Bool.and_eq_true,
    Bool.or_eq_true, Bool.not_eq_true', decide_eq_true_eq, decide_eq_false_iff_not] at h
  show decodeAny (encRA 20 x1 x2 x3 5#5 x4 x5) = .ok (.amoMax x1 x2 x3 x4 x5)
  simp only [decodeAny, decAmo, legal, encRA_26_6, encRA_21_5, encRA_16_5, encRA_11_5, encRA_6_5, encRA_3_3, encRA_0_3,
    BitVec.reduceToNat, List.any_nil, List.any_cons, id_eq, Bool.false_eq_true, Bool.or_false, Bool.or_self, if_false, ne_eq, not_true_eq_false, decide_false,
    BitVec.reduceEq, not_false_eq_true, decide_true, BitVec.ofNat_eq_ofNat, reduceIte]
  simp_all
theorem RoundTrip.amoMinu (x1 : BitVec 5) (x2 : BitVec 5) (x3 : BitVec 5) (x4 : BitVec 3) (x5 : BitVec 3) : RoundTrip.Statement (.amoMinu x1 x2 x3 x4 x5) := by
  intro _ h
  simp only [Instr.wf, scopeOk, orderOk, levelOk, widthOk, formatOk, bitsOk, windowOk, fieldOk, Bool.and_eq_true,
    Bool.or_eq_true, Bool.not_eq_true', decide_eq_true_eq, decide_eq_false_iff_not] at h
  show decodeAny (encRA 20 x1 x2 x3 6#5 x4 x5) = .ok (.amoMinu x1 x2 x3 x4 x5)
  simp only [decodeAny, decAmo, legal, encRA_26_6, encRA_21_5, encRA_16_5, encRA_11_5, encRA_6_5, encRA_3_3, encRA_0_3,
    BitVec.reduceToNat, List.any_nil, List.any_cons, id_eq, Bool.false_eq_true, Bool.or_false, Bool.or_self, if_false, ne_eq, not_true_eq_false, decide_false,
    BitVec.reduceEq, not_false_eq_true, decide_true, BitVec.ofNat_eq_ofNat, reduceIte]
  simp_all
theorem RoundTrip.amoMaxu (x1 : BitVec 5) (x2 : BitVec 5) (x3 : BitVec 5) (x4 : BitVec 3) (x5 : BitVec 3) : RoundTrip.Statement (.amoMaxu x1 x2 x3 x4 x5) := by
  intro _ h
  simp only [Instr.wf, scopeOk, orderOk, levelOk, widthOk, formatOk, bitsOk, windowOk, fieldOk, Bool.and_eq_true,
    Bool.or_eq_true, Bool.not_eq_true', decide_eq_true_eq, decide_eq_false_iff_not] at h
  show decodeAny (encRA 20 x1 x2 x3 7#5 x4 x5) = .ok (.amoMaxu x1 x2 x3 x4 x5)
  simp only [decodeAny, decAmo, legal, encRA_26_6, encRA_21_5, encRA_16_5, encRA_11_5, encRA_6_5, encRA_3_3, encRA_0_3,
    BitVec.reduceToNat, List.any_nil, List.any_cons, id_eq, Bool.false_eq_true, Bool.or_false, Bool.or_self, if_false, ne_eq, not_true_eq_false, decide_false,
    BitVec.reduceEq, not_false_eq_true, decide_true, BitVec.ofNat_eq_ofNat, reduceIte]
  simp_all
theorem RoundTrip.amoSwap (x1 : BitVec 5) (x2 : BitVec 5) (x3 : BitVec 5) (x4 : BitVec 3) (x5 : BitVec 3) : RoundTrip.Statement (.amoSwap x1 x2 x3 x4 x5) := by
  intro _ h
  simp only [Instr.wf, scopeOk, orderOk, levelOk, widthOk, formatOk, bitsOk, windowOk, fieldOk, Bool.and_eq_true,
    Bool.or_eq_true, Bool.not_eq_true', decide_eq_true_eq, decide_eq_false_iff_not] at h
  show decodeAny (encRA 20 x1 x2 x3 8#5 x4 x5) = .ok (.amoSwap x1 x2 x3 x4 x5)
  simp only [decodeAny, decAmo, legal, encRA_26_6, encRA_21_5, encRA_16_5, encRA_11_5, encRA_6_5, encRA_3_3, encRA_0_3,
    BitVec.reduceToNat, List.any_nil, List.any_cons, id_eq, Bool.false_eq_true, Bool.or_false, Bool.or_self, if_false, ne_eq, not_true_eq_false, decide_false,
    BitVec.reduceEq, not_false_eq_true, decide_true, BitVec.ofNat_eq_ofNat, reduceIte]
  simp_all
theorem RoundTrip.amoCas (x1 : BitVec 5) (x2 : BitVec 5) (x3 : BitVec 5) (x4 : BitVec 3) (x5 : BitVec 3) : RoundTrip.Statement (.amoCas x1 x2 x3 x4 x5) := by
  intro _ h
  simp only [Instr.wf, scopeOk, orderOk, levelOk, widthOk, formatOk, bitsOk, windowOk, fieldOk, Bool.and_eq_true,
    Bool.or_eq_true, Bool.not_eq_true', decide_eq_true_eq, decide_eq_false_iff_not] at h
  show decodeAny (encRA 20 x1 x2 x3 9#5 x4 x5) = .ok (.amoCas x1 x2 x3 x4 x5)
  simp only [decodeAny, decAmo, legal, encRA_26_6, encRA_21_5, encRA_16_5, encRA_11_5, encRA_6_5, encRA_3_3, encRA_0_3,
    BitVec.reduceToNat, List.any_nil, List.any_cons, id_eq, Bool.false_eq_true, Bool.or_false, Bool.or_self, if_false, ne_eq, not_true_eq_false, decide_false,
    BitVec.reduceEq, not_false_eq_true, decide_true, BitVec.ofNat_eq_ofNat, reduceIte]
  simp_all
theorem RoundTrip.amoFadd (x1 : BitVec 5) (x2 : BitVec 5) (x3 : BitVec 5) (x4 : BitVec 3) (x5 : BitVec 3) : RoundTrip.Statement (.amoFadd x1 x2 x3 x4 x5) := by
  intro _ h
  simp only [Instr.wf, scopeOk, orderOk, levelOk, widthOk, formatOk, bitsOk, windowOk, fieldOk, Bool.and_eq_true,
    Bool.or_eq_true, Bool.not_eq_true', decide_eq_true_eq, decide_eq_false_iff_not] at h
  show decodeAny (encRA 20 x1 x2 x3 10#5 x4 x5) = .ok (.amoFadd x1 x2 x3 x4 x5)
  simp only [decodeAny, decAmo, legal, encRA_26_6, encRA_21_5, encRA_16_5, encRA_11_5, encRA_6_5, encRA_3_3, encRA_0_3,
    BitVec.reduceToNat, List.any_nil, List.any_cons, id_eq, Bool.false_eq_true, Bool.or_false, Bool.or_self, if_false, ne_eq, not_true_eq_false, decide_false,
    BitVec.reduceEq, not_false_eq_true, decide_true, BitVec.ofNat_eq_ofNat, reduceIte]
  simp_all
theorem RoundTrip.amoAddW (x1 : BitVec 5) (x2 : BitVec 5) (x3 : BitVec 5) (x4 : BitVec 3) (x5 : BitVec 3) : RoundTrip.Statement (.amoAddW x1 x2 x3 x4 x5) := by
  intro _ h
  simp only [Instr.wf, scopeOk, orderOk, levelOk, widthOk, formatOk, bitsOk, windowOk, fieldOk, Bool.and_eq_true,
    Bool.or_eq_true, Bool.not_eq_true', decide_eq_true_eq, decide_eq_false_iff_not] at h
  show decodeAny (encRA 20 x1 x2 x3 11#5 x4 x5) = .ok (.amoAddW x1 x2 x3 x4 x5)
  simp only [decodeAny, decAmo, legal, encRA_26_6, encRA_21_5, encRA_16_5, encRA_11_5, encRA_6_5, encRA_3_3, encRA_0_3,
    BitVec.reduceToNat, List.any_nil, List.any_cons, id_eq, Bool.false_eq_true, Bool.or_false, Bool.or_self, if_false, ne_eq, not_true_eq_false, decide_false,
    BitVec.reduceEq, not_false_eq_true, decide_true, BitVec.ofNat_eq_ofNat, reduceIte]
  simp_all
theorem RoundTrip.fence (x1 : BitVec 1) (x2 : BitVec 3) (x3 : BitVec 4) : RoundTrip.Statement (.fence x1 x2 x3) := by
  intro _ h
  simp only [Instr.wf, scopeOk, orderOk, levelOk, widthOk, formatOk, bitsOk, windowOk, fieldOk, Bool.and_eq_true,
    Bool.or_eq_true, Bool.not_eq_true', decide_eq_true_eq, decide_eq_false_iff_not] at h
  show decodeAny (encS 21 0#6 0#5 0#5 (0#2 ++ x1 ++ x2 ++ x3)) = .ok (.fence x1 x2 x3)
  simp (disch := omega) only [decodeAny, decSync, legal, encS_26_6, encS_20_6, encS_19_1, encS_15_5, encS_15_4, encS_14_1, encS_10_5, encS_10_4, encS_9_1, encS_8_2, encS_7_3, encS_7_1, encS_6_4, encS_5_5, encS_5_4, encS_4_6, encS_4_3, encS_3_4, encS_2_8, encS_2_3, encS_1_9, encS_0_10, encS_0_6, encS_0_5, encS_0_4, encS_0_3, encS_0_2, encS_0_1,
    BitVec.extractLsb'_append_eq_of_le, BitVec.extractLsb'_append_eq_of_add_le, Nat.reduceSub, BitVec.extractLsb'_eq_self,
    BitVec.reduceExtractLsb', Nat.sub_self, Nat.sub_zero, BitVec.reduceToNat, List.any_nil, List.any_cons, id_eq, Bool.false_eq_true, Bool.or_false, Bool.or_self, if_false, ne_eq, not_true_eq_false, decide_false,
    BitVec.reduceEq, not_false_eq_true, decide_true, BitVec.ofNat_eq_ofNat, reduceIte]
  simp_all
theorem RoundTrip.bar (x1 : BitVec 4) (x2 : BitVec 3) : RoundTrip.Statement (.bar x1 x2) := by
  intro _ h
  simp only [Instr.wf, scopeOk, orderOk, levelOk, widthOk, formatOk, bitsOk, windowOk, fieldOk, Bool.and_eq_true,
    Bool.or_eq_true, Bool.not_eq_true', decide_eq_true_eq, decide_eq_false_iff_not] at h
  show decodeAny (encS 21 1#6 0#5 0#5 (0#3 ++ x1 ++ x2)) = .ok (.bar x1 x2)
  simp (disch := omega) only [decodeAny, decSync, legal, encS_26_6, encS_20_6, encS_19_1, encS_15_5, encS_15_4, encS_14_1, encS_10_5, encS_10_4, encS_9_1, encS_8_2, encS_7_3, encS_7_1, encS_6_4, encS_5_5, encS_5_4, encS_4_6, encS_4_3, encS_3_4, encS_2_8, encS_2_3, encS_1_9, encS_0_10, encS_0_6, encS_0_5, encS_0_4, encS_0_3, encS_0_2, encS_0_1,
    BitVec.extractLsb'_append_eq_of_le, BitVec.extractLsb'_append_eq_of_add_le, Nat.reduceSub, BitVec.extractLsb'_eq_self,
    BitVec.reduceExtractLsb', Nat.sub_self, Nat.sub_zero, BitVec.reduceToNat, List.any_nil, List.any_cons, id_eq, Bool.false_eq_true, Bool.or_false, Bool.or_self, if_false, ne_eq, not_true_eq_false, decide_false,
    BitVec.reduceEq, not_false_eq_true, decide_true, BitVec.ofNat_eq_ofNat, reduceIte]
  simp_all
theorem RoundTrip.barArrive (x1 : BitVec 5) (x2 : BitVec 4) (x3 : BitVec 3) : RoundTrip.Statement (.barArrive x1 x2 x3) := by
  intro _ h
  simp only [Instr.wf, scopeOk, orderOk, levelOk, widthOk, formatOk, bitsOk, windowOk, fieldOk, Bool.and_eq_true,
    Bool.or_eq_true, Bool.not_eq_true', decide_eq_true_eq, decide_eq_false_iff_not] at h
  show decodeAny (encS 21 2#6 0#5 x1 (0#3 ++ x2 ++ x3)) = .ok (.barArrive x1 x2 x3)
  simp (disch := omega) only [decodeAny, decSync, legal, encS_26_6, encS_20_6, encS_19_1, encS_15_5, encS_15_4, encS_14_1, encS_10_5, encS_10_4, encS_9_1, encS_8_2, encS_7_3, encS_7_1, encS_6_4, encS_5_5, encS_5_4, encS_4_6, encS_4_3, encS_3_4, encS_2_8, encS_2_3, encS_1_9, encS_0_10, encS_0_6, encS_0_5, encS_0_4, encS_0_3, encS_0_2, encS_0_1,
    BitVec.extractLsb'_append_eq_of_le, BitVec.extractLsb'_append_eq_of_add_le, Nat.reduceSub, BitVec.extractLsb'_eq_self,
    BitVec.reduceExtractLsb', Nat.sub_self, Nat.sub_zero, BitVec.reduceToNat, List.any_nil, List.any_cons, id_eq, Bool.false_eq_true, Bool.or_false, Bool.or_self, if_false, ne_eq, not_true_eq_false, decide_false,
    BitVec.reduceEq, not_false_eq_true, decide_true, BitVec.ofNat_eq_ofNat, reduceIte]
  simp_all
theorem RoundTrip.barWait (x1 : BitVec 5) (x2 : BitVec 4) (x3 : BitVec 3) : RoundTrip.Statement (.barWait x1 x2 x3) := by
  intro _ h
  simp only [Instr.wf, scopeOk, orderOk, levelOk, widthOk, formatOk, bitsOk, windowOk, fieldOk, Bool.and_eq_true,
    Bool.or_eq_true, Bool.not_eq_true', decide_eq_true_eq, decide_eq_false_iff_not] at h
  show decodeAny (encS 21 3#6 x1 0#5 (0#3 ++ x2 ++ x3)) = .ok (.barWait x1 x2 x3)
  simp (disch := omega) only [decodeAny, decSync, legal, encS_26_6, encS_20_6, encS_19_1, encS_15_5, encS_15_4, encS_14_1, encS_10_5, encS_10_4, encS_9_1, encS_8_2, encS_7_3, encS_7_1, encS_6_4, encS_5_5, encS_5_4, encS_4_6, encS_4_3, encS_3_4, encS_2_8, encS_2_3, encS_1_9, encS_0_10, encS_0_6, encS_0_5, encS_0_4, encS_0_3, encS_0_2, encS_0_1,
    BitVec.extractLsb'_append_eq_of_le, BitVec.extractLsb'_append_eq_of_add_le, Nat.reduceSub, BitVec.extractLsb'_eq_self,
    BitVec.reduceExtractLsb', Nat.sub_self, Nat.sub_zero, BitVec.reduceToNat, List.any_nil, List.any_cons, id_eq, Bool.false_eq_true, Bool.or_false, Bool.or_self, if_false, ne_eq, not_true_eq_false, decide_false,
    BitVec.reduceEq, not_false_eq_true, decide_true, BitVec.ofNat_eq_ofNat, reduceIte]
  simp_all
theorem RoundTrip.arrive (x1 : BitVec 5) : RoundTrip.Statement (.arrive x1) := by
  intro _ _
  show decodeAny (encS 21 4#6 x1 0#5 0#10) = .ok (.arrive x1)
  simp only [decodeAny, decSync, legal, encS_26_6, encS_20_6, encS_19_1, encS_15_5, encS_15_4, encS_14_1, encS_10_5, encS_10_4, encS_9_1, encS_8_2, encS_7_3, encS_7_1, encS_6_4, encS_5_5, encS_5_4, encS_4_6, encS_4_3, encS_3_4, encS_2_8, encS_2_3, encS_1_9, encS_0_10, encS_0_6, encS_0_5, encS_0_4, encS_0_3, encS_0_2, encS_0_1,
    BitVec.reduceToNat, List.any_nil, List.any_cons, id_eq, Bool.false_eq_true, Bool.or_false, Bool.or_self, if_false, ne_eq, not_true_eq_false, decide_false,
    BitVec.reduceEq, not_false_eq_true, decide_true, BitVec.ofNat_eq_ofNat, reduceIte]
theorem RoundTrip.expect (x1 : BitVec 5) (x2 : BitVec 5) : RoundTrip.Statement (.expect x1 x2) := by
  intro _ _
  show decodeAny (encS 21 5#6 x1 x2 0#10) = .ok (.expect x1 x2)
  simp only [decodeAny, decSync, legal, encS_26_6, encS_20_6, encS_19_1, encS_15_5, encS_15_4, encS_14_1, encS_10_5, encS_10_4, encS_9_1, encS_8_2, encS_7_3, encS_7_1, encS_6_4, encS_5_5, encS_5_4, encS_4_6, encS_4_3, encS_3_4, encS_2_8, encS_2_3, encS_1_9, encS_0_10, encS_0_6, encS_0_5, encS_0_4, encS_0_3, encS_0_2, encS_0_1,
    BitVec.reduceToNat, List.any_nil, List.any_cons, id_eq, Bool.false_eq_true, Bool.or_false, Bool.or_self, if_false, ne_eq, not_true_eq_false, decide_false,
    BitVec.reduceEq, not_false_eq_true, decide_true, BitVec.ofNat_eq_ofNat, reduceIte]
theorem RoundTrip.waitc (x1 : BitVec 5) (x2 : BitVec 5) : RoundTrip.Statement (.waitc x1 x2) := by
  intro _ _
  show decodeAny (encS 21 6#6 x1 x2 0#10) = .ok (.waitc x1 x2)
  simp only [decodeAny, decSync, legal, encS_26_6, encS_20_6, encS_19_1, encS_15_5, encS_15_4, encS_14_1, encS_10_5, encS_10_4, encS_9_1, encS_8_2, encS_7_3, encS_7_1, encS_6_4, encS_5_5, encS_5_4, encS_4_6, encS_4_3, encS_3_4, encS_2_8, encS_2_3, encS_1_9, encS_0_10, encS_0_6, encS_0_5, encS_0_4, encS_0_3, encS_0_2, encS_0_1,
    BitVec.reduceToNat, List.any_nil, List.any_cons, id_eq, Bool.false_eq_true, Bool.or_false, Bool.or_self, if_false, ne_eq, not_true_eq_false, decide_false,
    BitVec.reduceEq, not_false_eq_true, decide_true, BitVec.ofNat_eq_ofNat, reduceIte]
theorem RoundTrip.cwinit (x1 : BitVec 5) (x2 : BitVec 5) : RoundTrip.Statement (.cwinit x1 x2) := by
  intro _ _
  show decodeAny (encS 21 7#6 x1 x2 0#10) = .ok (.cwinit x1 x2)
  simp only [decodeAny, decSync, legal, encS_26_6, encS_20_6, encS_19_1, encS_15_5, encS_15_4, encS_14_1, encS_10_5, encS_10_4, encS_9_1, encS_8_2, encS_7_3, encS_7_1, encS_6_4, encS_5_5, encS_5_4, encS_4_6, encS_4_3, encS_3_4, encS_2_8, encS_2_3, encS_1_9, encS_0_10, encS_0_6, encS_0_5, encS_0_4, encS_0_3, encS_0_2, encS_0_1,
    BitVec.reduceToNat, List.any_nil, List.any_cons, id_eq, Bool.false_eq_true, Bool.or_false, Bool.or_self, if_false, ne_eq, not_true_eq_false, decide_false,
    BitVec.reduceEq, not_false_eq_true, decide_true, BitVec.ofNat_eq_ofNat, reduceIte]
theorem RoundTrip.putrG (x1 : BitVec 5) (x2 : BitVec 5) (x3 : BitVec 5) (x4 : BitVec 3) : RoundTrip.Statement (.putrG x1 x2 x3 x4) := by
  intro _ _
  show decodeAny (encS 22 0#6 x1 x2 (x3 ++ x4 ++ 0#2)) = .ok (.putrG x1 x2 x3 x4)
  simp (disch := omega) only [decodeAny, decPutr, legal, encS_26_6, encS_20_6, encS_19_1, encS_15_5, encS_15_4, encS_14_1, encS_10_5, encS_10_4, encS_9_1, encS_8_2, encS_7_3, encS_7_1, encS_6_4, encS_5_5, encS_5_4, encS_4_6, encS_4_3, encS_3_4, encS_2_8, encS_2_3, encS_1_9, encS_0_10, encS_0_6, encS_0_5, encS_0_4, encS_0_3, encS_0_2, encS_0_1,
    BitVec.extractLsb'_append_eq_of_le, BitVec.extractLsb'_append_eq_of_add_le, Nat.reduceSub, BitVec.extractLsb'_eq_self,
    BitVec.reduceExtractLsb', Nat.sub_self, Nat.sub_zero, BitVec.reduceToNat, List.any_nil, List.any_cons, id_eq, Bool.false_eq_true, Bool.or_false, Bool.or_self, if_false, ne_eq, not_true_eq_false, decide_false,
    BitVec.reduceEq, not_false_eq_true, decide_true, BitVec.ofNat_eq_ofNat, reduceIte]
theorem RoundTrip.putrV (x1 : BitVec 4) (x2 : BitVec 5) (x3 : BitVec 4) (x4 : BitVec 3) : RoundTrip.Statement (.putrV x1 x2 x3 x4) := by
  intro _ _
  show decodeAny (encS 22 1#6 (0#1 ++ x1) x2 (0#1 ++ x3 ++ x4 ++ 0#2)) = .ok (.putrV x1 x2 x3 x4)
  simp (disch := omega) only [decodeAny, decPutr, legal, encS_26_6, encS_20_6, encS_19_1, encS_15_5, encS_15_4, encS_14_1, encS_10_5, encS_10_4, encS_9_1, encS_8_2, encS_7_3, encS_7_1, encS_6_4, encS_5_5, encS_5_4, encS_4_6, encS_4_3, encS_3_4, encS_2_8, encS_2_3, encS_1_9, encS_0_10, encS_0_6, encS_0_5, encS_0_4, encS_0_3, encS_0_2, encS_0_1,
    BitVec.extractLsb'_append_eq_of_le, BitVec.extractLsb'_append_eq_of_add_le, Nat.reduceSub, BitVec.extractLsb'_eq_self,
    BitVec.reduceExtractLsb', Nat.sub_self, Nat.sub_zero, BitVec.reduceToNat, List.any_nil, List.any_cons, id_eq, Bool.false_eq_true, Bool.or_false, Bool.or_self, if_false, ne_eq, not_true_eq_false, decide_false,
    BitVec.reduceEq, not_false_eq_true, decide_true, BitVec.ofNat_eq_ofNat, reduceIte]
theorem RoundTrip.trap (x1 : BitVec 10) : RoundTrip.Statement (.trap x1) := by
  intro _ _
  show decodeAny (encS 23 0#6 0#5 0#5 x1) = .ok (.trap x1)
  simp only [decodeAny, decSys, legal, encS_26_6, encS_20_6, encS_19_1, encS_15_5, encS_15_4, encS_14_1, encS_10_5, encS_10_4, encS_9_1, encS_8_2, encS_7_3, encS_7_1, encS_6_4, encS_5_5, encS_5_4, encS_4_6, encS_4_3, encS_3_4, encS_2_8, encS_2_3, encS_1_9, encS_0_10, encS_0_6, encS_0_5, encS_0_4, encS_0_3, encS_0_2, encS_0_1,
    BitVec.reduceToNat, List.any_nil, List.any_cons, id_eq, Bool.false_eq_true, Bool.or_false, Bool.or_self, if_false, ne_eq, not_true_eq_false, decide_false,
    BitVec.reduceEq, not_false_eq_true, decide_true, BitVec.ofNat_eq_ofNat, reduceIte]
theorem RoundTrip.eret : RoundTrip.Statement .eret := by
  intro _ _
  show decodeAny (encS 23 1#6 0#5 0#5 0#10) = .ok .eret
  simp only [decodeAny, decSys, legal, encS_26_6, encS_20_6, encS_19_1, encS_15_5, encS_15_4, encS_14_1, encS_10_5, encS_10_4, encS_9_1, encS_8_2, encS_7_3, encS_7_1, encS_6_4, encS_5_5, encS_5_4, encS_4_6, encS_4_3, encS_3_4, encS_2_8, encS_2_3, encS_1_9, encS_0_10, encS_0_6, encS_0_5, encS_0_4, encS_0_3, encS_0_2, encS_0_1,
    BitVec.reduceToNat, List.any_nil, List.any_cons, id_eq, Bool.false_eq_true, Bool.or_false, Bool.or_self, if_false, ne_eq, not_true_eq_false, decide_false,
    BitVec.reduceEq, not_false_eq_true, decide_true, BitVec.ofNat_eq_ofNat, reduceIte]
theorem RoundTrip.csrr (x1 : BitVec 5) (x2 : BitVec 10) : RoundTrip.Statement (.csrr x1 x2) := by
  intro _ _
  show decodeAny (encS 23 2#6 0#5 x1 x2) = .ok (.csrr x1 x2)
  simp only [decodeAny, decSys, legal, encS_26_6, encS_20_6, encS_19_1, encS_15_5, encS_15_4, encS_14_1, encS_10_5, encS_10_4, encS_9_1, encS_8_2, encS_7_3, encS_7_1, encS_6_4, encS_5_5, encS_5_4, encS_4_6, encS_4_3, encS_3_4, encS_2_8, encS_2_3, encS_1_9, encS_0_10, encS_0_6, encS_0_5, encS_0_4, encS_0_3, encS_0_2, encS_0_1,
    BitVec.reduceToNat, List.any_nil, List.any_cons, id_eq, Bool.false_eq_true, Bool.or_false, Bool.or_self, if_false, ne_eq, not_true_eq_false, decide_false,
    BitVec.reduceEq, not_false_eq_true, decide_true, BitVec.ofNat_eq_ofNat, reduceIte]
theorem RoundTrip.csrw (x1 : BitVec 5) (x2 : BitVec 5) (x3 : BitVec 10) : RoundTrip.Statement (.csrw x1 x2 x3) := by
  intro _ _
  show decodeAny (encS 23 3#6 x1 x2 x3) = .ok (.csrw x1 x2 x3)
  simp only [decodeAny, decSys, legal, encS_26_6, encS_20_6, encS_19_1, encS_15_5, encS_15_4, encS_14_1, encS_10_5, encS_10_4, encS_9_1, encS_8_2, encS_7_3, encS_7_1, encS_6_4, encS_5_5, encS_5_4, encS_4_6, encS_4_3, encS_3_4, encS_2_8, encS_2_3, encS_1_9, encS_0_10, encS_0_6, encS_0_5, encS_0_4, encS_0_3, encS_0_2, encS_0_1,
    BitVec.reduceToNat, List.any_nil, List.any_cons, id_eq, Bool.false_eq_true, Bool.or_false, Bool.or_self, if_false, ne_eq, not_true_eq_false, decide_false,
    BitVec.reduceEq, not_false_eq_true, decide_true, BitVec.ofNat_eq_ofNat, reduceIte]
theorem RoundTrip.csrs (x1 : BitVec 5) (x2 : BitVec 5) (x3 : BitVec 10) : RoundTrip.Statement (.csrs x1 x2 x3) := by
  intro _ _
  show decodeAny (encS 23 4#6 x1 x2 x3) = .ok (.csrs x1 x2 x3)
  simp only [decodeAny, decSys, legal, encS_26_6, encS_20_6, encS_19_1, encS_15_5, encS_15_4, encS_14_1, encS_10_5, encS_10_4, encS_9_1, encS_8_2, encS_7_3, encS_7_1, encS_6_4, encS_5_5, encS_5_4, encS_4_6, encS_4_3, encS_3_4, encS_2_8, encS_2_3, encS_1_9, encS_0_10, encS_0_6, encS_0_5, encS_0_4, encS_0_3, encS_0_2, encS_0_1,
    BitVec.reduceToNat, List.any_nil, List.any_cons, id_eq, Bool.false_eq_true, Bool.or_false, Bool.or_self, if_false, ne_eq, not_true_eq_false, decide_false,
    BitVec.reduceEq, not_false_eq_true, decide_true, BitVec.ofNat_eq_ofNat, reduceIte]
theorem RoundTrip.csrc (x1 : BitVec 5) (x2 : BitVec 5) (x3 : BitVec 10) : RoundTrip.Statement (.csrc x1 x2 x3) := by
  intro _ _
  show decodeAny (encS 23 5#6 x1 x2 x3) = .ok (.csrc x1 x2 x3)
  simp only [decodeAny, decSys, legal, encS_26_6, encS_20_6, encS_19_1, encS_15_5, encS_15_4, encS_14_1, encS_10_5, encS_10_4, encS_9_1, encS_8_2, encS_7_3, encS_7_1, encS_6_4, encS_5_5, encS_5_4, encS_4_6, encS_4_3, encS_3_4, encS_2_8, encS_2_3, encS_1_9, encS_0_10, encS_0_6, encS_0_5, encS_0_4, encS_0_3, encS_0_2, encS_0_1,
    BitVec.reduceToNat, List.any_nil, List.any_cons, id_eq, Bool.false_eq_true, Bool.or_false, Bool.or_self, if_false, ne_eq, not_true_eq_false, decide_false,
    BitVec.reduceEq, not_false_eq_true, decide_true, BitVec.ofNat_eq_ofNat, reduceIte]
theorem RoundTrip.wait (x1 : BitVec 5) (x2 : BitVec 5) : RoundTrip.Statement (.wait x1 x2) := by
  intro _ _
  show decodeAny (encS 23 6#6 x1 x2 0#10) = .ok (.wait x1 x2)
  simp only [decodeAny, decSys, legal, encS_26_6, encS_20_6, encS_19_1, encS_15_5, encS_15_4, encS_14_1, encS_10_5, encS_10_4, encS_9_1, encS_8_2, encS_7_3, encS_7_1, encS_6_4, encS_5_5, encS_5_4, encS_4_6, encS_4_3, encS_3_4, encS_2_8, encS_2_3, encS_1_9, encS_0_10, encS_0_6, encS_0_5, encS_0_4, encS_0_3, encS_0_2, encS_0_1,
    BitVec.reduceToNat, List.any_nil, List.any_cons, id_eq, Bool.false_eq_true, Bool.or_false, Bool.or_self, if_false, ne_eq, not_true_eq_false, decide_false,
    BitVec.reduceEq, not_false_eq_true, decide_true, BitVec.ofNat_eq_ofNat, reduceIte]
theorem RoundTrip.halt : RoundTrip.Statement .halt := by
  intro _ _
  show decodeAny (encS 23 7#6 0#5 0#5 0#10) = .ok .halt
  simp only [decodeAny, decSys, legal, encS_26_6, encS_20_6, encS_19_1, encS_15_5, encS_15_4, encS_14_1, encS_10_5, encS_10_4, encS_9_1, encS_8_2, encS_7_3, encS_7_1, encS_6_4, encS_5_5, encS_5_4, encS_4_6, encS_4_3, encS_3_4, encS_2_8, encS_2_3, encS_1_9, encS_0_10, encS_0_6, encS_0_5, encS_0_4, encS_0_3, encS_0_2, encS_0_1,
    BitVec.reduceToNat, List.any_nil, List.any_cons, id_eq, Bool.false_eq_true, Bool.or_false, Bool.or_self, if_false, ne_eq, not_true_eq_false, decide_false,
    BitVec.reduceEq, not_false_eq_true, decide_true, BitVec.ofNat_eq_ofNat, reduceIte]
theorem RoundTrip.yield : RoundTrip.Statement .yield := by
  intro _ _
  show decodeAny (encS 23 8#6 0#5 0#5 0#10) = .ok .yield
  simp only [decodeAny, decSys, legal, encS_26_6, encS_20_6, encS_19_1, encS_15_5, encS_15_4, encS_14_1, encS_10_5, encS_10_4, encS_9_1, encS_8_2, encS_7_3, encS_7_1, encS_6_4, encS_5_5, encS_5_4, encS_4_6, encS_4_3, encS_3_4, encS_2_8, encS_2_3, encS_1_9, encS_0_10, encS_0_6, encS_0_5, encS_0_4, encS_0_3, encS_0_2, encS_0_1,
    BitVec.reduceToNat, List.any_nil, List.any_cons, id_eq, Bool.false_eq_true, Bool.or_false, Bool.or_self, if_false, ne_eq, not_true_eq_false, decide_false,
    BitVec.reduceEq, not_false_eq_true, decide_true, BitVec.ofNat_eq_ofNat, reduceIte]
theorem RoundTrip.ebreak : RoundTrip.Statement .ebreak := by
  intro _ _
  show decodeAny (encS 23 9#6 0#5 0#5 0#10) = .ok .ebreak
  simp only [decodeAny, decSys, legal, encS_26_6, encS_20_6, encS_19_1, encS_15_5, encS_15_4, encS_14_1, encS_10_5, encS_10_4, encS_9_1, encS_8_2, encS_7_3, encS_7_1, encS_6_4, encS_5_5, encS_5_4, encS_4_6, encS_4_3, encS_3_4, encS_2_8, encS_2_3, encS_1_9, encS_0_10, encS_0_6, encS_0_5, encS_0_4, encS_0_3, encS_0_2, encS_0_1,
    BitVec.reduceToNat, List.any_nil, List.any_cons, id_eq, Bool.false_eq_true, Bool.or_false, Bool.or_self, if_false, ne_eq, not_true_eq_false, decide_false,
    BitVec.reduceEq, not_false_eq_true, decide_true, BitVec.ofNat_eq_ofNat, reduceIte]
theorem RoundTrip.tlbinv (x1 : BitVec 5) (x2 : BitVec 2) : RoundTrip.Statement (.tlbinv x1 x2) := by
  intro _ _
  show decodeAny (encS 23 10#6 x1 0#5 (0#8 ++ x2)) = .ok (.tlbinv x1 x2)
  simp (disch := omega) only [decodeAny, decSys, legal, encS_26_6, encS_20_6, encS_19_1, encS_15_5, encS_15_4, encS_14_1, encS_10_5, encS_10_4, encS_9_1, encS_8_2, encS_7_3, encS_7_1, encS_6_4, encS_5_5, encS_5_4, encS_4_6, encS_4_3, encS_3_4, encS_2_8, encS_2_3, encS_1_9, encS_0_10, encS_0_6, encS_0_5, encS_0_4, encS_0_3, encS_0_2, encS_0_1,
    BitVec.extractLsb'_append_eq_of_le, BitVec.extractLsb'_append_eq_of_add_le, Nat.reduceSub, BitVec.extractLsb'_eq_self,
    BitVec.reduceExtractLsb', Nat.sub_self, Nat.sub_zero, BitVec.reduceToNat, List.any_nil, List.any_cons, id_eq, Bool.false_eq_true, Bool.or_false, Bool.or_self, if_false, ne_eq, not_true_eq_false, decide_false,
    BitVec.reduceEq, not_false_eq_true, decide_true, BitVec.ofNat_eq_ofNat, reduceIte]
theorem RoundTrip.remptyG (x1 : BitVec 5) : RoundTrip.Statement (.remptyG x1) := by
  intro _ _
  show decodeAny (encS 23 12#6 0#5 x1 0#10) = .ok (.remptyG x1)
  simp only [decodeAny, decSys, legal, encS_26_6, encS_20_6, encS_19_1, encS_15_5, encS_15_4, encS_14_1, encS_10_5, encS_10_4, encS_9_1, encS_8_2, encS_7_3, encS_7_1, encS_6_4, encS_5_5, encS_5_4, encS_4_6, encS_4_3, encS_3_4, encS_2_8, encS_2_3, encS_1_9, encS_0_10, encS_0_6, encS_0_5, encS_0_4, encS_0_3, encS_0_2, encS_0_1,
    BitVec.reduceToNat, List.any_nil, List.any_cons, id_eq, Bool.false_eq_true, Bool.or_false, Bool.or_self, if_false, ne_eq, not_true_eq_false, decide_false,
    BitVec.reduceEq, not_false_eq_true, decide_true, BitVec.ofNat_eq_ofNat, reduceIte]
theorem RoundTrip.remptyV (x1 : BitVec 4) : RoundTrip.Statement (.remptyV x1) := by
  intro _ _
  show decodeAny (encS 23 13#6 0#5 (0#1 ++ x1) 0#10) = .ok (.remptyV x1)
  simp (disch := omega) only [decodeAny, decSys, legal, encS_26_6, encS_20_6, encS_19_1, encS_15_5, encS_15_4, encS_14_1, encS_10_5, encS_10_4, encS_9_1, encS_8_2, encS_7_3, encS_7_1, encS_6_4, encS_5_5, encS_5_4, encS_4_6, encS_4_3, encS_3_4, encS_2_8, encS_2_3, encS_1_9, encS_0_10, encS_0_6, encS_0_5, encS_0_4, encS_0_3, encS_0_2, encS_0_1,
    BitVec.extractLsb'_append_eq_of_le, BitVec.extractLsb'_append_eq_of_add_le, Nat.reduceSub, BitVec.extractLsb'_eq_self,
    BitVec.reduceExtractLsb', Nat.sub_self, Nat.sub_zero, BitVec.reduceToNat, List.any_nil, List.any_cons, id_eq, Bool.false_eq_true, Bool.or_false, Bool.or_self, if_false, ne_eq, not_true_eq_false, decide_false,
    BitVec.reduceEq, not_false_eq_true, decide_true, BitVec.ofNat_eq_ofNat, reduceIte]
theorem RoundTrip.vadd (x1 : BitVec 4) (x2 : BitVec 4) (x3 : BitVec 4) (x4 : BitVec 3) (x5 : BitVec 2) : RoundTrip.Statement (.vadd x1 x2 x3 x4 x5) := by
  intro _ h
  simp only [Instr.wf, scopeOk, orderOk, levelOk, widthOk, formatOk, bitsOk, windowOk, fieldOk, Bool.and_eq_true,
    Bool.or_eq_true, Bool.not_eq_true', decide_eq_true_eq, decide_eq_false_iff_not] at h
  show decodeAny (encV 24 x1 x2 x3 x4 x5 0#9) = .ok (.vadd x1 x2 x3 x4 x5)
  simp only [decodeAny, decVint, legal, encV_26_6, encV_25_1, encV_22_4, encV_22_3, encV_21_1, encV_18_4, encV_18_3, encV_17_1, encV_16_1, encV_14_4, encV_14_3, encV_11_3, encV_9_2, encV_8_1, encV_5_4, encV_4_4, encV_0_9, encV_0_5, encV_0_4,
    BitVec.reduceToNat, List.any_nil, List.any_cons, id_eq, Bool.false_eq_true, Bool.or_false, Bool.or_self, if_false, ne_eq, not_true_eq_false, decide_false,
    BitVec.reduceEq, not_false_eq_true, decide_true, BitVec.ofNat_eq_ofNat, reduceIte]
  simp_all
theorem RoundTrip.vsub (x1 : BitVec 4) (x2 : BitVec 4) (x3 : BitVec 4) (x4 : BitVec 3) (x5 : BitVec 2) : RoundTrip.Statement (.vsub x1 x2 x3 x4 x5) := by
  intro _ h
  simp only [Instr.wf, scopeOk, orderOk, levelOk, widthOk, formatOk, bitsOk, windowOk, fieldOk, Bool.and_eq_true,
    Bool.or_eq_true, Bool.not_eq_true', decide_eq_true_eq, decide_eq_false_iff_not] at h
  show decodeAny (encV 24 x1 x2 x3 x4 x5 1#9) = .ok (.vsub x1 x2 x3 x4 x5)
  simp only [decodeAny, decVint, legal, encV_26_6, encV_25_1, encV_22_4, encV_22_3, encV_21_1, encV_18_4, encV_18_3, encV_17_1, encV_16_1, encV_14_4, encV_14_3, encV_11_3, encV_9_2, encV_8_1, encV_5_4, encV_4_4, encV_0_9, encV_0_5, encV_0_4,
    BitVec.reduceToNat, List.any_nil, List.any_cons, id_eq, Bool.false_eq_true, Bool.or_false, Bool.or_self, if_false, ne_eq, not_true_eq_false, decide_false,
    BitVec.reduceEq, not_false_eq_true, decide_true, BitVec.ofNat_eq_ofNat, reduceIte]
  simp_all
theorem RoundTrip.vmul (x1 : BitVec 4) (x2 : BitVec 4) (x3 : BitVec 4) (x4 : BitVec 3) (x5 : BitVec 2) : RoundTrip.Statement (.vmul x1 x2 x3 x4 x5) := by
  intro _ h
  simp only [Instr.wf, scopeOk, orderOk, levelOk, widthOk, formatOk, bitsOk, windowOk, fieldOk, Bool.and_eq_true,
    Bool.or_eq_true, Bool.not_eq_true', decide_eq_true_eq, decide_eq_false_iff_not] at h
  show decodeAny (encV 24 x1 x2 x3 x4 x5 2#9) = .ok (.vmul x1 x2 x3 x4 x5)
  simp only [decodeAny, decVint, legal, encV_26_6, encV_25_1, encV_22_4, encV_22_3, encV_21_1, encV_18_4, encV_18_3, encV_17_1, encV_16_1, encV_14_4, encV_14_3, encV_11_3, encV_9_2, encV_8_1, encV_5_4, encV_4_4, encV_0_9, encV_0_5, encV_0_4,
    BitVec.reduceToNat, List.any_nil, List.any_cons, id_eq, Bool.false_eq_true, Bool.or_false, Bool.or_self, if_false, ne_eq, not_true_eq_false, decide_false,
    BitVec.reduceEq, not_false_eq_true, decide_true, BitVec.ofNat_eq_ofNat, reduceIte]
  simp_all
theorem RoundTrip.vmulh (x1 : BitVec 4) (x2 : BitVec 4) (x3 : BitVec 4) (x4 : BitVec 3) (x5 : BitVec 2) : RoundTrip.Statement (.vmulh x1 x2 x3 x4 x5) := by
  intro _ h
  simp only [Instr.wf, scopeOk, orderOk, levelOk, widthOk, formatOk, bitsOk, windowOk, fieldOk, Bool.and_eq_true,
    Bool.or_eq_true, Bool.not_eq_true', decide_eq_true_eq, decide_eq_false_iff_not] at h
  show decodeAny (encV 24 x1 x2 x3 x4 x5 3#9) = .ok (.vmulh x1 x2 x3 x4 x5)
  simp only [decodeAny, decVint, legal, encV_26_6, encV_25_1, encV_22_4, encV_22_3, encV_21_1, encV_18_4, encV_18_3, encV_17_1, encV_16_1, encV_14_4, encV_14_3, encV_11_3, encV_9_2, encV_8_1, encV_5_4, encV_4_4, encV_0_9, encV_0_5, encV_0_4,
    BitVec.reduceToNat, List.any_nil, List.any_cons, id_eq, Bool.false_eq_true, Bool.or_false, Bool.or_self, if_false, ne_eq, not_true_eq_false, decide_false,
    BitVec.reduceEq, not_false_eq_true, decide_true, BitVec.ofNat_eq_ofNat, reduceIte]
  simp_all
theorem RoundTrip.vand (x1 : BitVec 4) (x2 : BitVec 4) (x3 : BitVec 4) (x4 : BitVec 3) (x5 : BitVec 2) : RoundTrip.Statement (.vand x1 x2 x3 x4 x5) := by
  intro _ h
  simp only [Instr.wf, scopeOk, orderOk, levelOk, widthOk, formatOk, bitsOk, windowOk, fieldOk, Bool.and_eq_true,
    Bool.or_eq_true, Bool.not_eq_true', decide_eq_true_eq, decide_eq_false_iff_not] at h
  show decodeAny (encV 24 x1 x2 x3 x4 x5 4#9) = .ok (.vand x1 x2 x3 x4 x5)
  simp only [decodeAny, decVint, legal, encV_26_6, encV_25_1, encV_22_4, encV_22_3, encV_21_1, encV_18_4, encV_18_3, encV_17_1, encV_16_1, encV_14_4, encV_14_3, encV_11_3, encV_9_2, encV_8_1, encV_5_4, encV_4_4, encV_0_9, encV_0_5, encV_0_4,
    BitVec.reduceToNat, List.any_nil, List.any_cons, id_eq, Bool.false_eq_true, Bool.or_false, Bool.or_self, if_false, ne_eq, not_true_eq_false, decide_false,
    BitVec.reduceEq, not_false_eq_true, decide_true, BitVec.ofNat_eq_ofNat, reduceIte]
  simp_all
theorem RoundTrip.vor (x1 : BitVec 4) (x2 : BitVec 4) (x3 : BitVec 4) (x4 : BitVec 3) (x5 : BitVec 2) : RoundTrip.Statement (.vor x1 x2 x3 x4 x5) := by
  intro _ h
  simp only [Instr.wf, scopeOk, orderOk, levelOk, widthOk, formatOk, bitsOk, windowOk, fieldOk, Bool.and_eq_true,
    Bool.or_eq_true, Bool.not_eq_true', decide_eq_true_eq, decide_eq_false_iff_not] at h
  show decodeAny (encV 24 x1 x2 x3 x4 x5 5#9) = .ok (.vor x1 x2 x3 x4 x5)
  simp only [decodeAny, decVint, legal, encV_26_6, encV_25_1, encV_22_4, encV_22_3, encV_21_1, encV_18_4, encV_18_3, encV_17_1, encV_16_1, encV_14_4, encV_14_3, encV_11_3, encV_9_2, encV_8_1, encV_5_4, encV_4_4, encV_0_9, encV_0_5, encV_0_4,
    BitVec.reduceToNat, List.any_nil, List.any_cons, id_eq, Bool.false_eq_true, Bool.or_false, Bool.or_self, if_false, ne_eq, not_true_eq_false, decide_false,
    BitVec.reduceEq, not_false_eq_true, decide_true, BitVec.ofNat_eq_ofNat, reduceIte]
  simp_all
theorem RoundTrip.vxor (x1 : BitVec 4) (x2 : BitVec 4) (x3 : BitVec 4) (x4 : BitVec 3) (x5 : BitVec 2) : RoundTrip.Statement (.vxor x1 x2 x3 x4 x5) := by
  intro _ h
  simp only [Instr.wf, scopeOk, orderOk, levelOk, widthOk, formatOk, bitsOk, windowOk, fieldOk, Bool.and_eq_true,
    Bool.or_eq_true, Bool.not_eq_true', decide_eq_true_eq, decide_eq_false_iff_not] at h
  show decodeAny (encV 24 x1 x2 x3 x4 x5 6#9) = .ok (.vxor x1 x2 x3 x4 x5)
  simp only [decodeAny, decVint, legal, encV_26_6, encV_25_1, encV_22_4, encV_22_3, encV_21_1, encV_18_4, encV_18_3, encV_17_1, encV_16_1, encV_14_4, encV_14_3, encV_11_3, encV_9_2, encV_8_1, encV_5_4, encV_4_4, encV_0_9, encV_0_5, encV_0_4,
    BitVec.reduceToNat, List.any_nil, List.any_cons, id_eq, Bool.false_eq_true, Bool.or_false, Bool.or_self, if_false, ne_eq, not_true_eq_false, decide_false,
    BitVec.reduceEq, not_false_eq_true, decide_true, BitVec.ofNat_eq_ofNat, reduceIte]
  simp_all
theorem RoundTrip.vsll (x1 : BitVec 4) (x2 : BitVec 4) (x3 : BitVec 4) (x4 : BitVec 3) (x5 : BitVec 2) : RoundTrip.Statement (.vsll x1 x2 x3 x4 x5) := by
  intro _ h
  simp only [Instr.wf, scopeOk, orderOk, levelOk, widthOk, formatOk, bitsOk, windowOk, fieldOk, Bool.and_eq_true,
    Bool.or_eq_true, Bool.not_eq_true', decide_eq_true_eq, decide_eq_false_iff_not] at h
  show decodeAny (encV 24 x1 x2 x3 x4 x5 7#9) = .ok (.vsll x1 x2 x3 x4 x5)
  simp only [decodeAny, decVint, legal, encV_26_6, encV_25_1, encV_22_4, encV_22_3, encV_21_1, encV_18_4, encV_18_3, encV_17_1, encV_16_1, encV_14_4, encV_14_3, encV_11_3, encV_9_2, encV_8_1, encV_5_4, encV_4_4, encV_0_9, encV_0_5, encV_0_4,
    BitVec.reduceToNat, List.any_nil, List.any_cons, id_eq, Bool.false_eq_true, Bool.or_false, Bool.or_self, if_false, ne_eq, not_true_eq_false, decide_false,
    BitVec.reduceEq, not_false_eq_true, decide_true, BitVec.ofNat_eq_ofNat, reduceIte]
  simp_all
theorem RoundTrip.vsrl (x1 : BitVec 4) (x2 : BitVec 4) (x3 : BitVec 4) (x4 : BitVec 3) (x5 : BitVec 2) : RoundTrip.Statement (.vsrl x1 x2 x3 x4 x5) := by
  intro _ h
  simp only [Instr.wf, scopeOk, orderOk, levelOk, widthOk, formatOk, bitsOk, windowOk, fieldOk, Bool.and_eq_true,
    Bool.or_eq_true, Bool.not_eq_true', decide_eq_true_eq, decide_eq_false_iff_not] at h
  show decodeAny (encV 24 x1 x2 x3 x4 x5 8#9) = .ok (.vsrl x1 x2 x3 x4 x5)
  simp only [decodeAny, decVint, legal, encV_26_6, encV_25_1, encV_22_4, encV_22_3, encV_21_1, encV_18_4, encV_18_3, encV_17_1, encV_16_1, encV_14_4, encV_14_3, encV_11_3, encV_9_2, encV_8_1, encV_5_4, encV_4_4, encV_0_9, encV_0_5, encV_0_4,
    BitVec.reduceToNat, List.any_nil, List.any_cons, id_eq, Bool.false_eq_true, Bool.or_false, Bool.or_self, if_false, ne_eq, not_true_eq_false, decide_false,
    BitVec.reduceEq, not_false_eq_true, decide_true, BitVec.ofNat_eq_ofNat, reduceIte]
  simp_all
theorem RoundTrip.vsra (x1 : BitVec 4) (x2 : BitVec 4) (x3 : BitVec 4) (x4 : BitVec 3) (x5 : BitVec 2) : RoundTrip.Statement (.vsra x1 x2 x3 x4 x5) := by
  intro _ h
  simp only [Instr.wf, scopeOk, orderOk, levelOk, widthOk, formatOk, bitsOk, windowOk, fieldOk, Bool.and_eq_true,
    Bool.or_eq_true, Bool.not_eq_true', decide_eq_true_eq, decide_eq_false_iff_not] at h
  show decodeAny (encV 24 x1 x2 x3 x4 x5 9#9) = .ok (.vsra x1 x2 x3 x4 x5)
  simp only [decodeAny, decVint, legal, encV_26_6, encV_25_1, encV_22_4, encV_22_3, encV_21_1, encV_18_4, encV_18_3, encV_17_1, encV_16_1, encV_14_4, encV_14_3, encV_11_3, encV_9_2, encV_8_1, encV_5_4, encV_4_4, encV_0_9, encV_0_5, encV_0_4,
    BitVec.reduceToNat, List.any_nil, List.any_cons, id_eq, Bool.false_eq_true, Bool.or_false, Bool.or_self, if_false, ne_eq, not_true_eq_false, decide_false,
    BitVec.reduceEq, not_false_eq_true, decide_true, BitVec.ofNat_eq_ofNat, reduceIte]
  simp_all
theorem RoundTrip.vmin (x1 : BitVec 4) (x2 : BitVec 4) (x3 : BitVec 4) (x4 : BitVec 3) (x5 : BitVec 2) : RoundTrip.Statement (.vmin x1 x2 x3 x4 x5) := by
  intro _ h
  simp only [Instr.wf, scopeOk, orderOk, levelOk, widthOk, formatOk, bitsOk, windowOk, fieldOk, Bool.and_eq_true,
    Bool.or_eq_true, Bool.not_eq_true', decide_eq_true_eq, decide_eq_false_iff_not] at h
  show decodeAny (encV 24 x1 x2 x3 x4 x5 10#9) = .ok (.vmin x1 x2 x3 x4 x5)
  simp only [decodeAny, decVint, legal, encV_26_6, encV_25_1, encV_22_4, encV_22_3, encV_21_1, encV_18_4, encV_18_3, encV_17_1, encV_16_1, encV_14_4, encV_14_3, encV_11_3, encV_9_2, encV_8_1, encV_5_4, encV_4_4, encV_0_9, encV_0_5, encV_0_4,
    BitVec.reduceToNat, List.any_nil, List.any_cons, id_eq, Bool.false_eq_true, Bool.or_false, Bool.or_self, if_false, ne_eq, not_true_eq_false, decide_false,
    BitVec.reduceEq, not_false_eq_true, decide_true, BitVec.ofNat_eq_ofNat, reduceIte]
  simp_all
theorem RoundTrip.vmax (x1 : BitVec 4) (x2 : BitVec 4) (x3 : BitVec 4) (x4 : BitVec 3) (x5 : BitVec 2) : RoundTrip.Statement (.vmax x1 x2 x3 x4 x5) := by
  intro _ h
  simp only [Instr.wf, scopeOk, orderOk, levelOk, widthOk, formatOk, bitsOk, windowOk, fieldOk, Bool.and_eq_true,
    Bool.or_eq_true, Bool.not_eq_true', decide_eq_true_eq, decide_eq_false_iff_not] at h
  show decodeAny (encV 24 x1 x2 x3 x4 x5 11#9) = .ok (.vmax x1 x2 x3 x4 x5)
  simp only [decodeAny, decVint, legal, encV_26_6, encV_25_1, encV_22_4, encV_22_3, encV_21_1, encV_18_4, encV_18_3, encV_17_1, encV_16_1, encV_14_4, encV_14_3, encV_11_3, encV_9_2, encV_8_1, encV_5_4, encV_4_4, encV_0_9, encV_0_5, encV_0_4,
    BitVec.reduceToNat, List.any_nil, List.any_cons, id_eq, Bool.false_eq_true, Bool.or_false, Bool.or_self, if_false, ne_eq, not_true_eq_false, decide_false,
    BitVec.reduceEq, not_false_eq_true, decide_true, BitVec.ofNat_eq_ofNat, reduceIte]
  simp_all
theorem RoundTrip.vminu (x1 : BitVec 4) (x2 : BitVec 4) (x3 : BitVec 4) (x4 : BitVec 3) (x5 : BitVec 2) : RoundTrip.Statement (.vminu x1 x2 x3 x4 x5) := by
  intro _ h
  simp only [Instr.wf, scopeOk, orderOk, levelOk, widthOk, formatOk, bitsOk, windowOk, fieldOk, Bool.and_eq_true,
    Bool.or_eq_true, Bool.not_eq_true', decide_eq_true_eq, decide_eq_false_iff_not] at h
  show decodeAny (encV 24 x1 x2 x3 x4 x5 12#9) = .ok (.vminu x1 x2 x3 x4 x5)
  simp only [decodeAny, decVint, legal, encV_26_6, encV_25_1, encV_22_4, encV_22_3, encV_21_1, encV_18_4, encV_18_3, encV_17_1, encV_16_1, encV_14_4, encV_14_3, encV_11_3, encV_9_2, encV_8_1, encV_5_4, encV_4_4, encV_0_9, encV_0_5, encV_0_4,
    BitVec.reduceToNat, List.any_nil, List.any_cons, id_eq, Bool.false_eq_true, Bool.or_false, Bool.or_self, if_false, ne_eq, not_true_eq_false, decide_false,
    BitVec.reduceEq, not_false_eq_true, decide_true, BitVec.ofNat_eq_ofNat, reduceIte]
  simp_all
theorem RoundTrip.vmaxu (x1 : BitVec 4) (x2 : BitVec 4) (x3 : BitVec 4) (x4 : BitVec 3) (x5 : BitVec 2) : RoundTrip.Statement (.vmaxu x1 x2 x3 x4 x5) := by
  intro _ h
  simp only [Instr.wf, scopeOk, orderOk, levelOk, widthOk, formatOk, bitsOk, windowOk, fieldOk, Bool.and_eq_true,
    Bool.or_eq_true, Bool.not_eq_true', decide_eq_true_eq, decide_eq_false_iff_not] at h
  show decodeAny (encV 24 x1 x2 x3 x4 x5 13#9) = .ok (.vmaxu x1 x2 x3 x4 x5)
  simp only [decodeAny, decVint, legal, encV_26_6, encV_25_1, encV_22_4, encV_22_3, encV_21_1, encV_18_4, encV_18_3, encV_17_1, encV_16_1, encV_14_4, encV_14_3, encV_11_3, encV_9_2, encV_8_1, encV_5_4, encV_4_4, encV_0_9, encV_0_5, encV_0_4,
    BitVec.reduceToNat, List.any_nil, List.any_cons, id_eq, Bool.false_eq_true, Bool.or_false, Bool.or_self, if_false, ne_eq, not_true_eq_false, decide_false,
    BitVec.reduceEq, not_false_eq_true, decide_true, BitVec.ofNat_eq_ofNat, reduceIte]
  simp_all
theorem RoundTrip.vadds (x1 : BitVec 4) (x2 : BitVec 4) (x3 : BitVec 4) (x4 : BitVec 3) (x5 : BitVec 2) : RoundTrip.Statement (.vadds x1 x2 x3 x4 x5) := by
  intro _ h
  simp only [Instr.wf, scopeOk, orderOk, levelOk, widthOk, formatOk, bitsOk, windowOk, fieldOk, Bool.and_eq_true,
    Bool.or_eq_true, Bool.not_eq_true', decide_eq_true_eq, decide_eq_false_iff_not] at h
  show decodeAny (encV 24 x1 x2 x3 x4 x5 14#9) = .ok (.vadds x1 x2 x3 x4 x5)
  simp only [decodeAny, decVint, legal, encV_26_6, encV_25_1, encV_22_4, encV_22_3, encV_21_1, encV_18_4, encV_18_3, encV_17_1, encV_16_1, encV_14_4, encV_14_3, encV_11_3, encV_9_2, encV_8_1, encV_5_4, encV_4_4, encV_0_9, encV_0_5, encV_0_4,
    BitVec.reduceToNat, List.any_nil, List.any_cons, id_eq, Bool.false_eq_true, Bool.or_false, Bool.or_self, if_false, ne_eq, not_true_eq_false, decide_false,
    BitVec.reduceEq, not_false_eq_true, decide_true, BitVec.ofNat_eq_ofNat, reduceIte]
  simp_all
theorem RoundTrip.vsubs (x1 : BitVec 4) (x2 : BitVec 4) (x3 : BitVec 4) (x4 : BitVec 3) (x5 : BitVec 2) : RoundTrip.Statement (.vsubs x1 x2 x3 x4 x5) := by
  intro _ h
  simp only [Instr.wf, scopeOk, orderOk, levelOk, widthOk, formatOk, bitsOk, windowOk, fieldOk, Bool.and_eq_true,
    Bool.or_eq_true, Bool.not_eq_true', decide_eq_true_eq, decide_eq_false_iff_not] at h
  show decodeAny (encV 24 x1 x2 x3 x4 x5 15#9) = .ok (.vsubs x1 x2 x3 x4 x5)
  simp only [decodeAny, decVint, legal, encV_26_6, encV_25_1, encV_22_4, encV_22_3, encV_21_1, encV_18_4, encV_18_3, encV_17_1, encV_16_1, encV_14_4, encV_14_3, encV_11_3, encV_9_2, encV_8_1, encV_5_4, encV_4_4, encV_0_9, encV_0_5, encV_0_4,
    BitVec.reduceToNat, List.any_nil, List.any_cons, id_eq, Bool.false_eq_true, Bool.or_false, Bool.or_self, if_false, ne_eq, not_true_eq_false, decide_false,
    BitVec.reduceEq, not_false_eq_true, decide_true, BitVec.ofNat_eq_ofNat, reduceIte]
  simp_all
theorem RoundTrip.vfadd (x1 : BitVec 4) (x2 : BitVec 4) (x3 : BitVec 4) (x4 : BitVec 3) (x5 : BitVec 2) : RoundTrip.Statement (.vfadd x1 x2 x3 x4 x5) := by
  intro _ h
  simp only [Instr.wf, scopeOk, orderOk, levelOk, widthOk, formatOk, bitsOk, windowOk, fieldOk, Bool.and_eq_true,
    Bool.or_eq_true, Bool.not_eq_true', decide_eq_true_eq, decide_eq_false_iff_not] at h
  show decodeAny (encV 25 x1 x2 x3 x4 x5 0#9) = .ok (.vfadd x1 x2 x3 x4 x5)
  simp only [decodeAny, decVfp, legal, encV_26_6, encV_25_1, encV_22_4, encV_22_3, encV_21_1, encV_18_4, encV_18_3, encV_17_1, encV_16_1, encV_14_4, encV_14_3, encV_11_3, encV_9_2, encV_8_1, encV_5_4, encV_4_4, encV_0_9, encV_0_5, encV_0_4,
    BitVec.reduceToNat, List.any_nil, List.any_cons, id_eq, Bool.false_eq_true, Bool.or_false, Bool.or_self, if_false, ne_eq, not_true_eq_false, decide_false,
    BitVec.reduceEq, not_false_eq_true, decide_true, BitVec.ofNat_eq_ofNat, reduceIte]
  rcases h with rfl | rfl <;> rfl
theorem RoundTrip.vfsub (x1 : BitVec 4) (x2 : BitVec 4) (x3 : BitVec 4) (x4 : BitVec 3) (x5 : BitVec 2) : RoundTrip.Statement (.vfsub x1 x2 x3 x4 x5) := by
  intro _ h
  simp only [Instr.wf, scopeOk, orderOk, levelOk, widthOk, formatOk, bitsOk, windowOk, fieldOk, Bool.and_eq_true,
    Bool.or_eq_true, Bool.not_eq_true', decide_eq_true_eq, decide_eq_false_iff_not] at h
  show decodeAny (encV 25 x1 x2 x3 x4 x5 1#9) = .ok (.vfsub x1 x2 x3 x4 x5)
  simp only [decodeAny, decVfp, legal, encV_26_6, encV_25_1, encV_22_4, encV_22_3, encV_21_1, encV_18_4, encV_18_3, encV_17_1, encV_16_1, encV_14_4, encV_14_3, encV_11_3, encV_9_2, encV_8_1, encV_5_4, encV_4_4, encV_0_9, encV_0_5, encV_0_4,
    BitVec.reduceToNat, List.any_nil, List.any_cons, id_eq, Bool.false_eq_true, Bool.or_false, Bool.or_self, if_false, ne_eq, not_true_eq_false, decide_false,
    BitVec.reduceEq, not_false_eq_true, decide_true, BitVec.ofNat_eq_ofNat, reduceIte]
  rcases h with rfl | rfl <;> rfl
theorem RoundTrip.vfmul (x1 : BitVec 4) (x2 : BitVec 4) (x3 : BitVec 4) (x4 : BitVec 3) (x5 : BitVec 2) : RoundTrip.Statement (.vfmul x1 x2 x3 x4 x5) := by
  intro _ h
  simp only [Instr.wf, scopeOk, orderOk, levelOk, widthOk, formatOk, bitsOk, windowOk, fieldOk, Bool.and_eq_true,
    Bool.or_eq_true, Bool.not_eq_true', decide_eq_true_eq, decide_eq_false_iff_not] at h
  show decodeAny (encV 25 x1 x2 x3 x4 x5 2#9) = .ok (.vfmul x1 x2 x3 x4 x5)
  simp only [decodeAny, decVfp, legal, encV_26_6, encV_25_1, encV_22_4, encV_22_3, encV_21_1, encV_18_4, encV_18_3, encV_17_1, encV_16_1, encV_14_4, encV_14_3, encV_11_3, encV_9_2, encV_8_1, encV_5_4, encV_4_4, encV_0_9, encV_0_5, encV_0_4,
    BitVec.reduceToNat, List.any_nil, List.any_cons, id_eq, Bool.false_eq_true, Bool.or_false, Bool.or_self, if_false, ne_eq, not_true_eq_false, decide_false,
    BitVec.reduceEq, not_false_eq_true, decide_true, BitVec.ofNat_eq_ofNat, reduceIte]
  rcases h with rfl | rfl <;> rfl
theorem RoundTrip.vfdiv (x1 : BitVec 4) (x2 : BitVec 4) (x3 : BitVec 4) (x4 : BitVec 3) (x5 : BitVec 2) : RoundTrip.Statement (.vfdiv x1 x2 x3 x4 x5) := by
  intro _ h
  simp only [Instr.wf, scopeOk, orderOk, levelOk, widthOk, formatOk, bitsOk, windowOk, fieldOk, Bool.and_eq_true,
    Bool.or_eq_true, Bool.not_eq_true', decide_eq_true_eq, decide_eq_false_iff_not] at h
  show decodeAny (encV 25 x1 x2 x3 x4 x5 3#9) = .ok (.vfdiv x1 x2 x3 x4 x5)
  simp only [decodeAny, decVfp, legal, encV_26_6, encV_25_1, encV_22_4, encV_22_3, encV_21_1, encV_18_4, encV_18_3, encV_17_1, encV_16_1, encV_14_4, encV_14_3, encV_11_3, encV_9_2, encV_8_1, encV_5_4, encV_4_4, encV_0_9, encV_0_5, encV_0_4,
    BitVec.reduceToNat, List.any_nil, List.any_cons, id_eq, Bool.false_eq_true, Bool.or_false, Bool.or_self, if_false, ne_eq, not_true_eq_false, decide_false,
    BitVec.reduceEq, not_false_eq_true, decide_true, BitVec.ofNat_eq_ofNat, reduceIte]
  rcases h with rfl | rfl <;> rfl
theorem RoundTrip.vfsqrt (x1 : BitVec 4) (x2 : BitVec 4) (x3 : BitVec 3) (x4 : BitVec 2) : RoundTrip.Statement (.vfsqrt x1 x2 x3 x4) := by
  intro _ h
  simp only [Instr.wf, scopeOk, orderOk, levelOk, widthOk, formatOk, bitsOk, windowOk, fieldOk, Bool.and_eq_true,
    Bool.or_eq_true, Bool.not_eq_true', decide_eq_true_eq, decide_eq_false_iff_not] at h
  show decodeAny (encV 25 x1 x2 0#4 x3 x4 4#9) = .ok (.vfsqrt x1 x2 x3 x4)
  simp only [decodeAny, decVfp, legal, encV_26_6, encV_25_1, encV_22_4, encV_22_3, encV_21_1, encV_18_4, encV_18_3, encV_17_1, encV_16_1, encV_14_4, encV_14_3, encV_11_3, encV_9_2, encV_8_1, encV_5_4, encV_4_4, encV_0_9, encV_0_5, encV_0_4,
    BitVec.reduceToNat, List.any_nil, List.any_cons, id_eq, Bool.false_eq_true, Bool.or_false, Bool.or_self, if_false, ne_eq, not_true_eq_false, decide_false,
    BitVec.reduceEq, not_false_eq_true, decide_true, BitVec.ofNat_eq_ofNat, reduceIte]
  rcases h with rfl | rfl <;> rfl
theorem RoundTrip.vfmin (x1 : BitVec 4) (x2 : BitVec 4) (x3 : BitVec 4) (x4 : BitVec 3) (x5 : BitVec 2) : RoundTrip.Statement (.vfmin x1 x2 x3 x4 x5) := by
  intro _ h
  simp only [Instr.wf, scopeOk, orderOk, levelOk, widthOk, formatOk, bitsOk, windowOk, fieldOk, Bool.and_eq_true,
    Bool.or_eq_true, Bool.not_eq_true', decide_eq_true_eq, decide_eq_false_iff_not] at h
  show decodeAny (encV 25 x1 x2 x3 x4 x5 5#9) = .ok (.vfmin x1 x2 x3 x4 x5)
  simp only [decodeAny, decVfp, legal, encV_26_6, encV_25_1, encV_22_4, encV_22_3, encV_21_1, encV_18_4, encV_18_3, encV_17_1, encV_16_1, encV_14_4, encV_14_3, encV_11_3, encV_9_2, encV_8_1, encV_5_4, encV_4_4, encV_0_9, encV_0_5, encV_0_4,
    BitVec.reduceToNat, List.any_nil, List.any_cons, id_eq, Bool.false_eq_true, Bool.or_false, Bool.or_self, if_false, ne_eq, not_true_eq_false, decide_false,
    BitVec.reduceEq, not_false_eq_true, decide_true, BitVec.ofNat_eq_ofNat, reduceIte]
  rcases h with rfl | rfl <;> rfl
theorem RoundTrip.vfmax (x1 : BitVec 4) (x2 : BitVec 4) (x3 : BitVec 4) (x4 : BitVec 3) (x5 : BitVec 2) : RoundTrip.Statement (.vfmax x1 x2 x3 x4 x5) := by
  intro _ h
  simp only [Instr.wf, scopeOk, orderOk, levelOk, widthOk, formatOk, bitsOk, windowOk, fieldOk, Bool.and_eq_true,
    Bool.or_eq_true, Bool.not_eq_true', decide_eq_true_eq, decide_eq_false_iff_not] at h
  show decodeAny (encV 25 x1 x2 x3 x4 x5 6#9) = .ok (.vfmax x1 x2 x3 x4 x5)
  simp only [decodeAny, decVfp, legal, encV_26_6, encV_25_1, encV_22_4, encV_22_3, encV_21_1, encV_18_4, encV_18_3, encV_17_1, encV_16_1, encV_14_4, encV_14_3, encV_11_3, encV_9_2, encV_8_1, encV_5_4, encV_4_4, encV_0_9, encV_0_5, encV_0_4,
    BitVec.reduceToNat, List.any_nil, List.any_cons, id_eq, Bool.false_eq_true, Bool.or_false, Bool.or_self, if_false, ne_eq, not_true_eq_false, decide_false,
    BitVec.reduceEq, not_false_eq_true, decide_true, BitVec.ofNat_eq_ofNat, reduceIte]
  rcases h with rfl | rfl <;> rfl
theorem RoundTrip.vfexp2 (x1 : BitVec 4) (x2 : BitVec 4) (x3 : BitVec 3) (x4 : BitVec 2) : RoundTrip.Statement (.vfexp2 x1 x2 x3 x4) := by
  intro _ h
  simp only [Instr.wf, scopeOk, orderOk, levelOk, widthOk, formatOk, bitsOk, windowOk, fieldOk, Bool.and_eq_true,
    Bool.or_eq_true, Bool.not_eq_true', decide_eq_true_eq, decide_eq_false_iff_not] at h
  show decodeAny (encV 25 x1 x2 0#4 x3 x4 7#9) = .ok (.vfexp2 x1 x2 x3 x4)
  simp only [decodeAny, decVfp, legal, encV_26_6, encV_25_1, encV_22_4, encV_22_3, encV_21_1, encV_18_4, encV_18_3, encV_17_1, encV_16_1, encV_14_4, encV_14_3, encV_11_3, encV_9_2, encV_8_1, encV_5_4, encV_4_4, encV_0_9, encV_0_5, encV_0_4,
    BitVec.reduceToNat, List.any_nil, List.any_cons, id_eq, Bool.false_eq_true, Bool.or_false, Bool.or_self, if_false, ne_eq, not_true_eq_false, decide_false,
    BitVec.reduceEq, not_false_eq_true, decide_true, BitVec.ofNat_eq_ofNat, reduceIte]
  rcases h with rfl | rfl <;> rfl
theorem RoundTrip.vfrcp (x1 : BitVec 4) (x2 : BitVec 4) (x3 : BitVec 3) (x4 : BitVec 2) : RoundTrip.Statement (.vfrcp x1 x2 x3 x4) := by
  intro _ h
  simp only [Instr.wf, scopeOk, orderOk, levelOk, widthOk, formatOk, bitsOk, windowOk, fieldOk, Bool.and_eq_true,
    Bool.or_eq_true, Bool.not_eq_true', decide_eq_true_eq, decide_eq_false_iff_not] at h
  show decodeAny (encV 25 x1 x2 0#4 x3 x4 8#9) = .ok (.vfrcp x1 x2 x3 x4)
  simp only [decodeAny, decVfp, legal, encV_26_6, encV_25_1, encV_22_4, encV_22_3, encV_21_1, encV_18_4, encV_18_3, encV_17_1, encV_16_1, encV_14_4, encV_14_3, encV_11_3, encV_9_2, encV_8_1, encV_5_4, encV_4_4, encV_0_9, encV_0_5, encV_0_4,
    BitVec.reduceToNat, List.any_nil, List.any_cons, id_eq, Bool.false_eq_true, Bool.or_false, Bool.or_self, if_false, ne_eq, not_true_eq_false, decide_false,
    BitVec.reduceEq, not_false_eq_true, decide_true, BitVec.ofNat_eq_ofNat, reduceIte]
  rcases h with rfl | rfl <;> rfl
theorem RoundTrip.vfabs (x1 : BitVec 4) (x2 : BitVec 4) (x3 : BitVec 3) (x4 : BitVec 2) : RoundTrip.Statement (.vfabs x1 x2 x3 x4) := by
  intro _ h
  simp only [Instr.wf, scopeOk, orderOk, levelOk, widthOk, formatOk, bitsOk, windowOk, fieldOk, Bool.and_eq_true,
    Bool.or_eq_true, Bool.not_eq_true', decide_eq_true_eq, decide_eq_false_iff_not] at h
  show decodeAny (encV 25 x1 x2 0#4 x3 x4 9#9) = .ok (.vfabs x1 x2 x3 x4)
  simp only [decodeAny, decVfp, legal, encV_26_6, encV_25_1, encV_22_4, encV_22_3, encV_21_1, encV_18_4, encV_18_3, encV_17_1, encV_16_1, encV_14_4, encV_14_3, encV_11_3, encV_9_2, encV_8_1, encV_5_4, encV_4_4, encV_0_9, encV_0_5, encV_0_4,
    BitVec.reduceToNat, List.any_nil, List.any_cons, id_eq, Bool.false_eq_true, Bool.or_false, Bool.or_self, if_false, ne_eq, not_true_eq_false, decide_false,
    BitVec.reduceEq, not_false_eq_true, decide_true, BitVec.ofNat_eq_ofNat, reduceIte]
  rcases h with rfl | rfl <;> rfl
theorem RoundTrip.vfneg (x1 : BitVec 4) (x2 : BitVec 4) (x3 : BitVec 3) (x4 : BitVec 2) : RoundTrip.Statement (.vfneg x1 x2 x3 x4) := by
  intro _ h
  simp only [Instr.wf, scopeOk, orderOk, levelOk, widthOk, formatOk, bitsOk, windowOk, fieldOk, Bool.and_eq_true,
    Bool.or_eq_true, Bool.not_eq_true', decide_eq_true_eq, decide_eq_false_iff_not] at h
  show decodeAny (encV 25 x1 x2 0#4 x3 x4 10#9) = .ok (.vfneg x1 x2 x3 x4)
  simp only [decodeAny, decVfp, legal, encV_26_6, encV_25_1, encV_22_4, encV_22_3, encV_21_1, encV_18_4, encV_18_3, encV_17_1, encV_16_1, encV_14_4, encV_14_3, encV_11_3, encV_9_2, encV_8_1, encV_5_4, encV_4_4, encV_0_9, encV_0_5, encV_0_4,
    BitVec.reduceToNat, List.any_nil, List.any_cons, id_eq, Bool.false_eq_true, Bool.or_false, Bool.or_self, if_false, ne_eq, not_true_eq_false, decide_false,
    BitVec.reduceEq, not_false_eq_true, decide_true, BitVec.ofNat_eq_ofNat, reduceIte]
  rcases h with rfl | rfl <;> rfl
theorem RoundTrip.vfma (x1 : BitVec 4) (x2 : BitVec 4) (x3 : BitVec 4) (x4 : BitVec 4) (x5 : BitVec 3) : RoundTrip.Statement (.vfma x1 x2 x3 x4 x5) := by
  intro _ _
  show decodeAny (encVF 26 x1 x2 x3 x4 x5 0#7) = .ok (.vfma x1 x2 x3 x4 x5)
  simp (disch := omega) only [decodeAny, decVfma, legal, encVF_26_6, encVF_22_4, encVF_18_4, encVF_14_4, encVF_10_4, encVF_7_3, encVF_5_2, encVF_0_5,
    BitVec.extractLsb'_append_eq_of_le, BitVec.extractLsb'_append_eq_of_add_le, Nat.reduceSub, BitVec.extractLsb'_eq_self,
    BitVec.reduceExtractLsb', Nat.sub_self, Nat.sub_zero, BitVec.reduceToNat, List.any_nil, List.any_cons, id_eq, Bool.false_eq_true, Bool.or_false, Bool.or_self, if_false, ne_eq, not_true_eq_false, decide_false,
    BitVec.reduceEq, not_false_eq_true, decide_true, BitVec.ofNat_eq_ofNat, reduceIte]
theorem RoundTrip.vfms (x1 : BitVec 4) (x2 : BitVec 4) (x3 : BitVec 4) (x4 : BitVec 4) (x5 : BitVec 3) : RoundTrip.Statement (.vfms x1 x2 x3 x4 x5) := by
  intro _ _
  show decodeAny (encVF 26 x1 x2 x3 x4 x5 1#7) = .ok (.vfms x1 x2 x3 x4 x5)
  simp (disch := omega) only [decodeAny, decVfma, legal, encVF_26_6, encVF_22_4, encVF_18_4, encVF_14_4, encVF_10_4, encVF_7_3, encVF_5_2, encVF_0_5,
    BitVec.extractLsb'_append_eq_of_le, BitVec.extractLsb'_append_eq_of_add_le, Nat.reduceSub, BitVec.extractLsb'_eq_self,
    BitVec.reduceExtractLsb', Nat.sub_self, Nat.sub_zero, BitVec.reduceToNat, List.any_nil, List.any_cons, id_eq, Bool.false_eq_true, Bool.or_false, Bool.or_self, if_false, ne_eq, not_true_eq_false, decide_false,
    BitVec.reduceEq, not_false_eq_true, decide_true, BitVec.ofNat_eq_ofNat, reduceIte]
theorem RoundTrip.vfnma (x1 : BitVec 4) (x2 : BitVec 4) (x3 : BitVec 4) (x4 : BitVec 4) (x5 : BitVec 3) : RoundTrip.Statement (.vfnma x1 x2 x3 x4 x5) := by
  intro _ _
  show decodeAny (encVF 26 x1 x2 x3 x4 x5 2#7) = .ok (.vfnma x1 x2 x3 x4 x5)
  simp (disch := omega) only [decodeAny, decVfma, legal, encVF_26_6, encVF_22_4, encVF_18_4, encVF_14_4, encVF_10_4, encVF_7_3, encVF_5_2, encVF_0_5,
    BitVec.extractLsb'_append_eq_of_le, BitVec.extractLsb'_append_eq_of_add_le, Nat.reduceSub, BitVec.extractLsb'_eq_self,
    BitVec.reduceExtractLsb', Nat.sub_self, Nat.sub_zero, BitVec.reduceToNat, List.any_nil, List.any_cons, id_eq, Bool.false_eq_true, Bool.or_false, Bool.or_self, if_false, ne_eq, not_true_eq_false, decide_false,
    BitVec.reduceEq, not_false_eq_true, decide_true, BitVec.ofNat_eq_ofNat, reduceIte]
theorem RoundTrip.vcmpEq (x1 : BitVec 3) (x2 : BitVec 4) (x3 : BitVec 4) (x4 : BitVec 3) (x5 : BitVec 2) : RoundTrip.Statement (.vcmpEq x1 x2 x3 x4 x5) := by
  intro _ h
  simp only [Instr.wf, scopeOk, orderOk, levelOk, widthOk, formatOk, bitsOk, windowOk, fieldOk, Bool.and_eq_true,
    Bool.or_eq_true, Bool.not_eq_true', decide_eq_true_eq, decide_eq_false_iff_not] at h
  show decodeAny (encV 27 (0#1 ++ x1) x2 x3 x4 x5 0#9) = .ok (.vcmpEq x1 x2 x3 x4 x5)
  simp (disch := omega) only [decodeAny, decVmask, legal, encV_26_6, encV_25_1, encV_22_4, encV_22_3, encV_21_1, encV_18_4, encV_18_3, encV_17_1, encV_16_1, encV_14_4, encV_14_3, encV_11_3, encV_9_2, encV_8_1, encV_5_4, encV_4_4, encV_0_9, encV_0_5, encV_0_4,
    BitVec.extractLsb'_append_eq_of_le, BitVec.extractLsb'_append_eq_of_add_le, Nat.reduceSub, BitVec.extractLsb'_eq_self,
    BitVec.reduceExtractLsb', Nat.sub_self, Nat.sub_zero, BitVec.reduceToNat, List.any_nil, List.any_cons, id_eq, Bool.false_eq_true, Bool.or_false, Bool.or_self, if_false, ne_eq, not_true_eq_false, decide_false,
    BitVec.reduceEq, not_false_eq_true, decide_true, BitVec.ofNat_eq_ofNat, reduceIte]
  simp_all
theorem RoundTrip.vcmpNe (x1 : BitVec 3) (x2 : BitVec 4) (x3 : BitVec 4) (x4 : BitVec 3) (x5 : BitVec 2) : RoundTrip.Statement (.vcmpNe x1 x2 x3 x4 x5) := by
  intro _ h
  simp only [Instr.wf, scopeOk, orderOk, levelOk, widthOk, formatOk, bitsOk, windowOk, fieldOk, Bool.and_eq_true,
    Bool.or_eq_true, Bool.not_eq_true', decide_eq_true_eq, decide_eq_false_iff_not] at h
  show decodeAny (encV 27 (0#1 ++ x1) x2 x3 x4 x5 1#9) = .ok (.vcmpNe x1 x2 x3 x4 x5)
  simp (disch := omega) only [decodeAny, decVmask, legal, encV_26_6, encV_25_1, encV_22_4, encV_22_3, encV_21_1, encV_18_4, encV_18_3, encV_17_1, encV_16_1, encV_14_4, encV_14_3, encV_11_3, encV_9_2, encV_8_1, encV_5_4, encV_4_4, encV_0_9, encV_0_5, encV_0_4,
    BitVec.extractLsb'_append_eq_of_le, BitVec.extractLsb'_append_eq_of_add_le, Nat.reduceSub, BitVec.extractLsb'_eq_self,
    BitVec.reduceExtractLsb', Nat.sub_self, Nat.sub_zero, BitVec.reduceToNat, List.any_nil, List.any_cons, id_eq, Bool.false_eq_true, Bool.or_false, Bool.or_self, if_false, ne_eq, not_true_eq_false, decide_false,
    BitVec.reduceEq, not_false_eq_true, decide_true, BitVec.ofNat_eq_ofNat, reduceIte]
  simp_all
theorem RoundTrip.vcmpLt (x1 : BitVec 3) (x2 : BitVec 4) (x3 : BitVec 4) (x4 : BitVec 3) (x5 : BitVec 2) : RoundTrip.Statement (.vcmpLt x1 x2 x3 x4 x5) := by
  intro _ h
  simp only [Instr.wf, scopeOk, orderOk, levelOk, widthOk, formatOk, bitsOk, windowOk, fieldOk, Bool.and_eq_true,
    Bool.or_eq_true, Bool.not_eq_true', decide_eq_true_eq, decide_eq_false_iff_not] at h
  show decodeAny (encV 27 (0#1 ++ x1) x2 x3 x4 x5 2#9) = .ok (.vcmpLt x1 x2 x3 x4 x5)
  simp (disch := omega) only [decodeAny, decVmask, legal, encV_26_6, encV_25_1, encV_22_4, encV_22_3, encV_21_1, encV_18_4, encV_18_3, encV_17_1, encV_16_1, encV_14_4, encV_14_3, encV_11_3, encV_9_2, encV_8_1, encV_5_4, encV_4_4, encV_0_9, encV_0_5, encV_0_4,
    BitVec.extractLsb'_append_eq_of_le, BitVec.extractLsb'_append_eq_of_add_le, Nat.reduceSub, BitVec.extractLsb'_eq_self,
    BitVec.reduceExtractLsb', Nat.sub_self, Nat.sub_zero, BitVec.reduceToNat, List.any_nil, List.any_cons, id_eq, Bool.false_eq_true, Bool.or_false, Bool.or_self, if_false, ne_eq, not_true_eq_false, decide_false,
    BitVec.reduceEq, not_false_eq_true, decide_true, BitVec.ofNat_eq_ofNat, reduceIte]
  simp_all
theorem RoundTrip.vcmpGe (x1 : BitVec 3) (x2 : BitVec 4) (x3 : BitVec 4) (x4 : BitVec 3) (x5 : BitVec 2) : RoundTrip.Statement (.vcmpGe x1 x2 x3 x4 x5) := by
  intro _ h
  simp only [Instr.wf, scopeOk, orderOk, levelOk, widthOk, formatOk, bitsOk, windowOk, fieldOk, Bool.and_eq_true,
    Bool.or_eq_true, Bool.not_eq_true', decide_eq_true_eq, decide_eq_false_iff_not] at h
  show decodeAny (encV 27 (0#1 ++ x1) x2 x3 x4 x5 3#9) = .ok (.vcmpGe x1 x2 x3 x4 x5)
  simp (disch := omega) only [decodeAny, decVmask, legal, encV_26_6, encV_25_1, encV_22_4, encV_22_3, encV_21_1, encV_18_4, encV_18_3, encV_17_1, encV_16_1, encV_14_4, encV_14_3, encV_11_3, encV_9_2, encV_8_1, encV_5_4, encV_4_4, encV_0_9, encV_0_5, encV_0_4,
    BitVec.extractLsb'_append_eq_of_le, BitVec.extractLsb'_append_eq_of_add_le, Nat.reduceSub, BitVec.extractLsb'_eq_self,
    BitVec.reduceExtractLsb', Nat.sub_self, Nat.sub_zero, BitVec.reduceToNat, List.any_nil, List.any_cons, id_eq, Bool.false_eq_true, Bool.or_false, Bool.or_self, if_false, ne_eq, not_true_eq_false, decide_false,
    BitVec.reduceEq, not_false_eq_true, decide_true, BitVec.ofNat_eq_ofNat, reduceIte]
  simp_all
theorem RoundTrip.vcmpLtu (x1 : BitVec 3) (x2 : BitVec 4) (x3 : BitVec 4) (x4 : BitVec 3) (x5 : BitVec 2) : RoundTrip.Statement (.vcmpLtu x1 x2 x3 x4 x5) := by
  intro _ h
  simp only [Instr.wf, scopeOk, orderOk, levelOk, widthOk, formatOk, bitsOk, windowOk, fieldOk, Bool.and_eq_true,
    Bool.or_eq_true, Bool.not_eq_true', decide_eq_true_eq, decide_eq_false_iff_not] at h
  show decodeAny (encV 27 (0#1 ++ x1) x2 x3 x4 x5 4#9) = .ok (.vcmpLtu x1 x2 x3 x4 x5)
  simp (disch := omega) only [decodeAny, decVmask, legal, encV_26_6, encV_25_1, encV_22_4, encV_22_3, encV_21_1, encV_18_4, encV_18_3, encV_17_1, encV_16_1, encV_14_4, encV_14_3, encV_11_3, encV_9_2, encV_8_1, encV_5_4, encV_4_4, encV_0_9, encV_0_5, encV_0_4,
    BitVec.extractLsb'_append_eq_of_le, BitVec.extractLsb'_append_eq_of_add_le, Nat.reduceSub, BitVec.extractLsb'_eq_self,
    BitVec.reduceExtractLsb', Nat.sub_self, Nat.sub_zero, BitVec.reduceToNat, List.any_nil, List.any_cons, id_eq, Bool.false_eq_true, Bool.or_false, Bool.or_self, if_false, ne_eq, not_true_eq_false, decide_false,
    BitVec.reduceEq, not_false_eq_true, decide_true, BitVec.ofNat_eq_ofNat, reduceIte]
  simp_all
theorem RoundTrip.vcmpGeu (x1 : BitVec 3) (x2 : BitVec 4) (x3 : BitVec 4) (x4 : BitVec 3) (x5 : BitVec 2) : RoundTrip.Statement (.vcmpGeu x1 x2 x3 x4 x5) := by
  intro _ h
  simp only [Instr.wf, scopeOk, orderOk, levelOk, widthOk, formatOk, bitsOk, windowOk, fieldOk, Bool.and_eq_true,
    Bool.or_eq_true, Bool.not_eq_true', decide_eq_true_eq, decide_eq_false_iff_not] at h
  show decodeAny (encV 27 (0#1 ++ x1) x2 x3 x4 x5 5#9) = .ok (.vcmpGeu x1 x2 x3 x4 x5)
  simp (disch := omega) only [decodeAny, decVmask, legal, encV_26_6, encV_25_1, encV_22_4, encV_22_3, encV_21_1, encV_18_4, encV_18_3, encV_17_1, encV_16_1, encV_14_4, encV_14_3, encV_11_3, encV_9_2, encV_8_1, encV_5_4, encV_4_4, encV_0_9, encV_0_5, encV_0_4,
    BitVec.extractLsb'_append_eq_of_le, BitVec.extractLsb'_append_eq_of_add_le, Nat.reduceSub, BitVec.extractLsb'_eq_self,
    BitVec.reduceExtractLsb', Nat.sub_self, Nat.sub_zero, BitVec.reduceToNat, List.any_nil, List.any_cons, id_eq, Bool.false_eq_true, Bool.or_false, Bool.or_self, if_false, ne_eq, not_true_eq_false, decide_false,
    BitVec.reduceEq, not_false_eq_true, decide_true, BitVec.ofNat_eq_ofNat, reduceIte]
  simp_all
theorem RoundTrip.vfcmpEq (x1 : BitVec 3) (x2 : BitVec 4) (x3 : BitVec 4) (x4 : BitVec 3) (x5 : BitVec 2) : RoundTrip.Statement (.vfcmpEq x1 x2 x3 x4 x5) := by
  intro _ h
  simp only [Instr.wf, scopeOk, orderOk, levelOk, widthOk, formatOk, bitsOk, windowOk, fieldOk, Bool.and_eq_true,
    Bool.or_eq_true, Bool.not_eq_true', decide_eq_true_eq, decide_eq_false_iff_not] at h
  show decodeAny (encV 27 (0#1 ++ x1) x2 x3 x4 x5 8#9) = .ok (.vfcmpEq x1 x2 x3 x4 x5)
  simp (disch := omega) only [decodeAny, decVmask, legal, encV_26_6, encV_25_1, encV_22_4, encV_22_3, encV_21_1, encV_18_4, encV_18_3, encV_17_1, encV_16_1, encV_14_4, encV_14_3, encV_11_3, encV_9_2, encV_8_1, encV_5_4, encV_4_4, encV_0_9, encV_0_5, encV_0_4,
    BitVec.extractLsb'_append_eq_of_le, BitVec.extractLsb'_append_eq_of_add_le, Nat.reduceSub, BitVec.extractLsb'_eq_self,
    BitVec.reduceExtractLsb', Nat.sub_self, Nat.sub_zero, BitVec.reduceToNat, List.any_nil, List.any_cons, id_eq, Bool.false_eq_true, Bool.or_false, Bool.or_self, if_false, ne_eq, not_true_eq_false, decide_false,
    BitVec.reduceEq, not_false_eq_true, decide_true, BitVec.ofNat_eq_ofNat, reduceIte]
  rcases h with rfl | rfl <;> rfl
theorem RoundTrip.vfcmpLt (x1 : BitVec 3) (x2 : BitVec 4) (x3 : BitVec 4) (x4 : BitVec 3) (x5 : BitVec 2) : RoundTrip.Statement (.vfcmpLt x1 x2 x3 x4 x5) := by
  intro _ h
  simp only [Instr.wf, scopeOk, orderOk, levelOk, widthOk, formatOk, bitsOk, windowOk, fieldOk, Bool.and_eq_true,
    Bool.or_eq_true, Bool.not_eq_true', decide_eq_true_eq, decide_eq_false_iff_not] at h
  show decodeAny (encV 27 (0#1 ++ x1) x2 x3 x4 x5 9#9) = .ok (.vfcmpLt x1 x2 x3 x4 x5)
  simp (disch := omega) only [decodeAny, decVmask, legal, encV_26_6, encV_25_1, encV_22_4, encV_22_3, encV_21_1, encV_18_4, encV_18_3, encV_17_1, encV_16_1, encV_14_4, encV_14_3, encV_11_3, encV_9_2, encV_8_1, encV_5_4, encV_4_4, encV_0_9, encV_0_5, encV_0_4,
    BitVec.extractLsb'_append_eq_of_le, BitVec.extractLsb'_append_eq_of_add_le, Nat.reduceSub, BitVec.extractLsb'_eq_self,
    BitVec.reduceExtractLsb', Nat.sub_self, Nat.sub_zero, BitVec.reduceToNat, List.any_nil, List.any_cons, id_eq, Bool.false_eq_true, Bool.or_false, Bool.or_self, if_false, ne_eq, not_true_eq_false, decide_false,
    BitVec.reduceEq, not_false_eq_true, decide_true, BitVec.ofNat_eq_ofNat, reduceIte]
  rcases h with rfl | rfl <;> rfl
theorem RoundTrip.vfcmpLe (x1 : BitVec 3) (x2 : BitVec 4) (x3 : BitVec 4) (x4 : BitVec 3) (x5 : BitVec 2) : RoundTrip.Statement (.vfcmpLe x1 x2 x3 x4 x5) := by
  intro _ h
  simp only [Instr.wf, scopeOk, orderOk, levelOk, widthOk, formatOk, bitsOk, windowOk, fieldOk, Bool.and_eq_true,
    Bool.or_eq_true, Bool.not_eq_true', decide_eq_true_eq, decide_eq_false_iff_not] at h
  show decodeAny (encV 27 (0#1 ++ x1) x2 x3 x4 x5 10#9) = .ok (.vfcmpLe x1 x2 x3 x4 x5)
  simp (disch := omega) only [decodeAny, decVmask, legal, encV_26_6, encV_25_1, encV_22_4, encV_22_3, encV_21_1, encV_18_4, encV_18_3, encV_17_1, encV_16_1, encV_14_4, encV_14_3, encV_11_3, encV_9_2, encV_8_1, encV_5_4, encV_4_4, encV_0_9, encV_0_5, encV_0_4,
    BitVec.extractLsb'_append_eq_of_le, BitVec.extractLsb'_append_eq_of_add_le, Nat.reduceSub, BitVec.extractLsb'_eq_self,
    BitVec.reduceExtractLsb', Nat.sub_self, Nat.sub_zero, BitVec.reduceToNat, List.any_nil, List.any_cons, id_eq, Bool.false_eq_true, Bool.or_false, Bool.or_self, if_false, ne_eq, not_true_eq_false, decide_false,
    BitVec.reduceEq, not_false_eq_true, decide_true, BitVec.ofNat_eq_ofNat, reduceIte]
  rcases h with rfl | rfl <;> rfl
theorem RoundTrip.vfcmpUn (x1 : BitVec 3) (x2 : BitVec 4) (x3 : BitVec 4) (x4 : BitVec 3) (x5 : BitVec 2) : RoundTrip.Statement (.vfcmpUn x1 x2 x3 x4 x5) := by
  intro _ h
  simp only [Instr.wf, scopeOk, orderOk, levelOk, widthOk, formatOk, bitsOk, windowOk, fieldOk, Bool.and_eq_true,
    Bool.or_eq_true, Bool.not_eq_true', decide_eq_true_eq, decide_eq_false_iff_not] at h
  show decodeAny (encV 27 (0#1 ++ x1) x2 x3 x4 x5 11#9) = .ok (.vfcmpUn x1 x2 x3 x4 x5)
  simp (disch := omega) only [decodeAny, decVmask, legal, encV_26_6, encV_25_1, encV_22_4, encV_22_3, encV_21_1, encV_18_4, encV_18_3, encV_17_1, encV_16_1, encV_14_4, encV_14_3, encV_11_3, encV_9_2, encV_8_1, encV_5_4, encV_4_4, encV_0_9, encV_0_5, encV_0_4,
    BitVec.extractLsb'_append_eq_of_le, BitVec.extractLsb'_append_eq_of_add_le, Nat.reduceSub, BitVec.extractLsb'_eq_self,
    BitVec.reduceExtractLsb', Nat.sub_self, Nat.sub_zero, BitVec.reduceToNat, List.any_nil, List.any_cons, id_eq, Bool.false_eq_true, Bool.or_false, Bool.or_self, if_false, ne_eq, not_true_eq_false, decide_false,
    BitVec.reduceEq, not_false_eq_true, decide_true, BitVec.ofNat_eq_ofNat, reduceIte]
  rcases h with rfl | rfl <;> rfl
theorem RoundTrip.vsel (x1 : BitVec 4) (x2 : BitVec 4) (x3 : BitVec 4) (x4 : BitVec 3) : RoundTrip.Statement (.vsel x1 x2 x3 x4) := by
  intro _ _
  show decodeAny (encV 27 x1 x2 x3 x4 2#2 16#9) = .ok (.vsel x1 x2 x3 x4)
  simp only [decodeAny, decVmask, legal, encV_26_6, encV_25_1, encV_22_4, encV_22_3, encV_21_1, encV_18_4, encV_18_3, encV_17_1, encV_16_1, encV_14_4, encV_14_3, encV_11_3, encV_9_2, encV_8_1, encV_5_4, encV_4_4, encV_0_9, encV_0_5, encV_0_4,
    BitVec.reduceToNat, List.any_nil, List.any_cons, id_eq, Bool.false_eq_true, Bool.or_false, Bool.or_self, if_false, ne_eq, not_true_eq_false, decide_false,
    BitVec.reduceEq, not_false_eq_true, decide_true, BitVec.ofNat_eq_ofNat, reduceIte]
theorem RoundTrip.kand (x1 : BitVec 3) (x2 : BitVec 3) (x3 : BitVec 3) (x4 : BitVec 3) : RoundTrip.Statement (.kand x1 x2 x3 x4) := by
  intro _ _
  show decodeAny (encV 27 (0#1 ++ x1) (0#1 ++ x2) (0#1 ++ x3) x4 0#2 17#9) = .ok (.kand x1 x2 x3 x4)
  simp (disch := omega) only [decodeAny, decVmask, legal, encV_26_6, encV_25_1, encV_22_4, encV_22_3, encV_21_1, encV_18_4, encV_18_3, encV_17_1, encV_16_1, encV_14_4, encV_14_3, encV_11_3, encV_9_2, encV_8_1, encV_5_4, encV_4_4, encV_0_9, encV_0_5, encV_0_4,
    BitVec.extractLsb'_append_eq_of_le, BitVec.extractLsb'_append_eq_of_add_le, Nat.reduceSub, BitVec.extractLsb'_eq_self,
    BitVec.reduceExtractLsb', Nat.sub_self, Nat.sub_zero, BitVec.reduceToNat, List.any_nil, List.any_cons, id_eq, Bool.false_eq_true, Bool.or_false, Bool.or_self, if_false, ne_eq, not_true_eq_false, decide_false,
    BitVec.reduceEq, not_false_eq_true, decide_true, BitVec.ofNat_eq_ofNat, reduceIte]
theorem RoundTrip.kor (x1 : BitVec 3) (x2 : BitVec 3) (x3 : BitVec 3) (x4 : BitVec 3) : RoundTrip.Statement (.kor x1 x2 x3 x4) := by
  intro _ _
  show decodeAny (encV 27 (0#1 ++ x1) (0#1 ++ x2) (0#1 ++ x3) x4 0#2 18#9) = .ok (.kor x1 x2 x3 x4)
  simp (disch := omega) only [decodeAny, decVmask, legal, encV_26_6, encV_25_1, encV_22_4, encV_22_3, encV_21_1, encV_18_4, encV_18_3, encV_17_1, encV_16_1, encV_14_4, encV_14_3, encV_11_3, encV_9_2, encV_8_1, encV_5_4, encV_4_4, encV_0_9, encV_0_5, encV_0_4,
    BitVec.extractLsb'_append_eq_of_le, BitVec.extractLsb'_append_eq_of_add_le, Nat.reduceSub, BitVec.extractLsb'_eq_self,
    BitVec.reduceExtractLsb', Nat.sub_self, Nat.sub_zero, BitVec.reduceToNat, List.any_nil, List.any_cons, id_eq, Bool.false_eq_true, Bool.or_false, Bool.or_self, if_false, ne_eq, not_true_eq_false, decide_false,
    BitVec.reduceEq, not_false_eq_true, decide_true, BitVec.ofNat_eq_ofNat, reduceIte]
theorem RoundTrip.kxor (x1 : BitVec 3) (x2 : BitVec 3) (x3 : BitVec 3) (x4 : BitVec 3) : RoundTrip.Statement (.kxor x1 x2 x3 x4) := by
  intro _ _
  show decodeAny (encV 27 (0#1 ++ x1) (0#1 ++ x2) (0#1 ++ x3) x4 0#2 19#9) = .ok (.kxor x1 x2 x3 x4)
  simp (disch := omega) only [decodeAny, decVmask, legal, encV_26_6, encV_25_1, encV_22_4, encV_22_3, encV_21_1, encV_18_4, encV_18_3, encV_17_1, encV_16_1, encV_14_4, encV_14_3, encV_11_3, encV_9_2, encV_8_1, encV_5_4, encV_4_4, encV_0_9, encV_0_5, encV_0_4,
    BitVec.extractLsb'_append_eq_of_le, BitVec.extractLsb'_append_eq_of_add_le, Nat.reduceSub, BitVec.extractLsb'_eq_self,
    BitVec.reduceExtractLsb', Nat.sub_self, Nat.sub_zero, BitVec.reduceToNat, List.any_nil, List.any_cons, id_eq, Bool.false_eq_true, Bool.or_false, Bool.or_self, if_false, ne_eq, not_true_eq_false, decide_false,
    BitVec.reduceEq, not_false_eq_true, decide_true, BitVec.ofNat_eq_ofNat, reduceIte]
theorem RoundTrip.knot (x1 : BitVec 3) (x2 : BitVec 3) (x3 : BitVec 3) : RoundTrip.Statement (.knot x1 x2 x3) := by
  intro _ _
  show decodeAny (encV 27 (0#1 ++ x1) (0#1 ++ x2) 0#4 x3 0#2 20#9) = .ok (.knot x1 x2 x3)
  simp (disch := omega) only [decodeAny, decVmask, legal, encV_26_6, encV_25_1, encV_22_4, encV_22_3, encV_21_1, encV_18_4, encV_18_3, encV_17_1, encV_16_1, encV_14_4, encV_14_3, encV_11_3, encV_9_2, encV_8_1, encV_5_4, encV_4_4, encV_0_9, encV_0_5, encV_0_4,
    BitVec.extractLsb'_append_eq_of_le, BitVec.extractLsb'_append_eq_of_add_le, Nat.reduceSub, BitVec.extractLsb'_eq_self,
    BitVec.reduceExtractLsb', Nat.sub_self, Nat.sub_zero, BitVec.reduceToNat, List.any_nil, List.any_cons, id_eq, Bool.false_eq_true, Bool.or_false, Bool.or_self, if_false, ne_eq, not_true_eq_false, decide_false,
    BitVec.reduceEq, not_false_eq_true, decide_true, BitVec.ofNat_eq_ofNat, reduceIte]
theorem RoundTrip.vbcast (x1 : BitVec 4) (x2 : BitVec 5) (x3 : BitVec 3) : RoundTrip.Statement (.vbcast x1 x2 x3) := by
  intro _ _
  show decodeAny (encVS 28 x1 x2 0#4 x3 0#5 0#5) = .ok (.vbcast x1 x2 x3)
  simp (disch := omega) only [decodeAny, decVperm, legal, encVS_26_6, encVS_22_4, encVS_18_4, encVS_17_5, encVS_16_1, encVS_13_4, encVS_13_3, encVS_10_3, encVS_5_5, encVS_5_4, encVS_0_5,
    BitVec.extractLsb'_append_eq_of_le, BitVec.extractLsb'_append_eq_of_add_le, Nat.reduceSub, BitVec.extractLsb'_eq_self,
    BitVec.reduceExtractLsb', Nat.sub_self, Nat.sub_zero, BitVec.reduceToNat, List.any_nil, List.any_cons, id_eq, Bool.false_eq_true, Bool.or_false, Bool.or_self, if_false, ne_eq, not_true_eq_false, decide_false,
    BitVec.reduceEq, not_false_eq_true, decide_true, BitVec.ofNat_eq_ofNat, reduceIte]
theorem RoundTrip.vext (x1 : BitVec 5) (x2 : BitVec 4) (x3 : BitVec 5) : RoundTrip.Statement (.vext x1 x2 x3) := by
  intro _ _
  show decodeAny (encVS 28 0#4 x1 x2 0#3 x3 1#5) = .ok (.vext x1 x2 x3)
  simp (disch := omega) only [decodeAny, decVperm, legal, encVS_26_6, encVS_22_4, encVS_18_4, encVS_17_5, encVS_16_1, encVS_13_4, encVS_13_3, encVS_10_3, encVS_5_5, encVS_5_4, encVS_0_5,
    BitVec.extractLsb'_append_eq_of_le, BitVec.extractLsb'_append_eq_of_add_le, Nat.reduceSub, BitVec.extractLsb'_eq_self,
    BitVec.reduceExtractLsb', Nat.sub_self, Nat.sub_zero, BitVec.reduceToNat, List.any_nil, List.any_cons, id_eq, Bool.false_eq_true, Bool.or_false, Bool.or_self, if_false, ne_eq, not_true_eq_false, decide_false,
    BitVec.reduceEq, not_false_eq_true, decide_true, BitVec.ofNat_eq_ofNat, reduceIte]
theorem RoundTrip.vins (x1 : BitVec 4) (x2 : BitVec 5) (x3 : BitVec 5) : RoundTrip.Statement (.vins x1 x2 x3) := by
  intro _ _
  show decodeAny (encVS 28 x1 x2 0#4 0#3 x3 2#5) = .ok (.vins x1 x2 x3)
  simp (disch := omega) only [decodeAny, decVperm, legal, encVS_26_6, encVS_22_4, encVS_18_4, encVS_17_5, encVS_16_1, encVS_13_4, encVS_13_3, encVS_10_3, encVS_5_5, encVS_5_4, encVS_0_5,
    BitVec.extractLsb'_append_eq_of_le, BitVec.extractLsb'_append_eq_of_add_le, Nat.reduceSub, BitVec.extractLsb'_eq_self,
    BitVec.reduceExtractLsb', Nat.sub_self, Nat.sub_zero, BitVec.reduceToNat, List.any_nil, List.any_cons, id_eq, Bool.false_eq_true, Bool.or_false, Bool.or_self, if_false, ne_eq, not_true_eq_false, decide_false,
    BitVec.reduceEq, not_false_eq_true, decide_true, BitVec.ofNat_eq_ofNat, reduceIte]
theorem RoundTrip.kpopc (x1 : BitVec 5) (x2 : BitVec 3) (x3 : BitVec 3) : RoundTrip.Statement (.kpopc x1 x2 x3) := by
  intro _ _
  show decodeAny (encVS 28 0#4 x1 (0#1 ++ x2) x3 0#5 3#5) = .ok (.kpopc x1 x2 x3)
  simp (disch := omega) only [decodeAny, decVperm, legal, encVS_26_6, encVS_22_4, encVS_18_4, encVS_17_5, encVS_16_1, encVS_13_4, encVS_13_3, encVS_10_3, encVS_5_5, encVS_5_4, encVS_0_5,
    BitVec.extractLsb'_append_eq_of_le, BitVec.extractLsb'_append_eq_of_add_le, Nat.reduceSub, BitVec.extractLsb'_eq_self,
    BitVec.reduceExtractLsb', Nat.sub_self, Nat.sub_zero, BitVec.reduceToNat, List.any_nil, List.any_cons, id_eq, Bool.false_eq_true, Bool.or_false, Bool.or_self, if_false, ne_eq, not_true_eq_false, decide_false,
    BitVec.reduceEq, not_false_eq_true, decide_true, BitVec.ofNat_eq_ofNat, reduceIte]
theorem RoundTrip.kfirst (x1 : BitVec 5) (x2 : BitVec 3) (x3 : BitVec 3) : RoundTrip.Statement (.kfirst x1 x2 x3) := by
  intro _ _
  show decodeAny (encVS 28 0#4 x1 (0#1 ++ x2) x3 0#5 4#5) = .ok (.kfirst x1 x2 x3)
  simp (disch := omega) only [decodeAny, decVperm, legal, encVS_26_6, encVS_22_4, encVS_18_4, encVS_17_5, encVS_16_1, encVS_13_4, encVS_13_3, encVS_10_3, encVS_5_5, encVS_5_4, encVS_0_5,
    BitVec.extractLsb'_append_eq_of_le, BitVec.extractLsb'_append_eq_of_add_le, Nat.reduceSub, BitVec.extractLsb'_eq_self,
    BitVec.reduceExtractLsb', Nat.sub_self, Nat.sub_zero, BitVec.reduceToNat, List.any_nil, List.any_cons, id_eq, Bool.false_eq_true, Bool.or_false, Bool.or_self, if_false, ne_eq, not_true_eq_false, decide_false,
    BitVec.reduceEq, not_false_eq_true, decide_true, BitVec.ofNat_eq_ofNat, reduceIte]
theorem RoundTrip.vperm (x1 : BitVec 4) (x2 : BitVec 4) (x3 : BitVec 4) (x4 : BitVec 3) (x5 : BitVec 2) : RoundTrip.Statement (.vperm x1 x2 x3 x4 x5) := by
  intro _ h
  simp only [Instr.wf, scopeOk, orderOk, levelOk, widthOk, formatOk, bitsOk, windowOk, fieldOk, Bool.and_eq_true,
    Bool.or_eq_true, Bool.not_eq_true', decide_eq_true_eq, decide_eq_false_iff_not] at h
  show decodeAny (encV 28 x1 x2 x3 x4 x5 8#9) = .ok (.vperm x1 x2 x3 x4 x5)
  simp (disch := omega) only [decodeAny, decVperm, legal, encV_26_6, encV_25_1, encV_22_4, encV_22_3, encV_21_1, encV_18_4, encV_18_3, encV_17_1, encV_16_1, encV_14_4, encV_14_3, encV_11_3, encV_9_2, encV_8_1, encV_5_4, encV_4_4, encV_0_9, encV_0_5, encV_0_4,
    BitVec.extractLsb'_append_eq_of_le, BitVec.extractLsb'_append_eq_of_add_le, Nat.reduceSub, BitVec.extractLsb'_eq_self,
    BitVec.reduceExtractLsb', Nat.sub_self, Nat.sub_zero, BitVec.reduceToNat, List.any_nil, List.any_cons, id_eq, Bool.false_eq_true, Bool.or_false, Bool.or_self, if_false, ne_eq, not_true_eq_false, decide_false,
    BitVec.reduceEq, not_false_eq_true, decide_true, BitVec.ofNat_eq_ofNat, reduceIte]
  simp_all
theorem RoundTrip.vredadd (x1 : BitVec 4) (x2 : BitVec 4) (x3 : BitVec 3) (x4 : BitVec 2) : RoundTrip.Statement (.vredadd x1 x2 x3 x4) := by
  intro _ h
  simp only [Instr.wf, scopeOk, orderOk, levelOk, widthOk, formatOk, bitsOk, windowOk, fieldOk, Bool.and_eq_true,
    Bool.or_eq_true, Bool.not_eq_true', decide_eq_true_eq, decide_eq_false_iff_not] at h
  show decodeAny (encV 28 x1 x2 0#4 x3 x4 10#9) = .ok (.vredadd x1 x2 x3 x4)
  simp (disch := omega) only [decodeAny, decVperm, legal, encV_26_6, encV_25_1, encV_22_4, encV_22_3, encV_21_1, encV_18_4, encV_18_3, encV_17_1, encV_16_1, encV_14_4, encV_14_3, encV_11_3, encV_9_2, encV_8_1, encV_5_4, encV_4_4, encV_0_9, encV_0_5, encV_0_4,
    BitVec.extractLsb'_append_eq_of_le, BitVec.extractLsb'_append_eq_of_add_le, Nat.reduceSub, BitVec.extractLsb'_eq_self,
    BitVec.reduceExtractLsb', Nat.sub_self, Nat.sub_zero, BitVec.reduceToNat, List.any_nil, List.any_cons, id_eq, Bool.false_eq_true, Bool.or_false, Bool.or_self, if_false, ne_eq, not_true_eq_false, decide_false,
    BitVec.reduceEq, not_false_eq_true, decide_true, BitVec.ofNat_eq_ofNat, reduceIte]
  simp_all
theorem RoundTrip.vredmax (x1 : BitVec 4) (x2 : BitVec 4) (x3 : BitVec 3) (x4 : BitVec 2) : RoundTrip.Statement (.vredmax x1 x2 x3 x4) := by
  intro _ h
  simp only [Instr.wf, scopeOk, orderOk, levelOk, widthOk, formatOk, bitsOk, windowOk, fieldOk, Bool.and_eq_true,
    Bool.or_eq_true, Bool.not_eq_true', decide_eq_true_eq, decide_eq_false_iff_not] at h
  show decodeAny (encV 28 x1 x2 0#4 x3 x4 11#9) = .ok (.vredmax x1 x2 x3 x4)
  simp (disch := omega) only [decodeAny, decVperm, legal, encV_26_6, encV_25_1, encV_22_4, encV_22_3, encV_21_1, encV_18_4, encV_18_3, encV_17_1, encV_16_1, encV_14_4, encV_14_3, encV_11_3, encV_9_2, encV_8_1, encV_5_4, encV_4_4, encV_0_9, encV_0_5, encV_0_4,
    BitVec.extractLsb'_append_eq_of_le, BitVec.extractLsb'_append_eq_of_add_le, Nat.reduceSub, BitVec.extractLsb'_eq_self,
    BitVec.reduceExtractLsb', Nat.sub_self, Nat.sub_zero, BitVec.reduceToNat, List.any_nil, List.any_cons, id_eq, Bool.false_eq_true, Bool.or_false, Bool.or_self, if_false, ne_eq, not_true_eq_false, decide_false,
    BitVec.reduceEq, not_false_eq_true, decide_true, BitVec.ofNat_eq_ofNat, reduceIte]
  simp_all
theorem RoundTrip.vredmin (x1 : BitVec 4) (x2 : BitVec 4) (x3 : BitVec 3) (x4 : BitVec 2) : RoundTrip.Statement (.vredmin x1 x2 x3 x4) := by
  intro _ h
  simp only [Instr.wf, scopeOk, orderOk, levelOk, widthOk, formatOk, bitsOk, windowOk, fieldOk, Bool.and_eq_true,
    Bool.or_eq_true, Bool.not_eq_true', decide_eq_true_eq, decide_eq_false_iff_not] at h
  show decodeAny (encV 28 x1 x2 0#4 x3 x4 12#9) = .ok (.vredmin x1 x2 x3 x4)
  simp (disch := omega) only [decodeAny, decVperm, legal, encV_26_6, encV_25_1, encV_22_4, encV_22_3, encV_21_1, encV_18_4, encV_18_3, encV_17_1, encV_16_1, encV_14_4, encV_14_3, encV_11_3, encV_9_2, encV_8_1, encV_5_4, encV_4_4, encV_0_9, encV_0_5, encV_0_4,
    BitVec.extractLsb'_append_eq_of_le, BitVec.extractLsb'_append_eq_of_add_le, Nat.reduceSub, BitVec.extractLsb'_eq_self,
    BitVec.reduceExtractLsb', Nat.sub_self, Nat.sub_zero, BitVec.reduceToNat, List.any_nil, List.any_cons, id_eq, Bool.false_eq_true, Bool.or_false, Bool.or_self, if_false, ne_eq, not_true_eq_false, decide_false,
    BitVec.reduceEq, not_false_eq_true, decide_true, BitVec.ofNat_eq_ofNat, reduceIte]
  simp_all
theorem RoundTrip.vfredadd (x1 : BitVec 4) (x2 : BitVec 4) (x3 : BitVec 3) : RoundTrip.Statement (.vfredadd x1 x2 x3) := by
  intro _ _
  show decodeAny (encV 28 x1 x2 0#4 x3 2#2 13#9) = .ok (.vfredadd x1 x2 x3)
  simp (disch := omega) only [decodeAny, decVperm, legal, encV_26_6, encV_25_1, encV_22_4, encV_22_3, encV_21_1, encV_18_4, encV_18_3, encV_17_1, encV_16_1, encV_14_4, encV_14_3, encV_11_3, encV_9_2, encV_8_1, encV_5_4, encV_4_4, encV_0_9, encV_0_5, encV_0_4,
    BitVec.extractLsb'_append_eq_of_le, BitVec.extractLsb'_append_eq_of_add_le, Nat.reduceSub, BitVec.extractLsb'_eq_self,
    BitVec.reduceExtractLsb', Nat.sub_self, Nat.sub_zero, BitVec.reduceToNat, List.any_nil, List.any_cons, id_eq, Bool.false_eq_true, Bool.or_false, Bool.or_self, if_false, ne_eq, not_true_eq_false, decide_false,
    BitVec.reduceEq, not_false_eq_true, decide_true, BitVec.ofNat_eq_ofNat, reduceIte]
theorem RoundTrip.vfredmax (x1 : BitVec 4) (x2 : BitVec 4) (x3 : BitVec 3) : RoundTrip.Statement (.vfredmax x1 x2 x3) := by
  intro _ _
  show decodeAny (encV 28 x1 x2 0#4 x3 2#2 14#9) = .ok (.vfredmax x1 x2 x3)
  simp (disch := omega) only [decodeAny, decVperm, legal, encV_26_6, encV_25_1, encV_22_4, encV_22_3, encV_21_1, encV_18_4, encV_18_3, encV_17_1, encV_16_1, encV_14_4, encV_14_3, encV_11_3, encV_9_2, encV_8_1, encV_5_4, encV_4_4, encV_0_9, encV_0_5, encV_0_4,
    BitVec.extractLsb'_append_eq_of_le, BitVec.extractLsb'_append_eq_of_add_le, Nat.reduceSub, BitVec.extractLsb'_eq_self,
    BitVec.reduceExtractLsb', Nat.sub_self, Nat.sub_zero, BitVec.reduceToNat, List.any_nil, List.any_cons, id_eq, Bool.false_eq_true, Bool.or_false, Bool.or_self, if_false, ne_eq, not_true_eq_false, decide_false,
    BitVec.reduceEq, not_false_eq_true, decide_true, BitVec.ofNat_eq_ofNat, reduceIte]
theorem RoundTrip.vtopk (x1 : BitVec 4) (x2 : BitVec 4) (x3 : BitVec 4) (x4 : BitVec 3) : RoundTrip.Statement (.vtopk x1 x2 x3 x4) := by
  intro _ _
  show decodeAny (encV 28 x1 x2 x3 x4 2#2 15#9) = .ok (.vtopk x1 x2 x3 x4)
  simp (disch := omega) only [decodeAny, decVperm, legal, encV_26_6, encV_25_1, encV_22_4, encV_22_3, encV_21_1, encV_18_4, encV_18_3, encV_17_1, encV_16_1, encV_14_4, encV_14_3, encV_11_3, encV_9_2, encV_8_1, encV_5_4, encV_4_4, encV_0_9, encV_0_5, encV_0_4,
    BitVec.extractLsb'_append_eq_of_le, BitVec.extractLsb'_append_eq_of_add_le, Nat.reduceSub, BitVec.extractLsb'_eq_self,
    BitVec.reduceExtractLsb', Nat.sub_self, Nat.sub_zero, BitVec.reduceToNat, List.any_nil, List.any_cons, id_eq, Bool.false_eq_true, Bool.or_false, Bool.or_self, if_false, ne_eq, not_true_eq_false, decide_false,
    BitVec.reduceEq, not_false_eq_true, decide_true, BitVec.ofNat_eq_ofNat, reduceIte]
theorem RoundTrip.vscan (x1 : BitVec 4) (x2 : BitVec 4) (x3 : BitVec 3) (x4 : BitVec 2) : RoundTrip.Statement (.vscan x1 x2 x3 x4) := by
  intro _ h
  simp only [Instr.wf, scopeOk, orderOk, levelOk, widthOk, formatOk, bitsOk, windowOk, fieldOk, Bool.and_eq_true,
    Bool.or_eq_true, Bool.not_eq_true', decide_eq_true_eq, decide_eq_false_iff_not] at h
  show decodeAny (encV 28 x1 x2 0#4 x3 x4 16#9) = .ok (.vscan x1 x2 x3 x4)
  simp (disch := omega) only [decodeAny, decVperm, legal, encV_26_6, encV_25_1, encV_22_4, encV_22_3, encV_21_1, encV_18_4, encV_18_3, encV_17_1, encV_16_1, encV_14_4, encV_14_3, encV_11_3, encV_9_2, encV_8_1, encV_5_4, encV_4_4, encV_0_9, encV_0_5, encV_0_4,
    BitVec.extractLsb'_append_eq_of_le, BitVec.extractLsb'_append_eq_of_add_le, Nat.reduceSub, BitVec.extractLsb'_eq_self,
    BitVec.reduceExtractLsb', Nat.sub_self, Nat.sub_zero, BitVec.reduceToNat, List.any_nil, List.any_cons, id_eq, Bool.false_eq_true, Bool.or_false, Bool.or_self, if_false, ne_eq, not_true_eq_false, decide_false,
    BitVec.reduceEq, not_false_eq_true, decide_true, BitVec.ofNat_eq_ofNat, reduceIte]
  simp_all
theorem RoundTrip.vld (x1 : BitVec 4) (x2 : BitVec 5) (x3 : BitVec 3) (x4 : BitVec 2) : RoundTrip.Statement (.vld x1 x2 x3 x4) := by
  intro _ h
  simp only [Instr.wf, scopeOk, orderOk, levelOk, widthOk, formatOk, bitsOk, windowOk, fieldOk, Bool.and_eq_true,
    Bool.or_eq_true, Bool.not_eq_true', decide_eq_true_eq, decide_eq_false_iff_not] at h
  show decodeAny (encVM 29 x1 x2 0#5 x3 x4 0#7) = .ok (.vld x1 x2 x3 x4)
  simp only [decodeAny, decVmem, legal, encVM_26_6, encVM_22_4, encVM_17_5, encVM_13_4, encVM_12_5, encVM_12_1, encVM_9_3, encVM_7_2, encVM_0_7,
    BitVec.reduceToNat, List.any_nil, List.any_cons, id_eq, Bool.false_eq_true, Bool.or_false, Bool.or_self, if_false, ne_eq, not_true_eq_false, decide_false,
    BitVec.reduceEq, not_false_eq_true, decide_true, BitVec.ofNat_eq_ofNat, reduceIte]
  simp_all
theorem RoundTrip.vst (x1 : BitVec 4) (x2 : BitVec 5) (x3 : BitVec 3) (x4 : BitVec 2) : RoundTrip.Statement (.vst x1 x2 x3 x4) := by
  intro _ h
  simp only [Instr.wf, scopeOk, orderOk, levelOk, widthOk, formatOk, bitsOk, windowOk, fieldOk, Bool.and_eq_true,
    Bool.or_eq_true, Bool.not_eq_true', decide_eq_true_eq, decide_eq_false_iff_not] at h
  show decodeAny (encVM 29 x1 x2 0#5 x3 x4 1#7) = .ok (.vst x1 x2 x3 x4)
  simp only [decodeAny, decVmem, legal, encVM_26_6, encVM_22_4, encVM_17_5, encVM_13_4, encVM_12_5, encVM_12_1, encVM_9_3, encVM_7_2, encVM_0_7,
    BitVec.reduceToNat, List.any_nil, List.any_cons, id_eq, Bool.false_eq_true, Bool.or_false, Bool.or_self, if_false, ne_eq, not_true_eq_false, decide_false,
    BitVec.reduceEq, not_false_eq_true, decide_true, BitVec.ofNat_eq_ofNat, reduceIte]
  simp_all
theorem RoundTrip.vlds (x1 : BitVec 4) (x2 : BitVec 5) (x3 : BitVec 5) (x4 : BitVec 3) (x5 : BitVec 2) : RoundTrip.Statement (.vlds x1 x2 x3 x4 x5) := by
  intro _ h
  simp only [Instr.wf, scopeOk, orderOk, levelOk, widthOk, formatOk, bitsOk, windowOk, fieldOk, Bool.and_eq_true,
    Bool.or_eq_true, Bool.not_eq_true', decide_eq_true_eq, decide_eq_false_iff_not] at h
  show decodeAny (encVM 29 x1 x2 x3 x4 x5 2#7) = .ok (.vlds x1 x2 x3 x4 x5)
  simp only [decodeAny, decVmem, legal, encVM_26_6, encVM_22_4, encVM_17_5, encVM_13_4, encVM_12_5, encVM_12_1, encVM_9_3, encVM_7_2, encVM_0_7,
    BitVec.reduceToNat, List.any_nil, List.any_cons, id_eq, Bool.false_eq_true, Bool.or_false, Bool.or_self, if_false, ne_eq, not_true_eq_false, decide_false,
    BitVec.reduceEq, not_false_eq_true, decide_true, BitVec.ofNat_eq_ofNat, reduceIte]
  simp_all
theorem RoundTrip.vsts (x1 : BitVec 4) (x2 : BitVec 5) (x3 : BitVec 5) (x4 : BitVec 3) (x5 : BitVec 2) : RoundTrip.Statement (.vsts x1 x2 x3 x4 x5) := by
  intro _ h
  simp only [Instr.wf, scopeOk, orderOk, levelOk, widthOk, formatOk, bitsOk, windowOk, fieldOk, Bool.and_eq_true,
    Bool.or_eq_true, Bool.not_eq_true', decide_eq_true_eq, decide_eq_false_iff_not] at h
  show decodeAny (encVM 29 x1 x2 x3 x4 x5 3#7) = .ok (.vsts x1 x2 x3 x4 x5)
  simp only [decodeAny, decVmem, legal, encVM_26_6, encVM_22_4, encVM_17_5, encVM_13_4, encVM_12_5, encVM_12_1, encVM_9_3, encVM_7_2, encVM_0_7,
    BitVec.reduceToNat, List.any_nil, List.any_cons, id_eq, Bool.false_eq_true, Bool.or_false, Bool.or_self, if_false, ne_eq, not_true_eq_false, decide_false,
    BitVec.reduceEq, not_false_eq_true, decide_true, BitVec.ofNat_eq_ofNat, reduceIte]
  simp_all
theorem RoundTrip.vldsync (x1 : BitVec 4) (x2 : BitVec 5) (x3 : BitVec 3) (x4 : BitVec 2) : RoundTrip.Statement (.vldsync x1 x2 x3 x4) := by
  intro _ h
  simp only [Instr.wf, scopeOk, orderOk, levelOk, widthOk, formatOk, bitsOk, windowOk, fieldOk, Bool.and_eq_true,
    Bool.or_eq_true, Bool.not_eq_true', decide_eq_true_eq, decide_eq_false_iff_not] at h
  show decodeAny (encVM 29 x1 x2 0#5 x3 x4 4#7) = .ok (.vldsync x1 x2 x3 x4)
  simp only [decodeAny, decVmem, legal, encVM_26_6, encVM_22_4, encVM_17_5, encVM_13_4, encVM_12_5, encVM_12_1, encVM_9_3, encVM_7_2, encVM_0_7,
    BitVec.reduceToNat, List.any_nil, List.any_cons, id_eq, Bool.false_eq_true, Bool.or_false, Bool.or_self, if_false, ne_eq, not_true_eq_false, decide_false,
    BitVec.reduceEq, not_false_eq_true, decide_true, BitVec.ofNat_eq_ofNat, reduceIte]
  simp_all
theorem RoundTrip.vgather (x1 : BitVec 4) (x2 : BitVec 5) (x3 : BitVec 4) (x4 : BitVec 3) : RoundTrip.Statement (.vgather x1 x2 x3 x4) := by
  intro _ _
  show decodeAny (encVM 30 x1 x2 (x3 ++ 0#1) x4 2#2 0#7) = .ok (.vgather x1 x2 x3 x4)
  simp (disch := omega) only [decodeAny, decVidx, legal, encVM_26_6, encVM_22_4, encVM_17_5, encVM_13_4, encVM_12_5, encVM_12_1, encVM_9_3, encVM_7_2, encVM_0_7,
    BitVec.extractLsb'_append_eq_of_le, BitVec.extractLsb'_append_eq_of_add_le, Nat.reduceSub, BitVec.extractLsb'_eq_self,
    BitVec.reduceExtractLsb', Nat.sub_self, Nat.sub_zero, BitVec.reduceToNat, List.any_nil, List.any_cons, id_eq, Bool.false_eq_true, Bool.or_false, Bool.or_self, if_false, ne_eq, not_true_eq_false, decide_false,
    BitVec.reduceEq, not_false_eq_true, decide_true, BitVec.ofNat_eq_ofNat, reduceIte]
theorem RoundTrip.vscatter (x1 : BitVec 4) (x2 : BitVec 5) (x3 : BitVec 4) (x4 : BitVec 3) : RoundTrip.Statement (.vscatter x1 x2 x3 x4) := by
  intro _ _
  show decodeAny (encVM 30 x1 x2 (x3 ++ 0#1) x4 2#2 1#7) = .ok (.vscatter x1 x2 x3 x4)
  simp (disch := omega) only [decodeAny, decVidx, legal, encVM_26_6, encVM_22_4, encVM_17_5, encVM_13_4, encVM_12_5, encVM_12_1, encVM_9_3, encVM_7_2, encVM_0_7,
    BitVec.extractLsb'_append_eq_of_le, BitVec.extractLsb'_append_eq_of_add_le, Nat.reduceSub, BitVec.extractLsb'_eq_self,
    BitVec.reduceExtractLsb', Nat.sub_self, Nat.sub_zero, BitVec.reduceToNat, List.any_nil, List.any_cons, id_eq, Bool.false_eq_true, Bool.or_false, Bool.or_self, if_false, ne_eq, not_true_eq_false, decide_false,
    BitVec.reduceEq, not_false_eq_true, decide_true, BitVec.ofNat_eq_ofNat, reduceIte]
theorem RoundTrip.vgatherb (x1 : BitVec 4) (x2 : BitVec 5) (x3 : BitVec 4) (x4 : BitVec 3) : RoundTrip.Statement (.vgatherb x1 x2 x3 x4) := by
  intro _ _
  show decodeAny (encVM 30 x1 x2 (x3 ++ 0#1) x4 2#2 2#7) = .ok (.vgatherb x1 x2 x3 x4)
  simp (disch := omega) only [decodeAny, decVidx, legal, encVM_26_6, encVM_22_4, encVM_17_5, encVM_13_4, encVM_12_5, encVM_12_1, encVM_9_3, encVM_7_2, encVM_0_7,
    BitVec.extractLsb'_append_eq_of_le, BitVec.extractLsb'_append_eq_of_add_le, Nat.reduceSub, BitVec.extractLsb'_eq_self,
    BitVec.reduceExtractLsb', Nat.sub_self, Nat.sub_zero, BitVec.reduceToNat, List.any_nil, List.any_cons, id_eq, Bool.false_eq_true, Bool.or_false, Bool.or_self, if_false, ne_eq, not_true_eq_false, decide_false,
    BitVec.reduceEq, not_false_eq_true, decide_true, BitVec.ofNat_eq_ofNat, reduceIte]
theorem RoundTrip.vcvt (x1 : BitVec 4) (x2 : BitVec 4) (x3 : BitVec 3) (x4 : BitVec 4) (x5 : BitVec 4) : RoundTrip.Statement (.vcvt x1 x2 x3 x4 x5) := by
  intro _ h
  simp only [Instr.wf, scopeOk, orderOk, levelOk, widthOk, formatOk, bitsOk, windowOk, fieldOk, Bool.and_eq_true,
    Bool.or_eq_true, Bool.not_eq_true', decide_eq_true_eq, decide_eq_false_iff_not] at h
  show decodeAny (encV 31 x1 x2 0#4 x3 0#2 (0#1 ++ x4 ++ x5)) = .ok (.vcvt x1 x2 x3 x4 x5)
  simp (disch := omega) only [decodeAny, legal, encV_26_6, encV_25_1, encV_22_4, encV_22_3, encV_21_1, encV_18_4, encV_18_3, encV_17_1, encV_16_1, encV_14_4, encV_14_3, encV_11_3, encV_9_2, encV_8_1, encV_5_4, encV_4_4, encV_0_9, encV_0_5, encV_0_4,
    BitVec.extractLsb'_append_eq_of_le, BitVec.extractLsb'_append_eq_of_add_le, Nat.reduceSub, BitVec.extractLsb'_eq_self,
    BitVec.reduceExtractLsb', Nat.sub_self, Nat.sub_zero, BitVec.reduceToNat, List.any_nil, List.any_cons, id_eq, Bool.false_eq_true, Bool.or_false, Bool.or_self, if_false, ne_eq, not_true_eq_false, decide_false,
    BitVec.reduceEq, not_false_eq_true, decide_true, BitVec.ofNat_eq_ofNat, reduceIte]
  simp_all
theorem RoundTrip.bsAttach (x1 : BitVec 5) (x2 : BitVec 5) : RoundTrip.Statement (.bsAttach x1 x2) := by
  intro _ _
  show decodeAny (encS 32 0#6 x1 x2 0#10) = .ok (.bsAttach x1 x2)
  simp only [decodeAny, decBs, legal, encS_26_6, encS_20_6, encS_19_1, encS_15_5, encS_15_4, encS_14_1, encS_10_5, encS_10_4, encS_9_1, encS_8_2, encS_7_3, encS_7_1, encS_6_4, encS_5_5, encS_5_4, encS_4_6, encS_4_3, encS_3_4, encS_2_8, encS_2_3, encS_1_9, encS_0_10, encS_0_6, encS_0_5, encS_0_4, encS_0_3, encS_0_2, encS_0_1,
    BitVec.reduceToNat, List.any_nil, List.any_cons, id_eq, Bool.false_eq_true, Bool.or_false, Bool.or_self, if_false, ne_eq, not_true_eq_false, decide_false,
    BitVec.reduceEq, not_false_eq_true, decide_true, BitVec.ofNat_eq_ofNat, reduceIte]
theorem RoundTrip.bsGet (x1 : BitVec 5) (x2 : BitVec 10) : RoundTrip.Statement (.bsGet x1 x2) := by
  intro _ h
  simp only [Instr.wf, scopeOk, orderOk, levelOk, widthOk, formatOk, bitsOk, windowOk, fieldOk, Bool.and_eq_true,
    Bool.or_eq_true, Bool.not_eq_true', decide_eq_true_eq, decide_eq_false_iff_not] at h
  show decodeAny (encS 32 1#6 0#5 x1 x2) = .ok (.bsGet x1 x2)
  simp only [decodeAny, decBs, legal, encS_26_6, encS_20_6, encS_19_1, encS_15_5, encS_15_4, encS_14_1, encS_10_5, encS_10_4, encS_9_1, encS_8_2, encS_7_3, encS_7_1, encS_6_4, encS_5_5, encS_5_4, encS_4_6, encS_4_3, encS_3_4, encS_2_8, encS_2_3, encS_1_9, encS_0_10, encS_0_6, encS_0_5, encS_0_4, encS_0_3, encS_0_2, encS_0_1,
    BitVec.reduceToNat, List.any_nil, List.any_cons, id_eq, Bool.false_eq_true, Bool.or_false, Bool.or_self, if_false, ne_eq, not_true_eq_false, decide_false,
    BitVec.reduceEq, not_false_eq_true, decide_true, BitVec.ofNat_eq_ofNat, reduceIte]
  have h3 : x2.toNat ≤ 57 := by simpa [BitVec.le_def] using h.2
  have h1 : ¬ x2 = 0#10 := h.1
  simp [legalIn, encS_0_10, h1, Nat.not_lt.mpr h3]
theorem RoundTrip.bsPeek (x1 : BitVec 5) (x2 : BitVec 10) : RoundTrip.Statement (.bsPeek x1 x2) := by
  intro _ h
  simp only [Instr.wf, scopeOk, orderOk, levelOk, widthOk, formatOk, bitsOk, windowOk, fieldOk, Bool.and_eq_true,
    Bool.or_eq_true, Bool.not_eq_true', decide_eq_true_eq, decide_eq_false_iff_not] at h
  show decodeAny (encS 32 2#6 0#5 x1 x2) = .ok (.bsPeek x1 x2)
  simp only [decodeAny, decBs, legal, encS_26_6, encS_20_6, encS_19_1, encS_15_5, encS_15_4, encS_14_1, encS_10_5, encS_10_4, encS_9_1, encS_8_2, encS_7_3, encS_7_1, encS_6_4, encS_5_5, encS_5_4, encS_4_6, encS_4_3, encS_3_4, encS_2_8, encS_2_3, encS_1_9, encS_0_10, encS_0_6, encS_0_5, encS_0_4, encS_0_3, encS_0_2, encS_0_1,
    BitVec.reduceToNat, List.any_nil, List.any_cons, id_eq, Bool.false_eq_true, Bool.or_false, Bool.or_self, if_false, ne_eq, not_true_eq_false, decide_false,
    BitVec.reduceEq, not_false_eq_true, decide_true, BitVec.ofNat_eq_ofNat, reduceIte]
  have h3 : x2.toNat ≤ 57 := by simpa [BitVec.le_def] using h.2
  have h1 : ¬ x2 = 0#10 := h.1
  simp [legalIn, encS_0_10, h1, Nat.not_lt.mpr h3]
theorem RoundTrip.bsSkip (x1 : BitVec 5) (x2 : BitVec 10) : RoundTrip.Statement (.bsSkip x1 x2) := by
  intro _ _
  show decodeAny (encS 32 3#6 x1 0#5 x2) = .ok (.bsSkip x1 x2)
  simp only [decodeAny, decBs, legal, encS_26_6, encS_20_6, encS_19_1, encS_15_5, encS_15_4, encS_14_1, encS_10_5, encS_10_4, encS_9_1, encS_8_2, encS_7_3, encS_7_1, encS_6_4, encS_5_5, encS_5_4, encS_4_6, encS_4_3, encS_3_4, encS_2_8, encS_2_3, encS_1_9, encS_0_10, encS_0_6, encS_0_5, encS_0_4, encS_0_3, encS_0_2, encS_0_1,
    BitVec.reduceToNat, List.any_nil, List.any_cons, id_eq, Bool.false_eq_true, Bool.or_false, Bool.or_self, if_false, ne_eq, not_true_eq_false, decide_false,
    BitVec.reduceEq, not_false_eq_true, decide_true, BitVec.ofNat_eq_ofNat, reduceIte]
theorem RoundTrip.bsVlc (x1 : BitVec 5) (x2 : BitVec 5) (x3 : BitVec 10) : RoundTrip.Statement (.bsVlc x1 x2 x3) := by
  intro _ h
  simp only [Instr.wf, scopeOk, orderOk, levelOk, widthOk, formatOk, bitsOk, windowOk, fieldOk, Bool.and_eq_true,
    Bool.or_eq_true, Bool.not_eq_true', decide_eq_true_eq, decide_eq_false_iff_not] at h
  show decodeAny (encS 32 4#6 x1 x2 x3) = .ok (.bsVlc x1 x2 x3)
  simp only [decodeAny, decBs, legal, encS_26_6, encS_20_6, encS_19_1, encS_15_5, encS_15_4, encS_14_1, encS_10_5, encS_10_4, encS_9_1, encS_8_2, encS_7_3, encS_7_1, encS_6_4, encS_5_5, encS_5_4, encS_4_6, encS_4_3, encS_3_4, encS_2_8, encS_2_3, encS_1_9, encS_0_10, encS_0_6, encS_0_5, encS_0_4, encS_0_3, encS_0_2, encS_0_1,
    BitVec.reduceToNat, List.any_nil, List.any_cons, id_eq, Bool.false_eq_true, Bool.or_false, Bool.or_self, if_false, ne_eq, not_true_eq_false, decide_false,
    BitVec.reduceEq, not_false_eq_true, decide_true, BitVec.ofNat_eq_ofNat, reduceIte]
  have h3 : x3.toNat ≤ 16 := by simpa [BitVec.le_def] using h.2
  have h1 : ¬ x3 = 0#10 := h.1
  simp [legalIn, encS_0_10, h1, Nat.not_lt.mpr h3]
theorem RoundTrip.bsPut (x1 : BitVec 5) (x2 : BitVec 10) : RoundTrip.Statement (.bsPut x1 x2) := by
  intro _ h
  simp only [Instr.wf, scopeOk, orderOk, levelOk, widthOk, formatOk, bitsOk, windowOk, fieldOk, Bool.and_eq_true,
    Bool.or_eq_true, Bool.not_eq_true', decide_eq_true_eq, decide_eq_false_iff_not] at h
  show decodeAny (encS 32 5#6 x1 0#5 x2) = .ok (.bsPut x1 x2)
  simp only [decodeAny, decBs, legal, encS_26_6, encS_20_6, encS_19_1, encS_15_5, encS_15_4, encS_14_1, encS_10_5, encS_10_4, encS_9_1, encS_8_2, encS_7_3, encS_7_1, encS_6_4, encS_5_5, encS_5_4, encS_4_6, encS_4_3, encS_3_4, encS_2_8, encS_2_3, encS_1_9, encS_0_10, encS_0_6, encS_0_5, encS_0_4, encS_0_3, encS_0_2, encS_0_1,
    BitVec.reduceToNat, List.any_nil, List.any_cons, id_eq, Bool.false_eq_true, Bool.or_false, Bool.or_self, if_false, ne_eq, not_true_eq_false, decide_false,
    BitVec.reduceEq, not_false_eq_true, decide_true, BitVec.ofNat_eq_ofNat, reduceIte]
  have h3 : x2.toNat ≤ 57 := by simpa [BitVec.le_def] using h.2
  have h1 : ¬ x2 = 0#10 := h.1
  simp [legalIn, encS_0_10, h1, Nat.not_lt.mpr h3]
theorem RoundTrip.bsFlush (x1 : BitVec 5) : RoundTrip.Statement (.bsFlush x1) := by
  intro _ _
  show decodeAny (encS 32 6#6 x1 0#5 0#10) = .ok (.bsFlush x1)
  simp only [decodeAny, decBs, legal, encS_26_6, encS_20_6, encS_19_1, encS_15_5, encS_15_4, encS_14_1, encS_10_5, encS_10_4, encS_9_1, encS_8_2, encS_7_3, encS_7_1, encS_6_4, encS_5_5, encS_5_4, encS_4_6, encS_4_3, encS_3_4, encS_2_8, encS_2_3, encS_1_9, encS_0_10, encS_0_6, encS_0_5, encS_0_4, encS_0_3, encS_0_2, encS_0_1,
    BitVec.reduceToNat, List.any_nil, List.any_cons, id_eq, Bool.false_eq_true, Bool.or_false, Bool.or_self, if_false, ne_eq, not_true_eq_false, decide_false,
    BitVec.reduceEq, not_false_eq_true, decide_true, BitVec.ofNat_eq_ofNat, reduceIte]
theorem RoundTrip.bsOattach (x1 : BitVec 5) : RoundTrip.Statement (.bsOattach x1) := by
  intro _ _
  show decodeAny (encS 32 7#6 x1 0#5 0#10) = .ok (.bsOattach x1)
  simp only [decodeAny, decBs, legal, encS_26_6, encS_20_6, encS_19_1, encS_15_5, encS_15_4, encS_14_1, encS_10_5, encS_10_4, encS_9_1, encS_8_2, encS_7_3, encS_7_1, encS_6_4, encS_5_5, encS_5_4, encS_4_6, encS_4_3, encS_3_4, encS_2_8, encS_2_3, encS_1_9, encS_0_10, encS_0_6, encS_0_5, encS_0_4, encS_0_3, encS_0_2, encS_0_1,
    BitVec.reduceToNat, List.any_nil, List.any_cons, id_eq, Bool.false_eq_true, Bool.or_false, Bool.or_self, if_false, ne_eq, not_true_eq_false, decide_false,
    BitVec.reduceEq, not_false_eq_true, decide_true, BitVec.ofNat_eq_ofNat, reduceIte]
theorem RoundTrip.rndLo (x1 : BitVec 5) (x2 : BitVec 5) (x3 : BitVec 5) : RoundTrip.Statement (.rndLo x1 x2 x3) := by
  intro _ _
  show decodeAny (encRR 33 x1 x2 x3 0#11) = .ok (.rndLo x1 x2 x3)
  simp only [decodeAny, decRnd, legal, encRR_26_6, encRR_21_5, encRR_16_5, encRR_11_5, encRR_6_5, encRR_3_3, encRR_0_11, encRR_0_3,
    BitVec.reduceToNat, List.any_nil, List.any_cons, id_eq, Bool.false_eq_true, Bool.or_false, Bool.or_self, if_false, ne_eq, not_true_eq_false, decide_false,
    BitVec.reduceEq, not_false_eq_true, decide_true, BitVec.ofNat_eq_ofNat, reduceIte]
theorem RoundTrip.rndHi (x1 : BitVec 5) (x2 : BitVec 5) (x3 : BitVec 5) : RoundTrip.Statement (.rndHi x1 x2 x3) := by
  intro _ _
  show decodeAny (encRR 33 x1 x2 x3 1#11) = .ok (.rndHi x1 x2 x3)
  simp only [decodeAny, decRnd, legal, encRR_26_6, encRR_21_5, encRR_16_5, encRR_11_5, encRR_6_5, encRR_3_3, encRR_0_11, encRR_0_3,
    BitVec.reduceToNat, List.any_nil, List.any_cons, id_eq, Bool.false_eq_true, Bool.or_false, Bool.or_self, if_false, ne_eq, not_true_eq_false, decide_false,
    BitVec.reduceEq, not_false_eq_true, decide_true, BitVec.ofNat_eq_ofNat, reduceIte]
theorem RoundTrip.illegalInstruction (x1 : Reject) : RoundTrip.Statement (.illegalInstruction x1) := by
  intro h _; cases h
theorem RoundTrip.lnErw (x1 : BitVec 5) (x2 : BitVec 6) : RoundTrip.Statement (.lnErw x1 x2) := by
  intro _ h
  simp only [Instr.wf, scopeOk, orderOk, levelOk, widthOk, formatOk, bitsOk, windowOk, fieldOk, Bool.and_eq_true,
    Bool.or_eq_true, Bool.not_eq_true', decide_eq_true_eq, decide_eq_false_iff_not] at h
  show decodeAny (encS 40 0#6 x1 0#5 (0#4 ++ x2)) = .ok (.lnErw x1 x2)
  simp (disch := omega) only [decodeAny, decLn, decErw, decErr, decIndex, legal, encS_26_6, encS_20_6, encS_19_1, encS_15_5, encS_15_4, encS_14_1, encS_10_5, encS_10_4, encS_9_1, encS_8_2, encS_7_3, encS_7_1, encS_6_4, encS_5_5, encS_5_4, encS_4_6, encS_4_3, encS_3_4, encS_2_8, encS_2_3, encS_1_9, encS_0_10, encS_0_6, encS_0_5, encS_0_4, encS_0_3, encS_0_2, encS_0_1,
    BitVec.extractLsb'_append_eq_of_le, BitVec.extractLsb'_append_eq_of_add_le, Nat.reduceSub, BitVec.extractLsb'_eq_self,
    BitVec.reduceExtractLsb', Nat.sub_self, Nat.sub_zero, BitVec.reduceToNat, List.any_nil, List.any_cons, id_eq, Bool.false_eq_true, Bool.or_false, Bool.or_self, if_false, ne_eq, not_true_eq_false, decide_false,
    BitVec.reduceEq, not_false_eq_true, decide_true, BitVec.ofNat_eq_ofNat, reduceIte]
  simp_all
theorem RoundTrip.lnErr (x1 : BitVec 5) (x2 : BitVec 6) : RoundTrip.Statement (.lnErr x1 x2) := by
  intro _ h
  simp only [Instr.wf, scopeOk, orderOk, levelOk, widthOk, formatOk, bitsOk, windowOk, fieldOk, Bool.and_eq_true,
    Bool.or_eq_true, Bool.not_eq_true', decide_eq_true_eq, decide_eq_false_iff_not] at h
  show decodeAny (encS 40 1#6 0#5 x1 (0#4 ++ x2)) = .ok (.lnErr x1 x2)
  simp (disch := omega) only [decodeAny, decLn, decErw, decErr, decIndex, legal, encS_26_6, encS_20_6, encS_19_1, encS_15_5, encS_15_4, encS_14_1, encS_10_5, encS_10_4, encS_9_1, encS_8_2, encS_7_3, encS_7_1, encS_6_4, encS_5_5, encS_5_4, encS_4_6, encS_4_3, encS_3_4, encS_2_8, encS_2_3, encS_1_9, encS_0_10, encS_0_6, encS_0_5, encS_0_4, encS_0_3, encS_0_2, encS_0_1,
    BitVec.extractLsb'_append_eq_of_le, BitVec.extractLsb'_append_eq_of_add_le, Nat.reduceSub, BitVec.extractLsb'_eq_self,
    BitVec.reduceExtractLsb', Nat.sub_self, Nat.sub_zero, BitVec.reduceToNat, List.any_nil, List.any_cons, id_eq, Bool.false_eq_true, Bool.or_false, Bool.or_self, if_false, ne_eq, not_true_eq_false, decide_false,
    BitVec.reduceEq, not_false_eq_true, decide_true, BitVec.ofNat_eq_ofNat, reduceIte]
  simp_all
theorem RoundTrip.lnLaunch (x1 : BitVec 5) (x2 : BitVec 5) : RoundTrip.Statement (.lnLaunch x1 x2) := by
  intro _ _
  show decodeAny (encS 40 2#6 x1 x2 0#10) = .ok (.lnLaunch x1 x2)
  simp only [decodeAny, decLn, legal, encS_26_6, encS_20_6, encS_19_1, encS_15_5, encS_15_4, encS_14_1, encS_10_5, encS_10_4, encS_9_1, encS_8_2, encS_7_3, encS_7_1, encS_6_4, encS_5_5, encS_5_4, encS_4_6, encS_4_3, encS_3_4, encS_2_8, encS_2_3, encS_1_9, encS_0_10, encS_0_6, encS_0_5, encS_0_4, encS_0_3, encS_0_2, encS_0_1,
    BitVec.reduceToNat, List.any_nil, List.any_cons, id_eq, Bool.false_eq_true, Bool.or_false, Bool.or_self, if_false, ne_eq, not_true_eq_false, decide_false,
    BitVec.reduceEq, not_false_eq_true, decide_true, BitVec.ofNat_eq_ofNat, reduceIte]
theorem RoundTrip.lnQstat (x1 : BitVec 5) (x2 : BitVec 5) : RoundTrip.Statement (.lnQstat x1 x2) := by
  intro _ _
  show decodeAny (encS 40 3#6 x1 x2 0#10) = .ok (.lnQstat x1 x2)
  simp only [decodeAny, decLn, legal, encS_26_6, encS_20_6, encS_19_1, encS_15_5, encS_15_4, encS_14_1, encS_10_5, encS_10_4, encS_9_1, encS_8_2, encS_7_3, encS_7_1, encS_6_4, encS_5_5, encS_5_4, encS_4_6, encS_4_3, encS_3_4, encS_2_8, encS_2_3, encS_1_9, encS_0_10, encS_0_6, encS_0_5, encS_0_4, encS_0_3, encS_0_2, encS_0_1,
    BitVec.reduceToNat, List.any_nil, List.any_cons, id_eq, Bool.false_eq_true, Bool.or_false, Bool.or_self, if_false, ne_eq, not_true_eq_false, decide_false,
    BitVec.reduceEq, not_false_eq_true, decide_true, BitVec.ofNat_eq_ofNat, reduceIte]
theorem RoundTrip.lnKill (x1 : BitVec 5) : RoundTrip.Statement (.lnKill x1) := by
  intro _ _
  show decodeAny (encS 40 4#6 x1 0#5 0#10) = .ok (.lnKill x1)
  simp only [decodeAny, decLn, legal, encS_26_6, encS_20_6, encS_19_1, encS_15_5, encS_15_4, encS_14_1, encS_10_5, encS_10_4, encS_9_1, encS_8_2, encS_7_3, encS_7_1, encS_6_4, encS_5_5, encS_5_4, encS_4_6, encS_4_3, encS_3_4, encS_2_8, encS_2_3, encS_1_9, encS_0_10, encS_0_6, encS_0_5, encS_0_4, encS_0_3, encS_0_2, encS_0_1,
    BitVec.reduceToNat, List.any_nil, List.any_cons, id_eq, Bool.false_eq_true, Bool.or_false, Bool.or_self, if_false, ne_eq, not_true_eq_false, decide_false,
    BitVec.reduceEq, not_false_eq_true, decide_true, BitVec.ofNat_eq_ofNat, reduceIte]
theorem RoundTrip.frErw (x1 : BitVec 5) (x2 : BitVec 6) : RoundTrip.Statement (.frErw x1 x2) := by
  intro _ h
  simp only [Instr.wf, scopeOk, orderOk, levelOk, widthOk, formatOk, bitsOk, windowOk, fieldOk, Bool.and_eq_true,
    Bool.or_eq_true, Bool.not_eq_true', decide_eq_true_eq, decide_eq_false_iff_not] at h
  show decodeAny (encS 41 0#6 x1 0#5 (0#4 ++ x2)) = .ok (.frErw x1 x2)
  simp (disch := omega) only [decodeAny, decFr, decErw, decErr, decIndex, legal, encS_26_6, encS_20_6, encS_19_1, encS_15_5, encS_15_4, encS_14_1, encS_10_5, encS_10_4, encS_9_1, encS_8_2, encS_7_3, encS_7_1, encS_6_4, encS_5_5, encS_5_4, encS_4_6, encS_4_3, encS_3_4, encS_2_8, encS_2_3, encS_1_9, encS_0_10, encS_0_6, encS_0_5, encS_0_4, encS_0_3, encS_0_2, encS_0_1,
    BitVec.extractLsb'_append_eq_of_le, BitVec.extractLsb'_append_eq_of_add_le, Nat.reduceSub, BitVec.extractLsb'_eq_self,
    BitVec.reduceExtractLsb', Nat.sub_self, Nat.sub_zero, BitVec.reduceToNat, List.any_nil, List.any_cons, id_eq, Bool.false_eq_true, Bool.or_false, Bool.or_self, if_false, ne_eq, not_true_eq_false, decide_false,
    BitVec.reduceEq, not_false_eq_true, decide_true, BitVec.ofNat_eq_ofNat, reduceIte]
  simp_all
theorem RoundTrip.frErr (x1 : BitVec 5) (x2 : BitVec 6) : RoundTrip.Statement (.frErr x1 x2) := by
  intro _ h
  simp only [Instr.wf, scopeOk, orderOk, levelOk, widthOk, formatOk, bitsOk, windowOk, fieldOk, Bool.and_eq_true,
    Bool.or_eq_true, Bool.not_eq_true', decide_eq_true_eq, decide_eq_false_iff_not] at h
  show decodeAny (encS 41 1#6 0#5 x1 (0#4 ++ x2)) = .ok (.frErr x1 x2)
  simp (disch := omega) only [decodeAny, decFr, decErw, decErr, decIndex, legal, encS_26_6, encS_20_6, encS_19_1, encS_15_5, encS_15_4, encS_14_1, encS_10_5, encS_10_4, encS_9_1, encS_8_2, encS_7_3, encS_7_1, encS_6_4, encS_5_5, encS_5_4, encS_4_6, encS_4_3, encS_3_4, encS_2_8, encS_2_3, encS_1_9, encS_0_10, encS_0_6, encS_0_5, encS_0_4, encS_0_3, encS_0_2, encS_0_1,
    BitVec.extractLsb'_append_eq_of_le, BitVec.extractLsb'_append_eq_of_add_le, Nat.reduceSub, BitVec.extractLsb'_eq_self,
    BitVec.reduceExtractLsb', Nat.sub_self, Nat.sub_zero, BitVec.reduceToNat, List.any_nil, List.any_cons, id_eq, Bool.false_eq_true, Bool.or_false, Bool.or_self, if_false, ne_eq, not_true_eq_false, decide_false,
    BitVec.reduceEq, not_false_eq_true, decide_true, BitVec.ofNat_eq_ofNat, reduceIte]
  simp_all
theorem RoundTrip.frPush (x1 : BitVec 5) (x2 : BitVec 5) : RoundTrip.Statement (.frPush x1 x2) := by
  intro _ _
  show decodeAny (encS 41 2#6 x1 x2 0#10) = .ok (.frPush x1 x2)
  simp only [decodeAny, decFr, legal, encS_26_6, encS_20_6, encS_19_1, encS_15_5, encS_15_4, encS_14_1, encS_10_5, encS_10_4, encS_9_1, encS_8_2, encS_7_3, encS_7_1, encS_6_4, encS_5_5, encS_5_4, encS_4_6, encS_4_3, encS_3_4, encS_2_8, encS_2_3, encS_1_9, encS_0_10, encS_0_6, encS_0_5, encS_0_4, encS_0_3, encS_0_2, encS_0_1,
    BitVec.reduceToNat, List.any_nil, List.any_cons, id_eq, Bool.false_eq_true, Bool.or_false, Bool.or_self, if_false, ne_eq, not_true_eq_false, decide_false,
    BitVec.reduceEq, not_false_eq_true, decide_true, BitVec.ofNat_eq_ofNat, reduceIte]
theorem RoundTrip.frPop (x1 : BitVec 5) : RoundTrip.Statement (.frPop x1) := by
  intro _ _
  show decodeAny (encS 41 3#6 x1 0#5 0#10) = .ok (.frPop x1)
  simp only [decodeAny, decFr, legal, encS_26_6, encS_20_6, encS_19_1, encS_15_5, encS_15_4, encS_14_1, encS_10_5, encS_10_4, encS_9_1, encS_8_2, encS_7_3, encS_7_1, encS_6_4, encS_5_5, encS_5_4, encS_4_6, encS_4_3, encS_3_4, encS_2_8, encS_2_3, encS_1_9, encS_0_10, encS_0_6, encS_0_5, encS_0_4, encS_0_3, encS_0_2, encS_0_1,
    BitVec.reduceToNat, List.any_nil, List.any_cons, id_eq, Bool.false_eq_true, Bool.or_false, Bool.or_self, if_false, ne_eq, not_true_eq_false, decide_false,
    BitVec.reduceEq, not_false_eq_true, decide_true, BitVec.ofNat_eq_ofNat, reduceIte]
theorem RoundTrip.frEnter (x1 : BitVec 5) : RoundTrip.Statement (.frEnter x1) := by
  intro _ _
  show decodeAny (encS 41 4#6 x1 0#5 0#10) = .ok (.frEnter x1)
  simp only [decodeAny, decFr, legal, encS_26_6, encS_20_6, encS_19_1, encS_15_5, encS_15_4, encS_14_1, encS_10_5, encS_10_4, encS_9_1, encS_8_2, encS_7_3, encS_7_1, encS_6_4, encS_5_5, encS_5_4, encS_4_6, encS_4_3, encS_3_4, encS_2_8, encS_2_3, encS_1_9, encS_0_10, encS_0_6, encS_0_5, encS_0_4, encS_0_3, encS_0_2, encS_0_1,
    BitVec.reduceToNat, List.any_nil, List.any_cons, id_eq, Bool.false_eq_true, Bool.or_false, Bool.or_self, if_false, ne_eq, not_true_eq_false, decide_false,
    BitVec.reduceEq, not_false_eq_true, decide_true, BitVec.ofNat_eq_ofNat, reduceIte]
theorem RoundTrip.frLeave : RoundTrip.Statement .frLeave := by
  intro _ _
  show decodeAny (encS 41 5#6 0#5 0#5 0#10) = .ok .frLeave
  simp only [decodeAny, decFr, legal, encS_26_6, encS_20_6, encS_19_1, encS_15_5, encS_15_4, encS_14_1, encS_10_5, encS_10_4, encS_9_1, encS_8_2, encS_7_3, encS_7_1, encS_6_4, encS_5_5, encS_5_4, encS_4_6, encS_4_3, encS_3_4, encS_2_8, encS_2_3, encS_1_9, encS_0_10, encS_0_6, encS_0_5, encS_0_4, encS_0_3, encS_0_2, encS_0_1,
    BitVec.reduceToNat, List.any_nil, List.any_cons, id_eq, Bool.false_eq_true, Bool.or_false, Bool.or_self, if_false, ne_eq, not_true_eq_false, decide_false,
    BitVec.reduceEq, not_false_eq_true, decide_true, BitVec.ofNat_eq_ofNat, reduceIte]
theorem RoundTrip.frApp (x1 : BitVec 5) (x2 : BitVec 5) : RoundTrip.Statement (.frApp x1 x2) := by
  intro _ _
  show decodeAny (encS 41 6#6 x1 x2 0#10) = .ok (.frApp x1 x2)
  simp only [decodeAny, decFr, legal, encS_26_6, encS_20_6, encS_19_1, encS_15_5, encS_15_4, encS_14_1, encS_10_5, encS_10_4, encS_9_1, encS_8_2, encS_7_3, encS_7_1, encS_6_4, encS_5_5, encS_5_4, encS_4_6, encS_4_3, encS_3_4, encS_2_8, encS_2_3, encS_1_9, encS_0_10, encS_0_6, encS_0_5, encS_0_4, encS_0_3, encS_0_2, encS_0_1,
    BitVec.reduceToNat, List.any_nil, List.any_cons, id_eq, Bool.false_eq_true, Bool.or_false, Bool.or_self, if_false, ne_eq, not_true_eq_false, decide_false,
    BitVec.reduceEq, not_false_eq_true, decide_true, BitVec.ofNat_eq_ofNat, reduceIte]
theorem RoundTrip.frSeal (x1 : BitVec 5) : RoundTrip.Statement (.frSeal x1) := by
  intro _ _
  show decodeAny (encS 41 7#6 x1 0#5 0#10) = .ok (.frSeal x1)
  simp only [decodeAny, decFr, legal, encS_26_6, encS_20_6, encS_19_1, encS_15_5, encS_15_4, encS_14_1, encS_10_5, encS_10_4, encS_9_1, encS_8_2, encS_7_3, encS_7_1, encS_6_4, encS_5_5, encS_5_4, encS_4_6, encS_4_3, encS_3_4, encS_2_8, encS_2_3, encS_1_9, encS_0_10, encS_0_6, encS_0_5, encS_0_4, encS_0_3, encS_0_2, encS_0_1,
    BitVec.reduceToNat, List.any_nil, List.any_cons, id_eq, Bool.false_eq_true, Bool.or_false, Bool.or_self, if_false, ne_eq, not_true_eq_false, decide_false,
    BitVec.reduceEq, not_false_eq_true, decide_true, BitVec.ofNat_eq_ofNat, reduceIte]
theorem RoundTrip.frCut (x1 : BitVec 5) (x2 : BitVec 5) : RoundTrip.Statement (.frCut x1 x2) := by
  intro _ _
  show decodeAny (encS 41 8#6 x1 x2 0#10) = .ok (.frCut x1 x2)
  simp only [decodeAny, decFr, legal, encS_26_6, encS_20_6, encS_19_1, encS_15_5, encS_15_4, encS_14_1, encS_10_5, encS_10_4, encS_9_1, encS_8_2, encS_7_3, encS_7_1, encS_6_4, encS_5_5, encS_5_4, encS_4_6, encS_4_3, encS_3_4, encS_2_8, encS_2_3, encS_1_9, encS_0_10, encS_0_6, encS_0_5, encS_0_4, encS_0_3, encS_0_2, encS_0_1,
    BitVec.reduceToNat, List.any_nil, List.any_cons, id_eq, Bool.false_eq_true, Bool.or_false, Bool.or_self, if_false, ne_eq, not_true_eq_false, decide_false,
    BitVec.reduceEq, not_false_eq_true, decide_true, BitVec.ofNat_eq_ofNat, reduceIte]
theorem RoundTrip.frRd (x1 : BitVec 5) (x2 : BitVec 5) (x3 : BitVec 5) : RoundTrip.Statement (.frRd x1 x2 x3) := by
  intro _ h
  simp only [Instr.wf, scopeOk, orderOk, levelOk, widthOk, formatOk, bitsOk, windowOk, fieldOk, Bool.and_eq_true,
    Bool.or_eq_true, Bool.not_eq_true', decide_eq_true_eq, decide_eq_false_iff_not] at h
  show decodeAny (encS 41 9#6 x1 x2 (0#5 ++ x3)) = .ok (.frRd x1 x2 x3)
  simp (disch := omega) only [decodeAny, decFr, legal, encS_26_6, encS_20_6, encS_19_1, encS_15_5, encS_15_4, encS_14_1, encS_10_5, encS_10_4, encS_9_1, encS_8_2, encS_7_3, encS_7_1, encS_6_4, encS_5_5, encS_5_4, encS_4_6, encS_4_3, encS_3_4, encS_2_8, encS_2_3, encS_1_9, encS_0_10, encS_0_6, encS_0_5, encS_0_4, encS_0_3, encS_0_2, encS_0_1,
    BitVec.extractLsb'_append_eq_of_le, BitVec.extractLsb'_append_eq_of_add_le, Nat.reduceSub, BitVec.extractLsb'_eq_self,
    BitVec.reduceExtractLsb', Nat.sub_self, Nat.sub_zero, BitVec.reduceToNat, List.any_nil, List.any_cons, id_eq, Bool.false_eq_true, Bool.or_false, Bool.or_self, if_false, ne_eq, not_true_eq_false, decide_false,
    BitVec.reduceEq, not_false_eq_true, decide_true, BitVec.ofNat_eq_ofNat, reduceIte]
  simp_all
theorem RoundTrip.frScope (x1 : BitVec 5) (x2 : BitVec 4) : RoundTrip.Statement (.frScope x1 x2) := by
  intro _ _
  show decodeAny (encS 41 10#6 x1 0#5 (0#6 ++ x2)) = .ok (.frScope x1 x2)
  simp (disch := omega) only [decodeAny, decFr, legal, encS_26_6, encS_20_6, encS_19_1, encS_15_5, encS_15_4, encS_14_1, encS_10_5, encS_10_4, encS_9_1, encS_8_2, encS_7_3, encS_7_1, encS_6_4, encS_5_5, encS_5_4, encS_4_6, encS_4_3, encS_3_4, encS_2_8, encS_2_3, encS_1_9, encS_0_10, encS_0_6, encS_0_5, encS_0_4, encS_0_3, encS_0_2, encS_0_1,
    BitVec.extractLsb'_append_eq_of_le, BitVec.extractLsb'_append_eq_of_add_le, Nat.reduceSub, BitVec.extractLsb'_eq_self,
    BitVec.reduceExtractLsb', Nat.sub_self, Nat.sub_zero, BitVec.reduceToNat, List.any_nil, List.any_cons, id_eq, Bool.false_eq_true, Bool.or_false, Bool.or_self, if_false, ne_eq, not_true_eq_false, decide_false,
    BitVec.reduceEq, not_false_eq_true, decide_true, BitVec.ofNat_eq_ofNat, reduceIte]
theorem RoundTrip.atErw (x1 : BitVec 5) (x2 : BitVec 6) : RoundTrip.Statement (.atErw x1 x2) := by
  intro _ h
  simp only [Instr.wf, scopeOk, orderOk, levelOk, widthOk, formatOk, bitsOk, windowOk, fieldOk, Bool.and_eq_true,
    Bool.or_eq_true, Bool.not_eq_true', decide_eq_true_eq, decide_eq_false_iff_not] at h
  show decodeAny (encS 42 0#6 x1 0#5 (0#4 ++ x2)) = .ok (.atErw x1 x2)
  simp (disch := omega) only [decodeAny, decAt, decErw, decErr, decIndex, legal, encS_26_6, encS_20_6, encS_19_1, encS_15_5, encS_15_4, encS_14_1, encS_10_5, encS_10_4, encS_9_1, encS_8_2, encS_7_3, encS_7_1, encS_6_4, encS_5_5, encS_5_4, encS_4_6, encS_4_3, encS_3_4, encS_2_8, encS_2_3, encS_1_9, encS_0_10, encS_0_6, encS_0_5, encS_0_4, encS_0_3, encS_0_2, encS_0_1,
    BitVec.extractLsb'_append_eq_of_le, BitVec.extractLsb'_append_eq_of_add_le, Nat.reduceSub, BitVec.extractLsb'_eq_self,
    BitVec.reduceExtractLsb', Nat.sub_self, Nat.sub_zero, BitVec.reduceToNat, List.any_nil, List.any_cons, id_eq, Bool.false_eq_true, Bool.or_false, Bool.or_self, if_false, ne_eq, not_true_eq_false, decide_false,
    BitVec.reduceEq, not_false_eq_true, decide_true, BitVec.ofNat_eq_ofNat, reduceIte]
  simp_all
theorem RoundTrip.atErr (x1 : BitVec 5) (x2 : BitVec 6) : RoundTrip.Statement (.atErr x1 x2) := by
  intro _ h
  simp only [Instr.wf, scopeOk, orderOk, levelOk, widthOk, formatOk, bitsOk, windowOk, fieldOk, Bool.and_eq_true,
    Bool.or_eq_true, Bool.not_eq_true', decide_eq_true_eq, decide_eq_false_iff_not] at h
  show decodeAny (encS 42 1#6 0#5 x1 (0#4 ++ x2)) = .ok (.atErr x1 x2)
  simp (disch := omega) only [decodeAny, decAt, decErw, decErr, decIndex, legal, encS_26_6, encS_20_6, encS_19_1, encS_15_5, encS_15_4, encS_14_1, encS_10_5, encS_10_4, encS_9_1, encS_8_2, encS_7_3, encS_7_1, encS_6_4, encS_5_5, encS_5_4, encS_4_6, encS_4_3, encS_3_4, encS_2_8, encS_2_3, encS_1_9, encS_0_10, encS_0_6, encS_0_5, encS_0_4, encS_0_3, encS_0_2, encS_0_1,
    BitVec.extractLsb'_append_eq_of_le, BitVec.extractLsb'_append_eq_of_add_le, Nat.reduceSub, BitVec.extractLsb'_eq_self,
    BitVec.reduceExtractLsb', Nat.sub_self, Nat.sub_zero, BitVec.reduceToNat, List.any_nil, List.any_cons, id_eq, Bool.false_eq_true, Bool.or_false, Bool.or_self, if_false, ne_eq, not_true_eq_false, decide_false,
    BitVec.reduceEq, not_false_eq_true, decide_true, BitVec.ofNat_eq_ofNat, reduceIte]
  simp_all
theorem RoundTrip.atQ : RoundTrip.Statement .atQ := by
  intro _ _
  show decodeAny (encS 42 2#6 0#5 0#5 0#10) = .ok .atQ
  simp only [decodeAny, decAt, legal, encS_26_6, encS_20_6, encS_19_1, encS_15_5, encS_15_4, encS_14_1, encS_10_5, encS_10_4, encS_9_1, encS_8_2, encS_7_3, encS_7_1, encS_6_4, encS_5_5, encS_5_4, encS_4_6, encS_4_3, encS_3_4, encS_2_8, encS_2_3, encS_1_9, encS_0_10, encS_0_6, encS_0_5, encS_0_4, encS_0_3, encS_0_2, encS_0_1,
    BitVec.reduceToNat, List.any_nil, List.any_cons, id_eq, Bool.false_eq_true, Bool.or_false, Bool.or_self, if_false, ne_eq, not_true_eq_false, decide_false,
    BitVec.reduceEq, not_false_eq_true, decide_true, BitVec.ofNat_eq_ofNat, reduceIte]
theorem RoundTrip.atKv (x1 : BitVec 5) (x2 : BitVec 4) : RoundTrip.Statement (.atKv x1 x2) := by
  intro _ _
  show decodeAny (encS 42 3#6 x1 0#5 (0#6 ++ x2)) = .ok (.atKv x1 x2)
  simp (disch := omega) only [decodeAny, decAt, legal, encS_26_6, encS_20_6, encS_19_1, encS_15_5, encS_15_4, encS_14_1, encS_10_5, encS_10_4, encS_9_1, encS_8_2, encS_7_3, encS_7_1, encS_6_4, encS_5_5, encS_5_4, encS_4_6, encS_4_3, encS_3_4, encS_2_8, encS_2_3, encS_1_9, encS_0_10, encS_0_6, encS_0_5, encS_0_4, encS_0_3, encS_0_2, encS_0_1,
    BitVec.extractLsb'_append_eq_of_le, BitVec.extractLsb'_append_eq_of_add_le, Nat.reduceSub, BitVec.extractLsb'_eq_self,
    BitVec.reduceExtractLsb', Nat.sub_self, Nat.sub_zero, BitVec.reduceToNat, List.any_nil, List.any_cons, id_eq, Bool.false_eq_true, Bool.or_false, Bool.or_self, if_false, ne_eq, not_true_eq_false, decide_false,
    BitVec.reduceEq, not_false_eq_true, decide_true, BitVec.ofNat_eq_ofNat, reduceIte]
theorem RoundTrip.atTree (x1 : BitVec 5) (x2 : BitVec 5) : RoundTrip.Statement (.atTree x1 x2) := by
  intro _ _
  show decodeAny (encS 42 4#6 x1 x2 0#10) = .ok (.atTree x1 x2)
  simp only [decodeAny, decAt, legal, encS_26_6, encS_20_6, encS_19_1, encS_15_5, encS_15_4, encS_14_1, encS_10_5, encS_10_4, encS_9_1, encS_8_2, encS_7_3, encS_7_1, encS_6_4, encS_5_5, encS_5_4, encS_4_6, encS_4_3, encS_3_4, encS_2_8, encS_2_3, encS_1_9, encS_0_10, encS_0_6, encS_0_5, encS_0_4, encS_0_3, encS_0_2, encS_0_1,
    BitVec.reduceToNat, List.any_nil, List.any_cons, id_eq, Bool.false_eq_true, Bool.or_false, Bool.or_self, if_false, ne_eq, not_true_eq_false, decide_false,
    BitVec.reduceEq, not_false_eq_true, decide_true, BitVec.ofNat_eq_ofNat, reduceIte]
theorem RoundTrip.atFold (x1 : BitVec 5) (x2 : BitVec 4) : RoundTrip.Statement (.atFold x1 x2) := by
  intro _ _
  show decodeAny (encS 42 5#6 x1 0#5 (0#6 ++ x2)) = .ok (.atFold x1 x2)
  simp (disch := omega) only [decodeAny, decAt, legal, encS_26_6, encS_20_6, encS_19_1, encS_15_5, encS_15_4, encS_14_1, encS_10_5, encS_10_4, encS_9_1, encS_8_2, encS_7_3, encS_7_1, encS_6_4, encS_5_5, encS_5_4, encS_4_6, encS_4_3, encS_3_4, encS_2_8, encS_2_3, encS_1_9, encS_0_10, encS_0_6, encS_0_5, encS_0_4, encS_0_3, encS_0_2, encS_0_1,
    BitVec.extractLsb'_append_eq_of_le, BitVec.extractLsb'_append_eq_of_add_le, Nat.reduceSub, BitVec.extractLsb'_eq_self,
    BitVec.reduceExtractLsb', Nat.sub_self, Nat.sub_zero, BitVec.reduceToNat, List.any_nil, List.any_cons, id_eq, Bool.false_eq_true, Bool.or_false, Bool.or_self, if_false, ne_eq, not_true_eq_false, decide_false,
    BitVec.reduceEq, not_false_eq_true, decide_true, BitVec.ofNat_eq_ofNat, reduceIte]
theorem RoundTrip.atLin : RoundTrip.Statement .atLin := by
  intro _ _
  show decodeAny (encS 42 6#6 0#5 0#5 0#10) = .ok .atLin
  simp only [decodeAny, decAt, legal, encS_26_6, encS_20_6, encS_19_1, encS_15_5, encS_15_4, encS_14_1, encS_10_5, encS_10_4, encS_9_1, encS_8_2, encS_7_3, encS_7_1, encS_6_4, encS_5_5, encS_5_4, encS_4_6, encS_4_3, encS_3_4, encS_2_8, encS_2_3, encS_1_9, encS_0_10, encS_0_6, encS_0_5, encS_0_4, encS_0_3, encS_0_2, encS_0_1,
    BitVec.reduceToNat, List.any_nil, List.any_cons, id_eq, Bool.false_eq_true, Bool.or_false, Bool.or_self, if_false, ne_eq, not_true_eq_false, decide_false,
    BitVec.reduceEq, not_false_eq_true, decide_true, BitVec.ofNat_eq_ofNat, reduceIte]
theorem RoundTrip.atMerge (x1 : BitVec 5) : RoundTrip.Statement (.atMerge x1) := by
  intro _ _
  show decodeAny (encS 42 7#6 x1 0#5 0#10) = .ok (.atMerge x1)
  simp only [decodeAny, decAt, legal, encS_26_6, encS_20_6, encS_19_1, encS_15_5, encS_15_4, encS_14_1, encS_10_5, encS_10_4, encS_9_1, encS_8_2, encS_7_3, encS_7_1, encS_6_4, encS_5_5, encS_5_4, encS_4_6, encS_4_3, encS_3_4, encS_2_8, encS_2_3, encS_1_9, encS_0_10, encS_0_6, encS_0_5, encS_0_4, encS_0_3, encS_0_2, encS_0_1,
    BitVec.reduceToNat, List.any_nil, List.any_cons, id_eq, Bool.false_eq_true, Bool.or_false, Bool.or_self, if_false, ne_eq, not_true_eq_false, decide_false,
    BitVec.reduceEq, not_false_eq_true, decide_true, BitVec.ofNat_eq_ofNat, reduceIte]
theorem RoundTrip.atOut (x1 : BitVec 1) : RoundTrip.Statement (.atOut x1) := by
  intro _ _
  show decodeAny (encS 42 8#6 0#5 0#5 (0#9 ++ x1)) = .ok (.atOut x1)
  simp (disch := omega) only [decodeAny, decAt, legal, encS_26_6, encS_20_6, encS_19_1, encS_15_5, encS_15_4, encS_14_1, encS_10_5, encS_10_4, encS_9_1, encS_8_2, encS_7_3, encS_7_1, encS_6_4, encS_5_5, encS_5_4, encS_4_6, encS_4_3, encS_3_4, encS_2_8, encS_2_3, encS_1_9, encS_0_10, encS_0_6, encS_0_5, encS_0_4, encS_0_3, encS_0_2, encS_0_1,
    BitVec.extractLsb'_append_eq_of_le, BitVec.extractLsb'_append_eq_of_add_le, Nat.reduceSub, BitVec.extractLsb'_eq_self,
    BitVec.reduceExtractLsb', Nat.sub_self, Nat.sub_zero, BitVec.reduceToNat, List.any_nil, List.any_cons, id_eq, Bool.false_eq_true, Bool.or_false, Bool.or_self, if_false, ne_eq, not_true_eq_false, decide_false,
    BitVec.reduceEq, not_false_eq_true, decide_true, BitVec.ofNat_eq_ofNat, reduceIte]
theorem RoundTrip.atReset : RoundTrip.Statement .atReset := by
  intro _ _
  show decodeAny (encS 42 9#6 0#5 0#5 0#10) = .ok .atReset
  simp only [decodeAny, decAt, legal, encS_26_6, encS_20_6, encS_19_1, encS_15_5, encS_15_4, encS_14_1, encS_10_5, encS_10_4, encS_9_1, encS_8_2, encS_7_3, encS_7_1, encS_6_4, encS_5_5, encS_5_4, encS_4_6, encS_4_3, encS_3_4, encS_2_8, encS_2_3, encS_1_9, encS_0_10, encS_0_6, encS_0_5, encS_0_4, encS_0_3, encS_0_2, encS_0_1,
    BitVec.reduceToNat, List.any_nil, List.any_cons, id_eq, Bool.false_eq_true, Bool.or_false, Bool.or_self, if_false, ne_eq, not_true_eq_false, decide_false,
    BitVec.reduceEq, not_false_eq_true, decide_true, BitVec.ofNat_eq_ofNat, reduceIte]
theorem RoundTrip.mxErw (x1 : BitVec 5) (x2 : BitVec 6) : RoundTrip.Statement (.mxErw x1 x2) := by
  intro _ h
  simp only [Instr.wf, scopeOk, orderOk, levelOk, widthOk, formatOk, bitsOk, windowOk, fieldOk, Bool.and_eq_true,
    Bool.or_eq_true, Bool.not_eq_true', decide_eq_true_eq, decide_eq_false_iff_not] at h
  show decodeAny (encS 43 0#6 x1 0#5 (0#4 ++ x2)) = .ok (.mxErw x1 x2)
  simp (disch := omega) only [decodeAny, decMx, decErw, decErr, decIndex, legal, encS_26_6, encS_20_6, encS_19_1, encS_15_5, encS_15_4, encS_14_1, encS_10_5, encS_10_4, encS_9_1, encS_8_2, encS_7_3, encS_7_1, encS_6_4, encS_5_5, encS_5_4, encS_4_6, encS_4_3, encS_3_4, encS_2_8, encS_2_3, encS_1_9, encS_0_10, encS_0_6, encS_0_5, encS_0_4, encS_0_3, encS_0_2, encS_0_1,
    BitVec.extractLsb'_append_eq_of_le, BitVec.extractLsb'_append_eq_of_add_le, Nat.reduceSub, BitVec.extractLsb'_eq_self,
    BitVec.reduceExtractLsb', Nat.sub_self, Nat.sub_zero, BitVec.reduceToNat, List.any_nil, List.any_cons, id_eq, Bool.false_eq_true, Bool.or_false, Bool.or_self, if_false, ne_eq, not_true_eq_false, decide_false,
    BitVec.reduceEq, not_false_eq_true, decide_true, BitVec.ofNat_eq_ofNat, reduceIte]
  simp_all
theorem RoundTrip.mxErr (x1 : BitVec 5) (x2 : BitVec 6) : RoundTrip.Statement (.mxErr x1 x2) := by
  intro _ h
  simp only [Instr.wf, scopeOk, orderOk, levelOk, widthOk, formatOk, bitsOk, windowOk, fieldOk, Bool.and_eq_true,
    Bool.or_eq_true, Bool.not_eq_true', decide_eq_true_eq, decide_eq_false_iff_not] at h
  show decodeAny (encS 43 1#6 0#5 x1 (0#4 ++ x2)) = .ok (.mxErr x1 x2)
  simp (disch := omega) only [decodeAny, decMx, decErw, decErr, decIndex, legal, encS_26_6, encS_20_6, encS_19_1, encS_15_5, encS_15_4, encS_14_1, encS_10_5, encS_10_4, encS_9_1, encS_8_2, encS_7_3, encS_7_1, encS_6_4, encS_5_5, encS_5_4, encS_4_6, encS_4_3, encS_3_4, encS_2_8, encS_2_3, encS_1_9, encS_0_10, encS_0_6, encS_0_5, encS_0_4, encS_0_3, encS_0_2, encS_0_1,
    BitVec.extractLsb'_append_eq_of_le, BitVec.extractLsb'_append_eq_of_add_le, Nat.reduceSub, BitVec.extractLsb'_eq_self,
    BitVec.reduceExtractLsb', Nat.sub_self, Nat.sub_zero, BitVec.reduceToNat, List.any_nil, List.any_cons, id_eq, Bool.false_eq_true, Bool.or_false, Bool.or_self, if_false, ne_eq, not_true_eq_false, decide_false,
    BitVec.reduceEq, not_false_eq_true, decide_true, BitVec.ofNat_eq_ofNat, reduceIte]
  simp_all
theorem RoundTrip.mxBegin (x1 : BitVec 5) : RoundTrip.Statement (.mxBegin x1) := by
  intro _ _
  show decodeAny (encS 43 2#6 x1 0#5 0#10) = .ok (.mxBegin x1)
  simp only [decodeAny, decMx, legal, encS_26_6, encS_20_6, encS_19_1, encS_15_5, encS_15_4, encS_14_1, encS_10_5, encS_10_4, encS_9_1, encS_8_2, encS_7_3, encS_7_1, encS_6_4, encS_5_5, encS_5_4, encS_4_6, encS_4_3, encS_3_4, encS_2_8, encS_2_3, encS_1_9, encS_0_10, encS_0_6, encS_0_5, encS_0_4, encS_0_3, encS_0_2, encS_0_1,
    BitVec.reduceToNat, List.any_nil, List.any_cons, id_eq, Bool.false_eq_true, Bool.or_false, Bool.or_self, if_false, ne_eq, not_true_eq_false, decide_false,
    BitVec.reduceEq, not_false_eq_true, decide_true, BitVec.ofNat_eq_ofNat, reduceIte]
theorem RoundTrip.mxEnd : RoundTrip.Statement .mxEnd := by
  intro _ _
  show decodeAny (encS 43 3#6 0#5 0#5 0#10) = .ok .mxEnd
  simp only [decodeAny, decMx, legal, encS_26_6, encS_20_6, encS_19_1, encS_15_5, encS_15_4, encS_14_1, encS_10_5, encS_10_4, encS_9_1, encS_8_2, encS_7_3, encS_7_1, encS_6_4, encS_5_5, encS_5_4, encS_4_6, encS_4_3, encS_3_4, encS_2_8, encS_2_3, encS_1_9, encS_0_10, encS_0_6, encS_0_5, encS_0_4, encS_0_3, encS_0_2, encS_0_1,
    BitVec.reduceToNat, List.any_nil, List.any_cons, id_eq, Bool.false_eq_true, Bool.or_false, Bool.or_self, if_false, ne_eq, not_true_eq_false, decide_false,
    BitVec.reduceEq, not_false_eq_true, decide_true, BitVec.ofNat_eq_ofNat, reduceIte]
theorem RoundTrip.mxPerm (x1 : BitVec 5) (x2 : BitVec 5) : RoundTrip.Statement (.mxPerm x1 x2) := by
  intro _ _
  show decodeAny (encS 43 4#6 x1 x2 0#10) = .ok (.mxPerm x1 x2)
  simp only [decodeAny, decMx, legal, encS_26_6, encS_20_6, encS_19_1, encS_15_5, encS_15_4, encS_14_1, encS_10_5, encS_10_4, encS_9_1, encS_8_2, encS_7_3, encS_7_1, encS_6_4, encS_5_5, encS_5_4, encS_4_6, encS_4_3, encS_3_4, encS_2_8, encS_2_3, encS_1_9, encS_0_10, encS_0_6, encS_0_5, encS_0_4, encS_0_3, encS_0_2, encS_0_1,
    BitVec.reduceToNat, List.any_nil, List.any_cons, id_eq, Bool.false_eq_true, Bool.or_false, Bool.or_self, if_false, ne_eq, not_true_eq_false, decide_false,
    BitVec.reduceEq, not_false_eq_true, decide_true, BitVec.ofNat_eq_ofNat, reduceIte]
theorem RoundTrip.mxStep (x1 : BitVec 5) (x2 : BitVec 5) : RoundTrip.Statement (.mxStep x1 x2) := by
  intro _ _
  show decodeAny (encS 43 5#6 x1 x2 0#10) = .ok (.mxStep x1 x2)
  simp only [decodeAny, decMx, legal, encS_26_6, encS_20_6, encS_19_1, encS_15_5, encS_15_4, encS_14_1, encS_10_5, encS_10_4, encS_9_1, encS_8_2, encS_7_3, encS_7_1, encS_6_4, encS_5_5, encS_5_4, encS_4_6, encS_4_3, encS_3_4, encS_2_8, encS_2_3, encS_1_9, encS_0_10, encS_0_6, encS_0_5, encS_0_4, encS_0_3, encS_0_2, encS_0_1,
    BitVec.reduceToNat, List.any_nil, List.any_cons, id_eq, Bool.false_eq_true, Bool.or_false, Bool.or_self, if_false, ne_eq, not_true_eq_false, decide_false,
    BitVec.reduceEq, not_false_eq_true, decide_true, BitVec.ofNat_eq_ofNat, reduceIte]
theorem RoundTrip.mxDrain (x1 : BitVec 4) : RoundTrip.Statement (.mxDrain x1) := by
  intro _ _
  show decodeAny (encS 43 6#6 0#5 0#5 (0#6 ++ x1)) = .ok (.mxDrain x1)
  simp (disch := omega) only [decodeAny, decMx, legal, encS_26_6, encS_20_6, encS_19_1, encS_15_5, encS_15_4, encS_14_1, encS_10_5, encS_10_4, encS_9_1, encS_8_2, encS_7_3, encS_7_1, encS_6_4, encS_5_5, encS_5_4, encS_4_6, encS_4_3, encS_3_4, encS_2_8, encS_2_3, encS_1_9, encS_0_10, encS_0_6, encS_0_5, encS_0_4, encS_0_3, encS_0_2, encS_0_1,
    BitVec.extractLsb'_append_eq_of_le, BitVec.extractLsb'_append_eq_of_add_le, Nat.reduceSub, BitVec.extractLsb'_eq_self,
    BitVec.reduceExtractLsb', Nat.sub_self, Nat.sub_zero, BitVec.reduceToNat, List.any_nil, List.any_cons, id_eq, Bool.false_eq_true, Bool.or_false, Bool.or_self, if_false, ne_eq, not_true_eq_false, decide_false,
    BitVec.reduceEq, not_false_eq_true, decide_true, BitVec.ofNat_eq_ofNat, reduceIte]
theorem RoundTrip.mxClear : RoundTrip.Statement .mxClear := by
  intro _ _
  show decodeAny (encS 43 7#6 0#5 0#5 0#10) = .ok .mxClear
  simp only [decodeAny, decMx, legal, encS_26_6, encS_20_6, encS_19_1, encS_15_5, encS_15_4, encS_14_1, encS_10_5, encS_10_4, encS_9_1, encS_8_2, encS_7_3, encS_7_1, encS_6_4, encS_5_5, encS_5_4, encS_4_6, encS_4_3, encS_3_4, encS_2_8, encS_2_3, encS_1_9, encS_0_10, encS_0_6, encS_0_5, encS_0_4, encS_0_3, encS_0_2, encS_0_1,
    BitVec.reduceToNat, List.any_nil, List.any_cons, id_eq, Bool.false_eq_true, Bool.or_false, Bool.or_self, if_false, ne_eq, not_true_eq_false, decide_false,
    BitVec.reduceEq, not_false_eq_true, decide_true, BitVec.ofNat_eq_ofNat, reduceIte]
theorem RoundTrip.cpErw (x1 : BitVec 5) (x2 : BitVec 6) : RoundTrip.Statement (.cpErw x1 x2) := by
  intro _ h
  simp only [Instr.wf, scopeOk, orderOk, levelOk, widthOk, formatOk, bitsOk, windowOk, fieldOk, Bool.and_eq_true,
    Bool.or_eq_true, Bool.not_eq_true', decide_eq_true_eq, decide_eq_false_iff_not] at h
  show decodeAny (encS 44 0#6 x1 0#5 (0#4 ++ x2)) = .ok (.cpErw x1 x2)
  simp (disch := omega) only [decodeAny, decCp, decErw, decErr, decIndex, legal, encS_26_6, encS_20_6, encS_19_1, encS_15_5, encS_15_4, encS_14_1, encS_10_5, encS_10_4, encS_9_1, encS_8_2, encS_7_3, encS_7_1, encS_6_4, encS_5_5, encS_5_4, encS_4_6, encS_4_3, encS_3_4, encS_2_8, encS_2_3, encS_1_9, encS_0_10, encS_0_6, encS_0_5, encS_0_4, encS_0_3, encS_0_2, encS_0_1,
    BitVec.extractLsb'_append_eq_of_le, BitVec.extractLsb'_append_eq_of_add_le, Nat.reduceSub, BitVec.extractLsb'_eq_self,
    BitVec.reduceExtractLsb', Nat.sub_self, Nat.sub_zero, BitVec.reduceToNat, List.any_nil, List.any_cons, id_eq, Bool.false_eq_true, Bool.or_false, Bool.or_self, if_false, ne_eq, not_true_eq_false, decide_false,
    BitVec.reduceEq, not_false_eq_true, decide_true, BitVec.ofNat_eq_ofNat, reduceIte]
  simp_all
theorem RoundTrip.cpErr (x1 : BitVec 5) (x2 : BitVec 6) : RoundTrip.Statement (.cpErr x1 x2) := by
  intro _ h
  simp only [Instr.wf, scopeOk, orderOk, levelOk, widthOk, formatOk, bitsOk, windowOk, fieldOk, Bool.and_eq_true,
    Bool.or_eq_true, Bool.not_eq_true', decide_eq_true_eq, decide_eq_false_iff_not] at h
  show decodeAny (encS 44 1#6 0#5 x1 (0#4 ++ x2)) = .ok (.cpErr x1 x2)
  simp (disch := omega) only [decodeAny, decCp, decErw, decErr, decIndex, legal, encS_26_6, encS_20_6, encS_19_1, encS_15_5, encS_15_4, encS_14_1, encS_10_5, encS_10_4, encS_9_1, encS_8_2, encS_7_3, encS_7_1, encS_6_4, encS_5_5, encS_5_4, encS_4_6, encS_4_3, encS_3_4, encS_2_8, encS_2_3, encS_1_9, encS_0_10, encS_0_6, encS_0_5, encS_0_4, encS_0_3, encS_0_2, encS_0_1,
    BitVec.extractLsb'_append_eq_of_le, BitVec.extractLsb'_append_eq_of_add_le, Nat.reduceSub, BitVec.extractLsb'_eq_self,
    BitVec.reduceExtractLsb', Nat.sub_self, Nat.sub_zero, BitVec.reduceToNat, List.any_nil, List.any_cons, id_eq, Bool.false_eq_true, Bool.or_false, Bool.or_self, if_false, ne_eq, not_true_eq_false, decide_false,
    BitVec.reduceEq, not_false_eq_true, decide_true, BitVec.ofNat_eq_ofNat, reduceIte]
  simp_all
theorem RoundTrip.cpGo (x1 : BitVec 5) (x2 : BitVec 5) : RoundTrip.Statement (.cpGo x1 x2) := by
  intro _ _
  show decodeAny (encS 44 2#6 x1 x2 0#10) = .ok (.cpGo x1 x2)
  simp only [decodeAny, decCp, legal, encS_26_6, encS_20_6, encS_19_1, encS_15_5, encS_15_4, encS_14_1, encS_10_5, encS_10_4, encS_9_1, encS_8_2, encS_7_3, encS_7_1, encS_6_4, encS_5_5, encS_5_4, encS_4_6, encS_4_3, encS_3_4, encS_2_8, encS_2_3, encS_1_9, encS_0_10, encS_0_6, encS_0_5, encS_0_4, encS_0_3, encS_0_2, encS_0_1,
    BitVec.reduceToNat, List.any_nil, List.any_cons, id_eq, Bool.false_eq_true, Bool.or_false, Bool.or_self, if_false, ne_eq, not_true_eq_false, decide_false,
    BitVec.reduceEq, not_false_eq_true, decide_true, BitVec.ofNat_eq_ofNat, reduceIte]
theorem RoundTrip.cpCancel (x1 : BitVec 5) : RoundTrip.Statement (.cpCancel x1) := by
  intro _ _
  show decodeAny (encS 44 4#6 x1 0#5 0#10) = .ok (.cpCancel x1)
  simp only [decodeAny, decCp, legal, encS_26_6, encS_20_6, encS_19_1, encS_15_5, encS_15_4, encS_14_1, encS_10_5, encS_10_4, encS_9_1, encS_8_2, encS_7_3, encS_7_1, encS_6_4, encS_5_5, encS_5_4, encS_4_6, encS_4_3, encS_3_4, encS_2_8, encS_2_3, encS_1_9, encS_0_10, encS_0_6, encS_0_5, encS_0_4, encS_0_3, encS_0_2, encS_0_1,
    BitVec.reduceToNat, List.any_nil, List.any_cons, id_eq, Bool.false_eq_true, Bool.or_false, Bool.or_self, if_false, ne_eq, not_true_eq_false, decide_false,
    BitVec.reduceEq, not_false_eq_true, decide_true, BitVec.ofNat_eq_ofNat, reduceIte]
theorem RoundTrip.cpSave (x1 : BitVec 5) : RoundTrip.Statement (.cpSave x1) := by
  intro _ _
  show decodeAny (encS 44 5#6 x1 0#5 0#10) = .ok (.cpSave x1)
  simp only [decodeAny, decCp, legal, encS_26_6, encS_20_6, encS_19_1, encS_15_5, encS_15_4, encS_14_1, encS_10_5, encS_10_4, encS_9_1, encS_8_2, encS_7_3, encS_7_1, encS_6_4, encS_5_5, encS_5_4, encS_4_6, encS_4_3, encS_3_4, encS_2_8, encS_2_3, encS_1_9, encS_0_10, encS_0_6, encS_0_5, encS_0_4, encS_0_3, encS_0_2, encS_0_1,
    BitVec.reduceToNat, List.any_nil, List.any_cons, id_eq, Bool.false_eq_true, Bool.or_false, Bool.or_self, if_false, ne_eq, not_true_eq_false, decide_false,
    BitVec.reduceEq, not_false_eq_true, decide_true, BitVec.ofNat_eq_ofNat, reduceIte]
theorem RoundTrip.cpRestore (x1 : BitVec 5) : RoundTrip.Statement (.cpRestore x1) := by
  intro _ _
  show decodeAny (encS 44 6#6 x1 0#5 0#10) = .ok (.cpRestore x1)
  simp only [decodeAny, decCp, legal, encS_26_6, encS_20_6, encS_19_1, encS_15_5, encS_15_4, encS_14_1, encS_10_5, encS_10_4, encS_9_1, encS_8_2, encS_7_3, encS_7_1, encS_6_4, encS_5_5, encS_5_4, encS_4_6, encS_4_3, encS_3_4, encS_2_8, encS_2_3, encS_1_9, encS_0_10, encS_0_6, encS_0_5, encS_0_4, encS_0_3, encS_0_2, encS_0_1,
    BitVec.reduceToNat, List.any_nil, List.any_cons, id_eq, Bool.false_eq_true, Bool.or_false, Bool.or_self, if_false, ne_eq, not_true_eq_false, decide_false,
    BitVec.reduceEq, not_false_eq_true, decide_true, BitVec.ofNat_eq_ofNat, reduceIte]
theorem RoundTrip.fxErw (x1 : BitVec 5) (x2 : BitVec 6) : RoundTrip.Statement (.fxErw x1 x2) := by
  intro _ h
  simp only [Instr.wf, scopeOk, orderOk, levelOk, widthOk, formatOk, bitsOk, windowOk, fieldOk, Bool.and_eq_true,
    Bool.or_eq_true, Bool.not_eq_true', decide_eq_true_eq, decide_eq_false_iff_not] at h
  show decodeAny (encS 45 0#6 x1 0#5 (0#4 ++ x2)) = .ok (.fxErw x1 x2)
  simp (disch := omega) only [decodeAny, decFx, decErw, decErr, decIndex, legal, encS_26_6, encS_20_6, encS_19_1, encS_15_5, encS_15_4, encS_14_1, encS_10_5, encS_10_4, encS_9_1, encS_8_2, encS_7_3, encS_7_1, encS_6_4, encS_5_5, encS_5_4, encS_4_6, encS_4_3, encS_3_4, encS_2_8, encS_2_3, encS_1_9, encS_0_10, encS_0_6, encS_0_5, encS_0_4, encS_0_3, encS_0_2, encS_0_1,
    BitVec.extractLsb'_append_eq_of_le, BitVec.extractLsb'_append_eq_of_add_le, Nat.reduceSub, BitVec.extractLsb'_eq_self,
    BitVec.reduceExtractLsb', Nat.sub_self, Nat.sub_zero, BitVec.reduceToNat, List.any_nil, List.any_cons, id_eq, Bool.false_eq_true, Bool.or_false, Bool.or_self, if_false, ne_eq, not_true_eq_false, decide_false,
    BitVec.reduceEq, not_false_eq_true, decide_true, BitVec.ofNat_eq_ofNat, reduceIte]
  simp_all
theorem RoundTrip.fxErr (x1 : BitVec 5) (x2 : BitVec 6) : RoundTrip.Statement (.fxErr x1 x2) := by
  intro _ h
  simp only [Instr.wf, scopeOk, orderOk, levelOk, widthOk, formatOk, bitsOk, windowOk, fieldOk, Bool.and_eq_true,
    Bool.or_eq_true, Bool.not_eq_true', decide_eq_true_eq, decide_eq_false_iff_not] at h
  show decodeAny (encS 45 1#6 0#5 x1 (0#4 ++ x2)) = .ok (.fxErr x1 x2)
  simp (disch := omega) only [decodeAny, decFx, decErw, decErr, decIndex, legal, encS_26_6, encS_20_6, encS_19_1, encS_15_5, encS_15_4, encS_14_1, encS_10_5, encS_10_4, encS_9_1, encS_8_2, encS_7_3, encS_7_1, encS_6_4, encS_5_5, encS_5_4, encS_4_6, encS_4_3, encS_3_4, encS_2_8, encS_2_3, encS_1_9, encS_0_10, encS_0_6, encS_0_5, encS_0_4, encS_0_3, encS_0_2, encS_0_1,
    BitVec.extractLsb'_append_eq_of_le, BitVec.extractLsb'_append_eq_of_add_le, Nat.reduceSub, BitVec.extractLsb'_eq_self,
    BitVec.reduceExtractLsb', Nat.sub_self, Nat.sub_zero, BitVec.reduceToNat, List.any_nil, List.any_cons, id_eq, Bool.false_eq_true, Bool.or_false, Bool.or_self, if_false, ne_eq, not_true_eq_false, decide_false,
    BitVec.reduceEq, not_false_eq_true, decide_true, BitVec.ofNat_eq_ofNat, reduceIte]
  simp_all
theorem RoundTrip.fxGo (x1 : BitVec 5) : RoundTrip.Statement (.fxGo x1) := by
  intro _ _
  show decodeAny (encS 45 2#6 0#5 x1 0#10) = .ok (.fxGo x1)
  simp only [decodeAny, decFx, legal, encS_26_6, encS_20_6, encS_19_1, encS_15_5, encS_15_4, encS_14_1, encS_10_5, encS_10_4, encS_9_1, encS_8_2, encS_7_3, encS_7_1, encS_6_4, encS_5_5, encS_5_4, encS_4_6, encS_4_3, encS_3_4, encS_2_8, encS_2_3, encS_1_9, encS_0_10, encS_0_6, encS_0_5, encS_0_4, encS_0_3, encS_0_2, encS_0_1,
    BitVec.reduceToNat, List.any_nil, List.any_cons, id_eq, Bool.false_eq_true, Bool.or_false, Bool.or_self, if_false, ne_eq, not_true_eq_false, decide_false,
    BitVec.reduceEq, not_false_eq_true, decide_true, BitVec.ofNat_eq_ofNat, reduceIte]
theorem RoundTrip.fxSend (x1 : BitVec 5) : RoundTrip.Statement (.fxSend x1) := by
  intro _ _
  show decodeAny (encS 45 3#6 x1 0#5 0#10) = .ok (.fxSend x1)
  simp only [decodeAny, decFx, legal, encS_26_6, encS_20_6, encS_19_1, encS_15_5, encS_15_4, encS_14_1, encS_10_5, encS_10_4, encS_9_1, encS_8_2, encS_7_3, encS_7_1, encS_6_4, encS_5_5, encS_5_4, encS_4_6, encS_4_3, encS_3_4, encS_2_8, encS_2_3, encS_1_9, encS_0_10, encS_0_6, encS_0_5, encS_0_4, encS_0_3, encS_0_2, encS_0_1,
    BitVec.reduceToNat, List.any_nil, List.any_cons, id_eq, Bool.false_eq_true, Bool.or_false, Bool.or_self, if_false, ne_eq, not_true_eq_false, decide_false,
    BitVec.reduceEq, not_false_eq_true, decide_true, BitVec.ofNat_eq_ofNat, reduceIte]
theorem RoundTrip.fxRecv (x1 : BitVec 5) : RoundTrip.Statement (.fxRecv x1) := by
  intro _ _
  show decodeAny (encS 45 4#6 x1 0#5 0#10) = .ok (.fxRecv x1)
  simp only [decodeAny, decFx, legal, encS_26_6, encS_20_6, encS_19_1, encS_15_5, encS_15_4, encS_14_1, encS_10_5, encS_10_4, encS_9_1, encS_8_2, encS_7_3, encS_7_1, encS_6_4, encS_5_5, encS_5_4, encS_4_6, encS_4_3, encS_3_4, encS_2_8, encS_2_3, encS_1_9, encS_0_10, encS_0_6, encS_0_5, encS_0_4, encS_0_3, encS_0_2, encS_0_1,
    BitVec.reduceToNat, List.any_nil, List.any_cons, id_eq, Bool.false_eq_true, Bool.or_false, Bool.or_self, if_false, ne_eq, not_true_eq_false, decide_false,
    BitVec.reduceEq, not_false_eq_true, decide_true, BitVec.ofNat_eq_ofNat, reduceIte]
theorem RoundTrip.fxBar : RoundTrip.Statement .fxBar := by
  intro _ _
  show decodeAny (encS 45 5#6 0#5 0#5 0#10) = .ok .fxBar
  simp only [decodeAny, decFx, legal, encS_26_6, encS_20_6, encS_19_1, encS_15_5, encS_15_4, encS_14_1, encS_10_5, encS_10_4, encS_9_1, encS_8_2, encS_7_3, encS_7_1, encS_6_4, encS_5_5, encS_5_4, encS_4_6, encS_4_3, encS_3_4, encS_2_8, encS_2_3, encS_1_9, encS_0_10, encS_0_6, encS_0_5, encS_0_4, encS_0_3, encS_0_2, encS_0_1,
    BitVec.reduceToNat, List.any_nil, List.any_cons, id_eq, Bool.false_eq_true, Bool.or_false, Bool.or_self, if_false, ne_eq, not_true_eq_false, decide_false,
    BitVec.reduceEq, not_false_eq_true, decide_true, BitVec.ofNat_eq_ofNat, reduceIte]
theorem RoundTrip.fxAbort : RoundTrip.Statement .fxAbort := by
  intro _ _
  show decodeAny (encS 45 6#6 0#5 0#5 0#10) = .ok .fxAbort
  simp only [decodeAny, decFx, legal, encS_26_6, encS_20_6, encS_19_1, encS_15_5, encS_15_4, encS_14_1, encS_10_5, encS_10_4, encS_9_1, encS_8_2, encS_7_3, encS_7_1, encS_6_4, encS_5_5, encS_5_4, encS_4_6, encS_4_3, encS_3_4, encS_2_8, encS_2_3, encS_1_9, encS_0_10, encS_0_6, encS_0_5, encS_0_4, encS_0_3, encS_0_2, encS_0_1,
    BitVec.reduceToNat, List.any_nil, List.any_cons, id_eq, Bool.false_eq_true, Bool.or_false, Bool.or_self, if_false, ne_eq, not_true_eq_false, decide_false,
    BitVec.reduceEq, not_false_eq_true, decide_true, BitVec.ofNat_eq_ofNat, reduceIte]
theorem RoundTrip.mkErw (x1 : BitVec 5) (x2 : BitVec 6) : RoundTrip.Statement (.mkErw x1 x2) := by
  intro _ h
  simp only [Instr.wf, scopeOk, orderOk, levelOk, widthOk, formatOk, bitsOk, windowOk, fieldOk, Bool.and_eq_true,
    Bool.or_eq_true, Bool.not_eq_true', decide_eq_true_eq, decide_eq_false_iff_not] at h
  show decodeAny (encS 46 0#6 x1 0#5 (0#4 ++ x2)) = .ok (.mkErw x1 x2)
  simp (disch := omega) only [decodeAny, decMk, decErw, decErr, decIndex, legal, encS_26_6, encS_20_6, encS_19_1, encS_15_5, encS_15_4, encS_14_1, encS_10_5, encS_10_4, encS_9_1, encS_8_2, encS_7_3, encS_7_1, encS_6_4, encS_5_5, encS_5_4, encS_4_6, encS_4_3, encS_3_4, encS_2_8, encS_2_3, encS_1_9, encS_0_10, encS_0_6, encS_0_5, encS_0_4, encS_0_3, encS_0_2, encS_0_1,
    BitVec.extractLsb'_append_eq_of_le, BitVec.extractLsb'_append_eq_of_add_le, Nat.reduceSub, BitVec.extractLsb'_eq_self,
    BitVec.reduceExtractLsb', Nat.sub_self, Nat.sub_zero, BitVec.reduceToNat, List.any_nil, List.any_cons, id_eq, Bool.false_eq_true, Bool.or_false, Bool.or_self, if_false, ne_eq, not_true_eq_false, decide_false,
    BitVec.reduceEq, not_false_eq_true, decide_true, BitVec.ofNat_eq_ofNat, reduceIte]
  simp_all
theorem RoundTrip.mkErr (x1 : BitVec 5) (x2 : BitVec 6) : RoundTrip.Statement (.mkErr x1 x2) := by
  intro _ h
  simp only [Instr.wf, scopeOk, orderOk, levelOk, widthOk, formatOk, bitsOk, windowOk, fieldOk, Bool.and_eq_true,
    Bool.or_eq_true, Bool.not_eq_true', decide_eq_true_eq, decide_eq_false_iff_not] at h
  show decodeAny (encS 46 1#6 0#5 x1 (0#4 ++ x2)) = .ok (.mkErr x1 x2)
  simp (disch := omega) only [decodeAny, decMk, decErw, decErr, decIndex, legal, encS_26_6, encS_20_6, encS_19_1, encS_15_5, encS_15_4, encS_14_1, encS_10_5, encS_10_4, encS_9_1, encS_8_2, encS_7_3, encS_7_1, encS_6_4, encS_5_5, encS_5_4, encS_4_6, encS_4_3, encS_3_4, encS_2_8, encS_2_3, encS_1_9, encS_0_10, encS_0_6, encS_0_5, encS_0_4, encS_0_3, encS_0_2, encS_0_1,
    BitVec.extractLsb'_append_eq_of_le, BitVec.extractLsb'_append_eq_of_add_le, Nat.reduceSub, BitVec.extractLsb'_eq_self,
    BitVec.reduceExtractLsb', Nat.sub_self, Nat.sub_zero, BitVec.reduceToNat, List.any_nil, List.any_cons, id_eq, Bool.false_eq_true, Bool.or_false, Bool.or_self, if_false, ne_eq, not_true_eq_false, decide_false,
    BitVec.reduceEq, not_false_eq_true, decide_true, BitVec.ofNat_eq_ofNat, reduceIte]
  simp_all
theorem RoundTrip.mkLoad (x1 : BitVec 5) : RoundTrip.Statement (.mkLoad x1) := by
  intro _ _
  show decodeAny (encS 46 2#6 x1 0#5 0#10) = .ok (.mkLoad x1)
  simp only [decodeAny, decMk, legal, encS_26_6, encS_20_6, encS_19_1, encS_15_5, encS_15_4, encS_14_1, encS_10_5, encS_10_4, encS_9_1, encS_8_2, encS_7_3, encS_7_1, encS_6_4, encS_5_5, encS_5_4, encS_4_6, encS_4_3, encS_3_4, encS_2_8, encS_2_3, encS_1_9, encS_0_10, encS_0_6, encS_0_5, encS_0_4, encS_0_3, encS_0_2, encS_0_1,
    BitVec.reduceToNat, List.any_nil, List.any_cons, id_eq, Bool.false_eq_true, Bool.or_false, Bool.or_self, if_false, ne_eq, not_true_eq_false, decide_false,
    BitVec.reduceEq, not_false_eq_true, decide_true, BitVec.ofNat_eq_ofNat, reduceIte]
theorem RoundTrip.mkStep (x1 : BitVec 5) (x2 : BitVec 5) : RoundTrip.Statement (.mkStep x1 x2) := by
  intro _ _
  show decodeAny (encS 46 3#6 x1 x2 0#10) = .ok (.mkStep x1 x2)
  simp only [decodeAny, decMk, legal, encS_26_6, encS_20_6, encS_19_1, encS_15_5, encS_15_4, encS_14_1, encS_10_5, encS_10_4, encS_9_1, encS_8_2, encS_7_3, encS_7_1, encS_6_4, encS_5_5, encS_5_4, encS_4_6, encS_4_3, encS_3_4, encS_2_8, encS_2_3, encS_1_9, encS_0_10, encS_0_6, encS_0_5, encS_0_4, encS_0_3, encS_0_2, encS_0_1,
    BitVec.reduceToNat, List.any_nil, List.any_cons, id_eq, Bool.false_eq_true, Bool.or_false, Bool.or_self, if_false, ne_eq, not_true_eq_false, decide_false,
    BitVec.reduceEq, not_false_eq_true, decide_true, BitVec.ofNat_eq_ofNat, reduceIte]
theorem RoundTrip.mkMask (x1 : BitVec 5) (x2 : BitVec 4) : RoundTrip.Statement (.mkMask x1 x2) := by
  intro _ _
  show decodeAny (encS 46 4#6 x1 0#5 (0#6 ++ x2)) = .ok (.mkMask x1 x2)
  simp (disch := omega) only [decodeAny, decMk, legal, encS_26_6, encS_20_6, encS_19_1, encS_15_5, encS_15_4, encS_14_1, encS_10_5, encS_10_4, encS_9_1, encS_8_2, encS_7_3, encS_7_1, encS_6_4, encS_5_5, encS_5_4, encS_4_6, encS_4_3, encS_3_4, encS_2_8, encS_2_3, encS_1_9, encS_0_10, encS_0_6, encS_0_5, encS_0_4, encS_0_3, encS_0_2, encS_0_1,
    BitVec.extractLsb'_append_eq_of_le, BitVec.extractLsb'_append_eq_of_add_le, Nat.reduceSub, BitVec.extractLsb'_eq_self,
    BitVec.reduceExtractLsb', Nat.sub_self, Nat.sub_zero, BitVec.reduceToNat, List.any_nil, List.any_cons, id_eq, Bool.false_eq_true, Bool.or_false, Bool.or_self, if_false, ne_eq, not_true_eq_false, decide_false,
    BitVec.reduceEq, not_false_eq_true, decide_true, BitVec.ofNat_eq_ofNat, reduceIte]
theorem RoundTrip.mkWait (x1 : BitVec 5) (x2 : BitVec 5) : RoundTrip.Statement (.mkWait x1 x2) := by
  intro _ _
  show decodeAny (encS 46 5#6 x1 x2 0#10) = .ok (.mkWait x1 x2)
  simp only [decodeAny, decMk, legal, encS_26_6, encS_20_6, encS_19_1, encS_15_5, encS_15_4, encS_14_1, encS_10_5, encS_10_4, encS_9_1, encS_8_2, encS_7_3, encS_7_1, encS_6_4, encS_5_5, encS_5_4, encS_4_6, encS_4_3, encS_3_4, encS_2_8, encS_2_3, encS_1_9, encS_0_10, encS_0_6, encS_0_5, encS_0_4, encS_0_3, encS_0_2, encS_0_1,
    BitVec.reduceToNat, List.any_nil, List.any_cons, id_eq, Bool.false_eq_true, Bool.or_false, Bool.or_self, if_false, ne_eq, not_true_eq_false, decide_false,
    BitVec.reduceEq, not_false_eq_true, decide_true, BitVec.ofNat_eq_ofNat, reduceIte]
theorem RoundTrip.mkForced (x1 : BitVec 5) : RoundTrip.Statement (.mkForced x1) := by
  intro _ _
  show decodeAny (encS 46 6#6 0#5 x1 0#10) = .ok (.mkForced x1)
  simp only [decodeAny, decMk, legal, encS_26_6, encS_20_6, encS_19_1, encS_15_5, encS_15_4, encS_14_1, encS_10_5, encS_10_4, encS_9_1, encS_8_2, encS_7_3, encS_7_1, encS_6_4, encS_5_5, encS_5_4, encS_4_6, encS_4_3, encS_3_4, encS_2_8, encS_2_3, encS_1_9, encS_0_10, encS_0_6, encS_0_5, encS_0_4, encS_0_3, encS_0_2, encS_0_1,
    BitVec.reduceToNat, List.any_nil, List.any_cons, id_eq, Bool.false_eq_true, Bool.or_false, Bool.or_self, if_false, ne_eq, not_true_eq_false, decide_false,
    BitVec.reduceEq, not_false_eq_true, decide_true, BitVec.ofNat_eq_ofNat, reduceIte]
theorem RoundTrip.mkReset : RoundTrip.Statement .mkReset := by
  intro _ _
  show decodeAny (encS 46 7#6 0#5 0#5 0#10) = .ok .mkReset
  simp only [decodeAny, decMk, legal, encS_26_6, encS_20_6, encS_19_1, encS_15_5, encS_15_4, encS_14_1, encS_10_5, encS_10_4, encS_9_1, encS_8_2, encS_7_3, encS_7_1, encS_6_4, encS_5_5, encS_5_4, encS_4_6, encS_4_3, encS_3_4, encS_2_8, encS_2_3, encS_1_9, encS_0_10, encS_0_6, encS_0_5, encS_0_4, encS_0_3, encS_0_2, encS_0_1,
    BitVec.reduceToNat, List.any_nil, List.any_cons, id_eq, Bool.false_eq_true, Bool.or_false, Bool.or_self, if_false, ne_eq, not_true_eq_false, decide_false,
    BitVec.reduceEq, not_false_eq_true, decide_true, BitVec.ofNat_eq_ofNat, reduceIte]
theorem RoundTrip.memoryReply (x1 : Nat) (x2 : Nat) (x3 : Bool) : RoundTrip.Statement (.memoryReply x1 x2 x3) := by
  intro h _; cases h
theorem RoundTrip.parkWake (x1 : Agent) : RoundTrip.Statement (.parkWake x1) := by
  intro h _; cases h
theorem RoundTrip.waitWake (x1 : Nat) (x2 : Nat) : RoundTrip.Statement (.waitWake x1 x2) := by
  intro h _; cases h
theorem RoundTrip.cycleBudgetFault : RoundTrip.Statement .cycleBudgetFault := by
  intro h _; cases h
theorem RoundTrip.stoppedSlotClear (x1 : Nat) (x2 : Nat) : RoundTrip.Statement (.stoppedSlotClear x1 x2) := by
  intro h _; cases h
theorem RoundTrip.missMessage (x1 : Agent) : RoundTrip.Statement (.missMessage x1) := by
  intro h _; cases h
theorem RoundTrip.pagerWake (x1 : Agent) (x2 : Nat) : RoundTrip.Statement (.pagerWake x1 x2) := by
  intro h _; cases h
theorem RoundTrip.pagerDecline (x1 : Agent) (x2 : Bool) : RoundTrip.Statement (.pagerDecline x1 x2) := by
  intro h _; cases h
theorem RoundTrip.engineCommandAccept (x1 : Nat) (x2 : Nat) : RoundTrip.Statement (.engineCommandAccept x1 x2) := by
  intro h _; cases h
theorem RoundTrip.engineCommandComplete (x1 : EngKind) (x2 : Nat) (x3 : Nat) : RoundTrip.Statement (.engineCommandComplete x1 x2 x3) := by
  intro h _; cases h
theorem RoundTrip.putrDelivery (x1 : Nat) : RoundTrip.Statement (.putrDelivery x1) := by
  intro h _; cases h
theorem RoundTrip.transformRestart (x1 : Nat) : RoundTrip.Statement (.transformRestart x1) := by
  intro h _; cases h
theorem RoundTrip.fibreDispatch (x1 : Nat) : RoundTrip.Statement (.fibreDispatch x1) := by
  intro h _; cases h
theorem RoundTrip.queueAging (x1 : Nat) (x2 : Nat) : RoundTrip.Statement (.queueAging x1 x2) := by
  intro h _; cases h
theorem RoundTrip.evictionPosting (x1 : Nat) (x2 : Nat) (x3 : Word) (x4 : Option Nat) : RoundTrip.Statement (.evictionPosting x1 x2 x3 x4) := by
  intro h _; cases h
theorem RoundTrip.evictionEvaluation (x1 : Nat) : RoundTrip.Statement (.evictionEvaluation x1) := by
  intro h _; cases h
theorem RoundTrip.forcedInstant (x1 : Nat) : RoundTrip.Statement (.forcedInstant x1) := by
  intro h _; cases h
theorem RoundTrip.saveSectionsWrite (x1 : Nat) (x2 : Nat) (x3 : Nat) : RoundTrip.Statement (.saveSectionsWrite x1 x2 x3) := by
  intro h _; cases h
theorem RoundTrip.saveCompleteBit (x1 : Nat) : RoundTrip.Statement (.saveCompleteBit x1) := by
  intro h _; cases h
theorem RoundTrip.restoreBind (x1 : Nat) : RoundTrip.Statement (.restoreBind x1) := by
  intro h _; cases h
theorem RoundTrip.slotCleaning (x1 : Nat) (x2 : Nat) : RoundTrip.Statement (.slotCleaning x1 x2) := by
  intro h _; cases h
theorem RoundTrip.copyPage (x1 : Nat) (x2 : Nat) : RoundTrip.Statement (.copyPage x1 x2) := by
  intro h _; cases h
theorem RoundTrip.copyRegisterDelivery (x1 : Nat) (x2 : Nat) : RoundTrip.Statement (.copyRegisterDelivery x1 x2) := by
  intro h _; cases h
theorem RoundTrip.attentionBlockUpdate (x1 : Nat) (x2 : Nat) : RoundTrip.Statement (.attentionBlockUpdate x1 x2) := by
  intro h _; cases h
theorem RoundTrip.queryWordRead (x1 : Nat) (x2 : Nat) : RoundTrip.Statement (.queryWordRead x1 x2) := by
  intro h _; cases h
theorem RoundTrip.partialRecordRead (x1 : Nat) (x2 : Nat) : RoundTrip.Statement (.partialRecordRead x1 x2) := by
  intro h _; cases h
theorem RoundTrip.microTile (x1 : Nat) (x2 : Nat) (x3 : Nat) : RoundTrip.Statement (.microTile x1 x2 x3) := by
  intro h _; cases h
theorem RoundTrip.tileStepStart (x1 : Nat) : RoundTrip.Statement (.tileStepStart x1) := by
  intro h _; cases h
theorem RoundTrip.fabricMessage (x1 : Nat) (x2 : Nat) (x3 : FabMsg) : RoundTrip.Statement (.fabricMessage x1 x2 x3) := by
  intro h _; cases h
theorem RoundTrip.fabricNotice (x1 : Nat) (x2 : Nat) (x3 : FabNotice) : RoundTrip.Statement (.fabricNotice x1 x2 x3) := by
  intro h _; cases h
theorem RoundTrip.collectiveTimeout (x1 : Nat) (x2 : Nat) : RoundTrip.Statement (.collectiveTimeout x1 x2) := by
  intro h _; cases h
theorem RoundTrip.p2pTransfer (x1 : Nat) (x2 : Nat) (x3 : PeerEnd) : RoundTrip.Statement (.p2pTransfer x1 x2 x3) := by
  intro h _; cases h
theorem RoundTrip.linkUp (x1 : Nat) (x2 : Nat) (x3 : LinkPeer) : RoundTrip.Statement (.linkUp x1 x2 x3) := by
  intro h _; cases h
theorem RoundTrip.linkDown (x1 : Nat) (x2 : Nat) : RoundTrip.Statement (.linkDown x1 x2) := by
  intro h _; cases h
theorem RoundTrip.rhoiqFlit (x1 : Nat) (x2 : Nat) (x3 : Flit) : RoundTrip.Statement (.rhoiqFlit x1 x2 x3) := by
  intro h _; cases h
theorem RoundTrip.flitReplay (x1 : Nat) (x2 : Nat) (x3 : Nat) : RoundTrip.Statement (.flitReplay x1 x2 x3) := by
  intro h _; cases h
theorem RoundTrip.exponentCountHalving (x1 : Nat) (x2 : Nat) (x3 : Nat) : RoundTrip.Statement (.exponentCountHalving x1 x2 x3) := by
  intro h _; cases h
theorem RoundTrip.codenWrite (x1 : Nat) (x2 : Nat) (x3 : BitVec 3) : RoundTrip.Statement (.codenWrite x1 x2 x3) := by
  intro h _; cases h
theorem RoundTrip.maskProductionChunk (x1 : Nat) (x2 : Nat) : RoundTrip.Statement (.maskProductionChunk x1 x2) := by
  intro h _; cases h
theorem RoundTrip.maskReady (x1 : Nat) (x2 : Nat) : RoundTrip.Statement (.maskReady x1 x2) := by
  intro h _; cases h
theorem RoundTrip.mkWaitTimeout (x1 : Nat) (x2 : Nat) : RoundTrip.Statement (.mkWaitTimeout x1 x2) := by
  intro h _; cases h
theorem RoundTrip.hostMailboxWrite (x1 : Nat) (x2 : Nat) (x3 : Word) : RoundTrip.Statement (.hostMailboxWrite x1 x2 x3) := by
  intro h _; cases h
theorem RoundTrip.hostAliasWrite (x1 : Nat) (x2 : Nat) (x3 : Word) : RoundTrip.Statement (.hostAliasWrite x1 x2 x3) := by
  intro h _; cases h
theorem RoundTrip.hostAliasRead (x1 : Nat) (x2 : Nat) : RoundTrip.Statement (.hostAliasRead x1 x2) := by
  intro h _; cases h
theorem RoundTrip.unsupportedRequest (x1 : Bool) : RoundTrip.Statement (.unsupportedRequest x1) := by
  intro h _; cases h
theorem RoundTrip.pcieCompletion (x1 : Agent) (x2 : PcieOutcome) : RoundTrip.Statement (.pcieCompletion x1 x2) := by
  intro h _; cases h
theorem RoundTrip.completionTimeout (x1 : Agent) : RoundTrip.Statement (.completionTimeout x1) := by
  intro h _; cases h
theorem RoundTrip.priResponse (x1 : Nat) (x2 : Nat) (x3 : Bool) : RoundTrip.Statement (.priResponse x1 x2 x3) := by
  intro h _; cases h
theorem RoundTrip.priResponseTimeout (x1 : Nat) (x2 : Nat) : RoundTrip.Statement (.priResponseTimeout x1 x2) := by
  intro h _; cases h
theorem RoundTrip.functionLevelReset (x1 : Nat) : RoundTrip.Statement (.functionLevelReset x1) := by
  intro h _; cases h
theorem RoundTrip.vfDisable (x1 : Nat) : RoundTrip.Statement (.vfDisable x1) := by
  intro h _; cases h
theorem RoundTrip.doeRequest (x1 : Nat) : RoundTrip.Statement (.doeRequest x1) := by
  intro h _; cases h
theorem RoundTrip.coldReset (x1 : Option (BitVec 256)) (x2 : ConfigRecord) : RoundTrip.Statement (.coldReset x1 x2) := by
  intro h _; cases h
theorem RoundTrip.freezeInput : RoundTrip.Statement .freezeInput := by
  intro h _; cases h
theorem RoundTrip.freezeRegisterWrite : RoundTrip.Statement .freezeRegisterWrite := by
  intro h _; cases h
theorem RoundTrip.clockThrottle : RoundTrip.Statement .clockThrottle := by
  intro h _; cases h
theorem RoundTrip.overTemperature : RoundTrip.Statement .overTemperature := by
  intro h _; cases h
theorem RoundTrip.thermalFreeze : RoundTrip.Statement .thermalFreeze := by
  intro h _; cases h
theorem RoundTrip.tierMigration (x1 : Migration) : RoundTrip.Statement (.tierMigration x1) := by
  intro h _; cases h
theorem RoundTrip.uncorrectableError (x1 : Nat) (x2 : ErrorSite) : RoundTrip.Statement (.uncorrectableError x1 x2) := by
  intro h _; cases h
theorem RoundTrip.refreshWindowEnd (x1 : Nat) (x2 : Nat) : RoundTrip.Statement (.refreshWindowEnd x1 x2) := by
  intro h _; cases h
theorem RoundTrip.placeWrite (x1 : Word) : RoundTrip.Statement (.placeWrite x1) := by
  intro h _; cases h
theorem RoundTrip.mxdoneWrite (x1 : Word) : RoundTrip.Statement (.mxdoneWrite x1) := by
  intro h _; cases h
theorem RoundTrip.budgetWrite (x1 : Word) : RoundTrip.Statement (.budgetWrite x1) := by
  intro h _; cases h
theorem RoundTrip.tcdropWrite (x1 : Word) : RoundTrip.Statement (.tcdropWrite x1) := by
  intro h _; cases h
theorem RoundTrip.tcdropComplete (x1 : Nat) : RoundTrip.Statement (.tcdropComplete x1) := by
  intro h _; cases h
theorem RoundTrip.tenantInstall (x1 : Nat) (x2 : InstallRoots) : RoundTrip.Statement (.tenantInstall x1 x2) := by
  intro h _; cases h
theorem RoundTrip.vfEnable (x1 : Nat) (x2 : VfAttach) : RoundTrip.Statement (.vfEnable x1 x2) := by
  intro h _; cases h
theorem RoundTrip.faultedBeyondRecovery (x1 : Nat) (x2 : Nat) : RoundTrip.Statement (.faultedBeyondRecovery x1 x2) := by
  intro h _; cases h
theorem RoundTrip.hostWriteErrorReport (x1 : Word) : RoundTrip.Statement (.hostWriteErrorReport x1) := by
  intro h _; cases h

end Sys2Proof.Laws
end

