-- ==== Sys2Proof/Tests/Slice0.lean ====
section
/-! SUPPORT. Tests: words of the spec's encodings decode, ill-formed terms are refused, single steps, and for each statement
states and operands that meet its hypotheses. -/

namespace Sys2Proof.Tests

set_option maxRecDepth 20000
set_option Elab.async false

open Sys2Proof.Machine Sys2Proof.Said

/-! ### Decoding: a word of each constructor, packed from the fields of the spec's opcode table -/

/-- Each word decodes to the instruction beside it. -/
def decodesAll (l : List (BitVec 32 × Instr)) : Bool := l.all fun p => decide ((decodeAny p.1).toOption = some p.2)

theorem test_words_major_01 : decodesAll [
    (0x06B65800, .add 21 22 11), (0x06B65801, .sub 21 22 11), (0x06B65802, .and 21 22 11), (0x06B65803, .or 21 22 11),
    (0x06B65804, .xor 21 22 11), (0x06B65805, .sll 21 22 11), (0x06B65806, .srl 21 22 11), (0x06B65807, .sra 21 22 11),
    (0x06B65808, .slt 21 22 11), (0x06B65809, .sltu 21 22 11), (0x06B6580A, .min 21 22 11), (0x06B6580B, .max 21 22 11),
    (0x06B6580C, .minu 21 22 11), (0x06B6580D, .maxu 21 22 11), (0x06B6000E, .clz 21 22), (0x06B6000F, .ctz 21 22),
    (0x06B60010, .popc 21 22), (0x06B65811, .bext 21 22 11), (0x06B65812, .bins 21 22 11), (0x06B65813, .csel 21 22 11),
    (0x06B65820, .addW 21 22 11), (0x06B65821, .subW 21 22 11), (0x06B65825, .sllW 21 22 11), (0x06B65826, .srlW 21 22 11),
    (0x06B65827, .sraW 21 22 11)] = true := by
  decide
theorem test_words_major_02 : decodesAll [
    (0x0AB65800, .mul 21 22 11), (0x0AB65801, .mulh 21 22 11), (0x0AB65802, .mulhu 21 22 11), (0x0AB65803, .div 21 22 11),
    (0x0AB65804, .divu 21 22 11), (0x0AB65805, .rem 21 22 11), (0x0AB65806, .remu 21 22 11), (0x0AB65820, .mulW 21 22 11)] = true := by
  decide
theorem test_words_major_03 : decodesAll [
    (0x0EB69A5C, .addi 21 22 39516)] = true := by
  decide
theorem test_words_major_04 : decodesAll [
    (0x12B69A5C, .andi 21 22 39516)] = true := by
  decide
theorem test_words_major_05 : decodesAll [
    (0x16B69A5C, .ori 21 22 39516)] = true := by
  decide
theorem test_words_major_06 : decodesAll [
    (0x1AB69A5C, .xori 21 22 39516)] = true := by
  decide
theorem test_words_major_07 : decodesAll [
    (0x1EB6002D, .slli 21 22 45), (0x1EB6402D, .srli 21 22 45), (0x1EB6802D, .srai 21 22 45)] = true := by
  decide
theorem test_words_major_08 : decodesAll [
    (0x22B2C35A, .lui 21 1229658)] = true := by
  decide
theorem test_words_major_09 : decodesAll [
    (0x26B2C35A, .addpc 21 1229658)] = true := by
  decide
theorem test_words_major_0A : decodesAll [
    (0x2AB69A5C, .slti 21 22 39516)] = true := by
  decide
theorem test_words_major_0B : decodesAll [
    (0x2C2CB9A6, .bEq 22 11 2470), (0x2C6CB9A6, .bNe 22 11 2470), (0x2CACB9A6, .bLt 22 11 2470), (0x2CECB9A6, .bGe 22 11 2470),
    (0x2D2CB9A6, .bLtu 22 11 2470), (0x2D6CB9A6, .bGeu 22 11 2470), (0x2D8009A6, .bVs 2470), (0x2DC009A6, .bVc 2470)] = true := by
  decide
theorem test_words_major_0C : decodesAll [
    (0x31234567, .j 19088743), (0x33234567, .jal 19088743)] = true := by
  decide
theorem test_words_major_0D : decodesAll [
    (0x36B69A5C, .jalr 21 22 39516)] = true := by
  decide
theorem test_words_major_0E : decodesAll [
    (0x3AB65800, .fadd 21 22 11), (0x3AB65801, .fsub 21 22 11), (0x3AB65802, .fmul 21 22 11), (0x3AB65803, .fdiv 21 22 11),
    (0x3AB60004, .fsqrt 21 22), (0x3AB65805, .fmin 21 22 11), (0x3AB65806, .fmax 21 22 11), (0x3AB65807, .feq 21 22 11),
    (0x3AB65808, .flt 21 22 11), (0x3AB65809, .fle 21 22 11), (0x3AB6000A, .fclass 21 22), (0x3AB6000B, .fexp2 21 22),
    (0x3AB6000C, .frcp 21 22), (0x3AB6006B, .fcvt 21 22 5 3)] = true := by
  decide
theorem test_words_major_0F : decodesAll [
    (0x3EB65E80, .ffma 21 22 11 26), (0x3EB65E81, .ffms 21 22 11 26), (0x3EB65E82, .fnma 21 22 11 26)] = true := by
  decide
theorem test_words_major_10 : decodesAll [
    (0x42B6ACDB, .ld 21 22 345 5 2 1 1)] = true := by
  decide
theorem test_words_major_11 : decodesAll [
    (0x46B6ACD9, .st 21 22 345 5 2 1)] = true := by
  decide
theorem test_words_major_12 : decodesAll [
    (0x4AB6ACDC, .lds 21 22 345 5), (0x4AB6ACDD, .ldc 21 22 345 5), (0x4AB6ACDE, .ldq 21 22 345 5),
    (0x4AB6ACDF, .ldt 21 22 345 5)] = true := by
  decide
theorem test_words_major_13 : decodesAll [
    (0x4EB6ACDC, .stf 21 22 345 5), (0x4EB6ACDD, .stw 21 22 345 5), (0x4EB6ACDE, .stv 21 22 345 5),
    (0x4EB6ACDF, .ste 21 22 345 5)] = true := by
  decide
theorem test_words_major_14 : decodesAll [
    (0x52B6582B, .amoAdd 21 22 11 5 3), (0x52B6586B, .amoAnd 21 22 11 5 3), (0x52B658AB, .amoOr 21 22 11 5 3),
    (0x52B658EB, .amoXor 21 22 11 5 3), (0x52B6592B, .amoMin 21 22 11 5 3), (0x52B6596B, .amoMax 21 22 11 5 3),
    (0x52B659AB, .amoMinu 21 22 11 5 3), (0x52B659EB, .amoMaxu 21 22 11 5 3), (0x52B65A2B, .amoSwap 21 22 11 5 3),
    (0x52B65A6B, .amoCas 21 22 11 5 3), (0x52B65AAB, .amoFadd 21 22 11 5 3), (0x52B65AEB, .amoAddW 21 22 11 5 3)] = true := by
  decide
theorem test_words_major_15 : decodesAll [
    (0x540000D4, .fence 1 5 4), (0x5410006D, .bar 13 5), (0x54202C6D, .barArrive 11 13 5), (0x543B006D, .barWait 22 13 5),
    (0x544B0000, .arrive 22), (0x545B2C00, .expect 22 11), (0x546B2C00, .waitc 22 11), (0x547B2C00, .cwinit 22 11)] = true := by
  decide
theorem test_words_major_16 : decodesAll [
    (0x580B2E74, .putrG 22 11 19 5), (0x58152CD4, .putrV 10 11 6 5)] = true := by
  decide
theorem test_words_major_17 : decodesAll [
    (0x5C0002C9, .trap 713), (0x5C100000, .eret), (0x5C202D31, .csrr 11 305), (0x5C3B2D31, .csrw 22 11 305),
    (0x5C4B2D31, .csrs 22 11 305), (0x5C5B2D31, .csrc 22 11 305), (0x5C6B2C00, .wait 22 11), (0x5C700000, .halt),
    (0x5C800000, .yield), (0x5C900000, .ebreak), (0x5CAB0002, .tlbinv 22 2), (0x5CC02C00, .remptyG 11),
    (0x5CD03800, .remptyV 14)] = true := by
  decide
theorem test_words_major_18 : decodesAll [
    (0x626AEC00, .vadd 9 10 11 5 2), (0x626AEC01, .vsub 9 10 11 5 2), (0x626AEC02, .vmul 9 10 11 5 2),
    (0x626AEC03, .vmulh 9 10 11 5 2), (0x626AEC04, .vand 9 10 11 5 2), (0x626AEC05, .vor 9 10 11 5 2),
    (0x626AEC06, .vxor 9 10 11 5 2), (0x626AEC07, .vsll 9 10 11 5 2), (0x626AEC08, .vsrl 9 10 11 5 2),
    (0x626AEC09, .vsra 9 10 11 5 2), (0x626AEC0A, .vmin 9 10 11 5 2), (0x626AEC0B, .vmax 9 10 11 5 2),
    (0x626AEC0C, .vminu 9 10 11 5 2), (0x626AEC0D, .vmaxu 9 10 11 5 2), (0x626AEC0E, .vadds 9 10 11 5 2),
    (0x626AEC0F, .vsubs 9 10 11 5 2)] = true := by
  decide
theorem test_words_major_19 : decodesAll [
    (0x666AEC00, .vfadd 9 10 11 5 2), (0x666AEC01, .vfsub 9 10 11 5 2), (0x666AEC02, .vfmul 9 10 11 5 2),
    (0x666AEC03, .vfdiv 9 10 11 5 2), (0x66682C04, .vfsqrt 9 10 5 2), (0x666AEC05, .vfmin 9 10 11 5 2),
    (0x666AEC06, .vfmax 9 10 11 5 2), (0x66682C07, .vfexp2 9 10 5 2), (0x66682C08, .vfrcp 9 10 5 2),
    (0x66682C09, .vfabs 9 10 5 2), (0x66682C0A, .vfneg 9 10 5 2)] = true := by
  decide
theorem test_words_major_1A : decodesAll [
    (0x6A6AF680, .vfma 9 10 11 13 5), (0x6A6AF681, .vfms 9 10 11 13 5), (0x6A6AF682, .vfnma 9 10 11 13 5)] = true := by
  decide
theorem test_words_major_1B : decodesAll [
    (0x6DAAEC00, .vcmpEq 6 10 11 5 2), (0x6DAAEC01, .vcmpNe 6 10 11 5 2), (0x6DAAEC02, .vcmpLt 6 10 11 5 2),
    (0x6DAAEC03, .vcmpGe 6 10 11 5 2), (0x6DAAEC04, .vcmpLtu 6 10 11 5 2), (0x6DAAEC05, .vcmpGeu 6 10 11 5 2),
    (0x6DAAEC08, .vfcmpEq 6 10 11 5 2), (0x6DAAEC09, .vfcmpLt 6 10 11 5 2), (0x6DAAEC0A, .vfcmpLe 6 10 11 5 2),
    (0x6DAAEC0B, .vfcmpUn 6 10 11 5 2), (0x6E6AEC10, .vsel 9 10 11 5), (0x6D8C6811, .kand 6 3 1 5), (0x6D8C6812, .kor 6 3 1 5),
    (0x6D8C6813, .kxor 6 3 1 5), (0x6D8C2814, .knot 6 3 5)] = true := by
  decide
theorem test_words_major_1C : decodesAll [
    (0x725A1400, .vbcast 9 13 5), (0x701B42C1, .vext 13 10 22), (0x725A02C2, .vins 9 13 22), (0x701A7403, .kpopc 13 3 5),
    (0x701A7404, .kfirst 13 3 5), (0x726AEC08, .vperm 9 10 11 5 2), (0x72682C0A, .vredadd 9 10 5 2),
    (0x72682C0B, .vredmax 9 10 5 2), (0x72682C0C, .vredmin 9 10 5 2), (0x72682C0D, .vfredadd 9 10 5),
    (0x72682C0E, .vfredmax 9 10 5), (0x726AEC0F, .vtopk 9 10 11 5), (0x72682C10, .vscan 9 10 5 2)] = true := by
  decide
theorem test_words_major_1D : decodesAll [
    (0x766C0B00, .vld 9 22 5 2), (0x766C0B01, .vst 9 22 5 2), (0x766CBB02, .vlds 9 22 11 5 2), (0x766CBB03, .vsts 9 22 11 5 2),
    (0x766C0B04, .vldsync 9 22 5 2)] = true := by
  decide
theorem test_words_major_1E : decodesAll [
    (0x7A6CEB00, .vgather 9 22 7 5), (0x7A6CEB01, .vscatter 9 22 7 5), (0x7A6CEB02, .vgatherb 9 22 7 5)] = true := by
  decide
theorem test_words_major_1F : decodesAll [
    (0x7E682896, .vcvt 9 10 5 9 6)] = true := by
  decide
theorem test_words_major_20 : decodesAll [
    (0x800B2C00, .bsAttach 22 11), (0x80102C2D, .bsGet 11 45), (0x80202C2D, .bsPeek 11 45), (0x803B002D, .bsSkip 22 45),
    (0x804B2C0B, .bsVlc 22 11 11), (0x805B002D, .bsPut 22 45), (0x806B0000, .bsFlush 22), (0x807B0000, .bsOattach 22)] = true := by
  decide
theorem test_words_major_21 : decodesAll [
    (0x86B65800, .rndLo 21 22 11), (0x86B65801, .rndHi 21 22 11)] = true := by
  decide
theorem test_words_major_28 : decodesAll [
    (0xA00B0001, .lnErw 22 1), (0xA0102C01, .lnErr 11 1), (0xA02B2C00, .lnLaunch 22 11), (0xA03B2C00, .lnQstat 22 11),
    (0xA04B0000, .lnKill 22)] = true := by
  decide
theorem test_words_major_29 : decodesAll [
    (0xA40B0000, .frErw 22 0), (0xA4102C00, .frErr 11 0), (0xA42B2C00, .frPush 22 11), (0xA43B0000, .frPop 22),
    (0xA44B0000, .frEnter 22), (0xA4500000, .frLeave), (0xA46B2C00, .frApp 22 11), (0xA47B0000, .frSeal 22),
    (0xA48B2C00, .frCut 22 11), (0xA49B2C09, .frRd 22 11 9), (0xA4AB000E, .frScope 22 14)] = true := by
  decide
theorem test_words_major_2A : decodesAll [
    (0xA80B0001, .atErw 22 1), (0xA8102C01, .atErr 11 1), (0xA8200000, .atQ), (0xA83B000E, .atKv 22 14),
    (0xA84B2C00, .atTree 22 11), (0xA85B000E, .atFold 22 14), (0xA8600000, .atLin), (0xA87B0000, .atMerge 22),
    (0xA8800001, .atOut 1), (0xA8900000, .atReset)] = true := by
  decide
theorem test_words_major_2B : decodesAll [
    (0xAC0B0001, .mxErw 22 1), (0xAC102C01, .mxErr 11 1), (0xAC2B0000, .mxBegin 22), (0xAC300000, .mxEnd),
    (0xAC4B2C00, .mxPerm 22 11), (0xAC5B2C00, .mxStep 22 11), (0xAC600004, .mxDrain 4), (0xAC700000, .mxClear)] = true := by
  decide
theorem test_words_major_2C : decodesAll [
    (0xB00B0001, .cpErw 22 1), (0xB0102C01, .cpErr 11 1), (0xB02B2C00, .cpGo 22 11), (0xB04B0000, .cpCancel 22),
    (0xB05B0000, .cpSave 22), (0xB06B0000, .cpRestore 22)] = true := by
  decide
theorem test_words_major_2D : decodesAll [
    (0xB40B0001, .fxErw 22 1), (0xB4102C01, .fxErr 11 1), (0xB4202C00, .fxGo 11), (0xB43B0000, .fxSend 22),
    (0xB44B0000, .fxRecv 22), (0xB4500000, .fxBar), (0xB4600000, .fxAbort)] = true := by
  decide
theorem test_words_major_2E : decodesAll [
    (0xB80B0001, .mkErw 22 1), (0xB8102C01, .mkErr 11 1), (0xB82B0000, .mkLoad 22), (0xB83B2C00, .mkStep 22 11),
    (0xB84B000E, .mkMask 22 14), (0xB85B2C00, .mkWait 22 11), (0xB8602C00, .mkForced 11), (0xB8700000, .mkReset)] = true := by
  decide

/-! ### Well-formedness: one ill-formed term for each check -/

theorem test_wf_scope : (Instr.lds 1 2 0 7).wf = false := by decide
theorem test_wf_order : (Instr.amoAdd 1 2 3 0 5).wf = false := by decide
theorem test_wf_level : (Instr.bar 0 6).wf = false := by decide
theorem test_wf_width : (Instr.vadd 1 2 3 0 3).wf = false := by decide
theorem test_wf_format : (Instr.vfadd 1 2 3 0 0).wf = false := by decide
theorem test_wf_bits : (Instr.bsGet 1 58).wf = false ∧ (Instr.bsGet 1 0).wf = false := by decide
theorem test_wf_window : (Instr.bsVlc 1 2 17).wf = false := by decide
theorem test_wf_field : (Instr.frRd 1 2 13).wf = false := by decide
theorem test_wf_convert : (Instr.fcvt 1 2 4 4).wf = false ∧ (Instr.vcvt 1 2 0 12 0).wf = false := by decide
theorem test_wf_index : (Instr.lnErw 1 3).wf = false ∧ (Instr.mkErr 1 11).wf = false := by decide
theorem test_wf_load : (Instr.ld 1 2 0 0 3 1 0).wf = false := by decide

/-! ### States -/

/-- Slot 7 of core 0 executes in mode H for tenant `t`; virtual bytes 0 to 2^30 − 1 are near memory. -/
def machine (t : Nat) (regs : List (BitVec 5 × Word)) (csrs : List (Nat × Word)) (cells : List (Nat × Nat × Nat)) : State :=
  let s := { State.reset.withFetchWord 32 0 with curCore := 0, curSlot := 7 }
  let s := cells.foldl (fun s c => s.poke c.1 c.2.1 c.2.2) s
  let sl := regs.foldl (fun sl r => sl.setG r.1 r.2 .full) (s.me.setCsr 0 (mkStatus t 7 false 0 3))
  s.setMe (csrs.foldl (fun sl c => sl.setCsr c.1 c.2) sl)

/-- The registers and CSRs of the executing slot of a package after reset. -/
def fibre (regs : List (BitVec 5 × Word)) (csrs : List (Nat × Word)) : State :=
  State.reset.setMe (csrs.foldl (fun sl c => sl.setCsr c.1 c.2) (regs.foldl (fun sl r => sl.setG r.1 r.2 .full) Slot.empty))

/-- A computation ends well, with a value that meets a test. -/
def good {α : Type} (x : Except Stop α) (f : α → Bool) : Bool :=
  match x with
  | .ok a => f a
  | .error _ => false

/-- What `good` says. -/
theorem of_good {α : Type} {x : Except Stop α} {f : α → Bool} (h : good x f = true) : ∃ a, x = .ok a ∧ f a = true := by
  unfold good at h; split at h
  · exact ⟨_, rfl, h⟩
  · exact absurd h (by decide)

/-- The registers of a slot that holds nothing are ready as any list of sources. -/
theorem witness_ready (l : List Src) : State.reset.me.ready l := by
  intro r _
  have e : State.reset.me = Slot.empty := rfl
  rw [e]
  cases r with
  | g n => simp only [Slot.presOf, Slot.gp]; split <;> exact (by decide : Presence.full ≠ .empty)
  | v n => exact (by decide : Presence.full ≠ .empty)
  | k n => simp only [Slot.presOf, Slot.kp]; split <;> exact (by decide : Presence.full ≠ .empty)

/-! ### Hypotheses that are met: encoding, steps, faults -/

theorem witness_DecodeInvertsEncode : (Instr.trap 1023).encoded = true ∧ (Instr.trap 1023).wf = true ∧
    hasMajor .pager ((encode (.trap 1023)).extractLsb' 26 6).toNat = true := by decide
theorem witness_EncodeInvertsDecode : (decode .control 0x06B65800).toOption = some (.add 21 22 11) := by decide

/-- `add g1, g2, g3` stands where the next step fetches. -/
def due : State := State.reset.withFetchWord 32 0x04221800

theorem witness_StepRunsDecoded_turn : due.frozen = false ∧ due.resumable = none ∧ due.phase = .issues 0 ∧
    due.nextCore 0 = some 0 ∧ due.pick 0 = some 7 ∧ (turn due 0 7).me.overBudget = false := by decide +kernel
theorem witness_StepRunsDecoded_fetch :
    good (turn due 0 7).countIssue.fetchAcc (fun r => decide (r.1.page.tgt = 0) && decide (r.1.phys = 0x20000) &&
      good (r.2.fetchLanded r.1) (fun _ => true) && decide ((turn due 0 7).countIssue.recoloured = []) &&
        decide ((decodeBytes .compute (codeBytes r.2 r.1.phys)).toOption = some (.add 1 2 3))) = true := by decide +kernel
/-- A parked instruction whose wait has ended. -/
def awake : State := due.setSlot 0 7 { due.slotAt 0 7 with resuming := true, fetched := some 0x04221800 }
theorem witness_StepRunsDecoded_resume : awake.frozen = false ∧ awake.resumable = some (0, 7) ∧
    (awake.slotAt 0 7).fetched = some 0x04221800 ∧ (decode .compute 0x04221800).toOption = some (.add 1 2 3) := by decide +kernel

/-- The same in mode U, with a budget of 1 that is used up. -/
def spent : State := due.setSlot 0 7 (((due.slotAt 0 7).setCsr 0 0).setCsr 0x031 1 |>.setCsr 0x032 1)
theorem witness_IssueRules : spent.frozen = false ∧ spent.resumable = none ∧ spent.phase = .issues 0 ∧
    spent.nextCore 0 = some 0 ∧ spent.pick 0 = some 7 ∧ (turn spent 0 7).me.overBudget = true ∧
    (due.slotAt 0 (due.cycle % slotCount 0)).eligible due.cycle = true ∧
    (due.slotAt 0 (due.cycle % slotCount 0)).yielded = false := by decide +kernel
theorem witness_StepKeepsCanonical : State.reset.canonical ∧ ∃ t, step State.reset = .next t := ⟨State.reset_canonical, _, rfl⟩
theorem witness_FaultDelivery : (fibre [] [(0x004, 0x1000)]).me.mode = 0 ∧ (fibre [] [(0x004, 0x1000)]).me.inh = false ∧
    (fibre [] [(0x004, 0x1000)]).me.csrv 0x004 ≠ 0 := by decide
theorem witness_FaultEscalation : (255 < 256) ∧
    ¬ (State.reset.me.mode = 0 ∧ State.reset.me.inh = false ∧ State.reset.me.csrv 0x004 ≠ 0) ∧ State.reset.me.mode ≠ 3 ∧
    (fibre [] [(0, mkStatus 5 0 false 0 3)]).me.mode = 3 := by decide
theorem witness_TrapsAndReturn : (fibre [] [(0, mkStatus 5 0 true 0 1)]).me.mode = 1 ∧
    (fibre [] [(0, mkStatus 5 0 false 0 3), (0x103, 0x200)]).me.mode ≠ 1 ∧
    fld ((fibre [] [(0, mkStatus 5 0 false 0 3), (0x103, 0x200)]).me.csrv 0x103) 8 2 = 2 := by decide

/-! ### Hypotheses that are met: scalar registers (with `witness_ready`) -/

theorem witness_IntegerRegister_fields : (63 : Nat) = ((0x03F : Word).toNat) % 64 ∧ (0x03F : Word).toNat / 64 % 64 = 0 ∧
    min 64 (64 - 63) = 1 ∧ (0xFFF : Word).toNat / 64 % 64 = 63 := by decide
theorem witness_IntegerRegister_empty : ((State.reset.setMe (Slot.empty.setG 5 7 .empty)).me.gp 5).2 = .empty := by decide
theorem witness_MultiplyDivide : gv (fibre [(1, 0x8000000000000000), (2, 0xFFFFFFFFFFFFFFFF)] []) 1 = 0x8000000000000000 ∧
    (gv (fibre [(1, 0x8000000000000000), (2, 0xFFFFFFFFFFFFFFFF)] []) 2).toInt = -1 ∧ gv State.reset 2 = 0 ∧
    gv (fibre [(1, 7), (2, 2)] []) 2 ≠ 0 := by decide
theorem witness_FpArithmetic : untrapped State.reset flNV ∧ ¬ untrapped (fibre [] [(0x012, 0x20)]) flNV ∧
    ¬ untrapped (fibre [] [(0x012, 0x10)]) flNoNan := by unfold untrapped; decide
theorem witness_FpSelectAndClass : (0xFF800000 : Word).getLsbD 31 = true ∧ (0xFF800000 : Word).toNat / 2 ^ 23 % 256 = 255 ∧
    (0xFF800000 : Word).toNat % 2 ^ 23 = 0 ∧ (0x00000001 : Word).toNat / 2 ^ 23 % 256 = 0 ∧
    (0x7F800001 : Word).toNat % 2 ^ 23 < 2 ^ 22 ∧ 2 ^ 22 ≤ (0x7FC00000 : Word).toNat % 2 ^ 23 := by decide

theorem witness_ImmediatesAndJumps : State.reset.me.ready [.g 31, .g 1] ∧ (State.reset.me.csrv 0x006).getLsbD 0 = false ∧
    ((fibre [] [(0x006, 1)]).me.csrv 0x006).getLsbD 0 = true := ⟨witness_ready _, by decide, by decide⟩
theorem witness_PhiloxGenerator : State.reset.me.ready [.g 1, .g 2] ∧ 9 < 10 := ⟨witness_ready _, by decide⟩
theorem witness_FpFusedAndConvert : State.reset.me.ready [.g 1, .g 2, .g 3] ∧ ((5 : BitVec 3) = 5 ∧ (6 : BitVec 3) = 6) ∧
    ((0 : BitVec 3) = 0 ∧ (5 : BitVec 3) ≤ 7) ∧ bit (State.reset.me.csrv 0x012) 4 = false ∧ bit (State.reset.me.csrv 0x012) 5 = false :=
  ⟨witness_ready _, by decide, by decide, by decide, by decide⟩
theorem witness_VectorCompare : (2 : BitVec 2) ≠ 3 ∧ 32 = 8 * 2 ^ (2 : BitVec 2).toNat ∧ (0 : BitVec 2) ≠ 3 ∧ State.reset.me.ready [.v 1, .v 2] :=
  ⟨by decide, by decide, by decide, witness_ready _⟩
theorem witness_SelectAndLanes : State.reset.me.ready [.v 1, .v 15, .k 7] ∧ State.reset.me.ready [.k 1, .k 2, .k 3, .k 4] ∧
    State.reset.me.ready [.g 1, .v 0] ∧ (31 : BitVec 5).toNat < 32 := ⟨witness_ready _, witness_ready _, witness_ready _, by decide⟩
theorem witness_PermuteAndReduce : (0 : BitVec 2) ≠ 3 ∧ 8 = 8 * 2 ^ (0 : BitVec 2).toNat ∧ State.reset.me.ready [.v 1, .k 0] ∧
    actsOf State.reset 0 8 = List.range 128 := ⟨by decide, by decide, witness_ready _, by decide +kernel⟩
theorem witness_FaultFrame : 4 ≤ 0x006 ∧ 0x006 ≠ 0x102 ∧ 0x006 ≠ 0x103 ∧ 0x006 ≠ 0x105 := by decide
/-! ### Hypotheses that are met: memory -/

/-- No source is EMPTY, as a Bool. -/
def readyB (s : State) (l : List Src) : Bool := l.all fun r => decide (s.me.presOf r ≠ .empty)

theorem of_readyB {s : State} {l : List Src} (h : readyB s l = true) : s.me.ready l := by
  intro r hr
  have := List.all_eq_true.mp h r hr
  exact of_decide_eq_true this

/-- An access reaches a page, with what a test asks of the page, the physical address and the state that it leaves. -/
def reaches (s : State) (l : List Src) (r : Req) (va : Word) (f : Page → Nat → State → Bool) : Bool :=
  readyB s l && good ((s.seen l).reach r va) (fun x => good (x.2.landed r x.1 [x.1]) (fun _ => true) && f x.1.page x.1.phys x.2)

theorem of_reaches {s : State} {l : List Src} {r : Req} {va : Word} {f : Page → Nat → State → Bool}
    (h : reaches s l r va f = true) : ∃ p phys u, Reaches s l r va p phys u ∧ f p phys u = true := by
  unfold reaches at h
  rw [Bool.and_eq_true] at h
  obtain ⟨a, ha, hf⟩ := of_good h.2
  rw [Bool.and_eq_true] at hf
  obtain ⟨⟨⟩, hl, -⟩ := of_good hf.1
  exact ⟨a.1.page, a.1.phys, a.2, ⟨a.1, ⟨of_readyB h.1, ha⟩, hl, rfl, rfl⟩, hf.2⟩

/-- `machine` with far pages from 2^30 on, host pages from 2^31 on, whose atomics are the host's, a device window at
2^40, and the core's LM at 2^40 + 2^16. -/
def wide (regs : List (BitVec 5 × Word)) (csrs : List (Nat × Word)) (cells : List (Nat × Nat × Nat)) : State :=
  { machine 0xFF regs csrs ([(0x18008, 8, 0x3F), (0x18010, 8, 0x80BF), (0x10008, 8, 0x30001), (0x30000, 8, 0x38001),
      (0x38000, 8, 0xDF), (0x38008, 8, 0x5F)] ++ cells) with atsOk := [(0xFF, 0)] }

/-- g4 names a word of near memory. -/
def near (p : Presence) (v : Nat) (tag : Word) : State :=
  (wide [(4, 0x20400), (5, 1), (6, 9)] [(0x00C, tag)] [(0x20400, 8, v)]).setPres 0x20400 p

theorem witness_PresenceAccess_read : [Presence.full, .void].all (fun q => reaches (near q 0x10007 7) [.g 4] ((near q 0x10007 7).req .read 8)
    (ea (near q 0x10007 7) 4 0 8) fun _ a u => hasPres a && decide ((near q 0x10007 7).presAt a = q) && !u.queuedBefore u.myPlace a &&
      decide ((near q 0x10007 7).peek a 8 % 2 ^ 16 = fld ((near q 0x10007 7).me.csrv 0x00C) 0 16)) = true := by decide +kernel
theorem witness_PresenceAccess_tag : reaches (near .full 0x10008 7) [.g 4] ((near .full 0x10008 7).req .read 8)
    (ea (near .full 0x10008 7) 4 0 8) (fun _ a _ =>
      decide ((near .full 0x10008 7).peek a 8 % 2 ^ 16 ≠ fld ((near .full 0x10008 7).me.csrv 0x00C) 0 16)) = true := by decide +kernel
theorem witness_PresenceAccess_empty : reaches (near .empty 0 0) [.g 4] (presReq (near .empty 0 0) .readWrite) (ea (near .empty 0 0) 4 0 8)
    (fun _ a _ => decide ((near .empty 0 0).presAt a = .empty)) = true := by decide +kernel
theorem witness_PresenceAccess_write : [Presence.full, .empty, .void].all (fun q => reaches (near q 0 0) [.g 4, .g 6]
    (presReq (near q 0 0) .write) (ea (near q 0 0) 4 0 8) fun _ a u => decide ((near q 0 0).presAt a = q) && !u.queuedBefore u.myPlace a) = true := by
  decide +kernel

theorem witness_Atomics : [Presence.full, .empty, .void].all (fun q => reaches (near q 5 0) [.g 4, .g 5]
    { (near q 5 0).req .readWrite 8 with atomic := 2 } (gv (near q 5 0) 4) fun p a u => decide (p.tgt ≠ 5) && decide (p.tgt ≠ 1) &&
      hasPres a && decide ((near q 5 0).presAt a = q) && !u.queuedBefore u.myPlace a) = true := by decide +kernel
/-- An access of the executing thread is issued, and its reply is `q`. -/
def replied (s : State) (r : Req) (va : Word) (q : Reply) : State :=
  match s.reach r va with
  | .ok (a, _) => s.setMe { s.me with kept := [{ a with reply := q }] }
  | .error _ => s
/-- An access is issued, with what a test asks of it. -/
def issues (s : State) (l : List Src) (r : Req) (va : Word) (f : Acc → State → Bool) : Bool :=
  readyB s l && good ((s.seen l).reach r va) (fun x => f x.1 x.2)
theorem of_issues {s : State} {l : List Src} {r : Req} {va : Word} {f : Acc → State → Bool}
    (h : issues s l r va f = true) : ∃ x u, Issues s l r va x u ∧ f x u = true := by
  unfold issues at h
  rw [Bool.and_eq_true] at h
  obtain ⟨a, ha, hf⟩ := of_good h.2
  exact ⟨a.1, a.2, ⟨of_readyB h.1, ha⟩, hf⟩
/-- g4 names a word of host memory, and the PCIe reply has come. -/
def hosted (r : Reply) : State := let s := wide [(4, 0x80000000), (5, 1)] [] []; replied s (s.req .readWrite 8) 0x80000000 r
theorem witness_Atomics_host : [Reply.none, .host .success, .host .unsupported, .host .abort, .timeout].all (fun r => issues (hosted r) [.g 4, .g 5]
    { (hosted r).req .readWrite 8 with atomic := 2 } (gv (hosted r) 4) fun x u => decide (x.page.tgt = 5) && decide (x.reply = r) &&
      good (u.landed { (hosted r).req .readWrite 8 with atomic := 2 } x [x]) fun _ => true) = true := by decide +kernel
/-- g4 names a word of the far tier, and the data have come. -/
def farther : State := let s := wide [(4, 0x40000000), (5, 1)] [] []; replied s (s.req .readWrite 8) 0x40000000 (.far true)
theorem witness_Atomics_far : reaches farther [.g 4, .g 5] { farther.req .readWrite 8 with atomic := 1 } (gv farther 4)
    (fun p a _ => decide (p.tgt = 1) && !hasPres a) = true := by decide +kernel

theorem witness_LoadStore : (List.range 4).all (fun w => reaches (near .full 5 0) [.g 4] ((near .full 5 0).req .read (2 ^ w))
    (ea (near .full 5 0) 4 0x100 (2 ^ w)) (fun p _ _ => decide (p.tgt ≠ 5) && decide (p.tgt ≠ 6) && decide (p.tgt ≠ 1)) &&
    reaches (near .full 5 0) [.g 4, .g 6] ((near .full 5 0).req .write (2 ^ w)) (ea (near .full 5 0) 4 0x0FF (2 ^ w))
      (fun p _ _ => decide (p.tgt ≠ 5) && decide (p.tgt ≠ 6))) = true := by decide +kernel
theorem witness_LoadStore_host : reaches (hosted (.host .success)) [.g 4] ((hosted (.host .success)).req .read 8)
    (ea (hosted (.host .success)) 4 0 8) (fun p _ _ => decide (p.tgt = 5)) = true ∧
    reaches (hosted .none) [.g 4, .g 5] ((hosted .none).req .write 4) (ea (hosted .none) 4 0 4) (fun p _ _ => decide (p.tgt = 5)) = true := by
  decide +kernel
theorem witness_LoadStore_device : reaches (wide [(4, 0x10000000000), (5, 1)] [] []) [.g 4, .g 5]
    ((wide [(4, 0x10000000000), (5, 1)] [] []).req .write 8) (ea (wide [(4, 0x10000000000), (5, 1)] [] []) 4 0 8)
      (fun p _ _ => decide (p.tgt = 6)) = true := by decide +kernel
theorem witness_LoadStore_far : reaches farther [.g 4] (farther.req .read 8) (ea farther 4 0 8)
    (fun p _ _ => decide (p.tgt = 1)) = true := by decide +kernel
theorem witness_LoadStore_wait : [((0x40000000 : Word), 1), (0x80000000, 5)].all (fun e => let s := wide [(4, e.1)] [] []
    issues s [.g 4] (s.req .read 8) (ea s 4 0 8) (fun x _ => decide (x.page.tgt = e.2)) && decide (s.me.kept = []) &&
      decide (s.dropping = [])) = true := by decide +kernel

/-- How a translation ends, and whether its page permits an access and can hold it (R25). -/
def checkOf (s : State) (r : Req) (va : Word) : Option (Bool × Nat × Bool) :=
  match s.translate s.who .data r.acc va with
  | .ok (p, _, _) => some (permits p r, p.tgt, atomicOk p r)
  | .error _ => none
theorem witness_LoadStore_checks : let s := wide [] [] [(0x18018, 8, 3)]
    (0x20401 : Word).toNat % (s.req .read 8).align ≠ 0 ∧ (0xFFFFFFFFFFFFFFF8 : Word).toNat % (s.req .read 8).align = 0 ∧
    2 ^ 52 ≤ (0x10000000000000 : Word).toNat ∧ (0xFFFFFFFFFFFF8 : Word).toNat < 2 ^ 52 ∧
    checkOf s (s.req .read 8) 0xFFFFFFFFFFFF8 = none ∧
    checkOf s (s.req .write 8) 0xC0000000 = some (false, 0, true) ∧
    checkOf s (presReq s .read) 0x40000000 = some (true, 1, true) ∧
    checkOf s (s.req .read 4) 0x10000000000 = some (true, 6, true) ∧
    checkOf s { s.req .readWrite 8 with atomic := 1 } 0x80000000 = some (true, 5, false) := by decide +kernel

/-! ### Hypotheses that are met: fences, barriers, completion words, remote writes -/

/-- A thread with host stores under way. -/
def posted (r : Reply) : State := State.reset.setMe { Slot.empty with hostStores := true, reply := r }
theorem witness_BarriersAndFences_fence : (posted .none).me.hostStores = true ∧ (6 : BitVec 3) = 6 ∧ (4 : BitVec 4).getLsbD 2 = true ∧
    ((5 : BitVec 4).extractLsb' 0 2 ≠ 0 ∨ (0 : BitVec 1) = 1) ∧ (posted (.host .success)).me.reply = .host .success ∧
    (posted .none).me.reply = .none ∧ (posted (.host .abort)).me.reply = .host .abort ∧ (posted .timeout).me.reply = .timeout ∧
    State.reset.me.hostStores = false := by decide
/-- Two fibres of a launch in slots 0 and 1 of core 0, and barrier 3 of that core. -/
def barring (b : Barrier) : State :=
  let s := State.reset.setMe { Slot.empty with occupant := .fibre 5 0 1 0, state := .ready }
  { s.setSlot 0 1 { Slot.empty with occupant := .fibre 5 0 1 1, state := .ready } with barriers := [(barKey 0 0 3, b)] }
theorem witness_BarriersAndFences_arrive : (0 : BitVec 3) ≠ 5 ∧ (barring .idle).me.phaseOver = false ∧
    ((barring ⟨true, [], none⟩).barAt (barKey 0 0 3)).arrived = [] ∧
    ((barring ⟨false, [7], some (9, none, 3)⟩).barAt (barKey 0 0 3)).arrived ≠ [] ∧
    ((barring ⟨false, [7], some (9, none, 3)⟩).barAt (barKey 0 0 3)).owner ≠ some (groupOf (barring ⟨false, [7], some (9, none, 3)⟩)) := by
  decide +kernel
theorem witness_BarriersAndFences_count :
    (barring .idle).participants (barKey 0 0 3) (groupOf (barring .idle)) = 2 ∧
    ((barring .idle).barAt (barKey 0 0 3)).arrived.length + 1 < (barring .idle).participants (barKey 0 0 3) (groupOf (barring .idle)) ∧
    (barring ⟨false, [1], some (groupOf (barring .idle))⟩).participants (barKey 0 0 3) (groupOf (barring .idle)) ≤
      ((barring ⟨false, [1], some (groupOf (barring .idle))⟩).barAt (barKey 0 0 3)).arrived.length + 1 := by decide +kernel
theorem witness_BarriersAndFences_wait : State.reset.me.phaseOver = false ∧ (State.reset.barAt (barKey 0 0 3)).phase = (gv State.reset 1).getLsbD 0 ∧
    (State.reset.barAt (barKey 0 0 3)).phase ≠ (gv (fibre [(1, 1)] []) 1).getLsbD 0 ∧
    (State.reset.setMe { Slot.empty with resuming := true, wait := .barrier (barKey 0 0 3) false }).me.phaseOver = true := by decide +kernel
/-- g4 names a completion word. -/
def counted (p : Presence) (v : Nat) (n : Word) : State := (wide [(4, 0x20400), (5, n)] [] [(0x20400, 8, v)]).setPres 0x20400 p
theorem witness_CompletionWords_arrive : reaches (counted .full 0x00000005FFFF0002 0) [.g 4] (cwReq (counted .full 0 0) .readWrite)
    (gv (counted .full 0 0) 4) (fun _ a _ => hasPres a && decide (fld (word ((counted .full 0x00000005FFFF0002 0).peek a 8)) 57 7 = 0) &&
      decide (fld (word ((counted .full 0x00000005FFFF0002 0).peek a 8)) 16 16 = 65535)) = true ∧
    reaches (counted .full 2 0) [.g 4] (cwReq (counted .full 0 0) .readWrite) (gv (counted .full 0 0) 4)
      (fun _ a _ => decide (fld (word ((counted .full 2 0).peek a 8)) 16 16 = 0)) = true := by decide +kernel
theorem witness_CompletionWords_expect : [(0xFFFFFA, true), (0xFFFFFB, false)].all (fun e => reaches (counted .full 0x500010002 e.1) [.g 4, .g 5]
    (cwReq (counted .full 0 0) .readWrite) (gv (counted .full 0 0) 4) fun _ a _ => hasPres a &&
      decide (fld (word ((counted .full 0x500010002 e.1).peek a 8)) 32 24 + (gv (counted .full 0x500010002 e.1) 5).toNat < 2 ^ 24) = e.2) =
    true := by decide +kernel
theorem witness_CompletionWords_init : [(0xFFFF, true), (0x10000, false)].all (fun e => reaches (counted .void 0 e.1) [.g 4, .g 5]
    (cwReq (counted .full 0 0) .readWrite) (gv (counted .full 0 0) 4) fun _ a _ => hasPres a &&
      decide ((gv (counted .void 0 e.1) 5).toNat ≤ 65535) = e.2) = true := by decide +kernel
theorem witness_CompletionWords_elsewhere : reaches farther [.g 4, .g 5] (cwReq farther .readWrite) (gv farther 4)
    (fun _ a _ => !hasPres a) = true := by decide +kernel
theorem witness_CompletionWords_wait : [(Presence.void, 0), (.full, 0), (.full, 0x0100000000000000), (.full, 0x8000000000000000), (.empty, 0)].all
    (fun e => reaches (counted e.1 e.2 0) [.g 4, .g 5] (cwReq (counted .full 0 0) .read) (gv (counted .full 0 0) 4) fun _ a _ =>
      hasPres a && decide ((counted e.1 e.2 0).presAt a = e.1) && decide ((counted e.1 e.2 0).peek a 8 = e.2)) = true ∧
    (counted .full 0 0).me.flipped = false := by decide +kernel
/-- The thread comes back from a wait for a phase, which has flipped; slots 1 and 2 of core 3 wait for phases of the word at 0x20400. -/
def phased : State :=
  let s := wide [(4, 0x20400), (5, 0)] [] []
  let s := s.setMe { s.me with resuming := true, reply := .flipped, wait := .phase 0x20400 false }
  (s.setSlot 3 1 { Slot.empty with state := .parked, wait := .phase 0x20400 false }).setSlot 3 2
    { Slot.empty with state := .parked, wait := .phase 0x20400 false, preempted := true }
theorem witness_CompletionWords_flip : readyB phased [.g 4, .g 5] = true ∧ phased.me.flipped = true ∧
    bit (cw false 0 1 1) 56 ≠ bit (cw true 0 1 1) 56 ∧ (phased.slotAt 3 1).state = .parked ∧ (phased.slotAt 3 1).wait = .phase 0x20400 false ∧
    false ≠ bit (cw true 0 1 1) 56 ∧ (phased.slotAt 3 1).preempted = false ∧ (phased.slotAt 3 2).preempted = true ∧
    (phased.slotAt 3 2).state = .parked ∧ (phased.slotAt 3 2).wait = .phase 0x20400 false := by decide +kernel

/-- A place table of two entries: core 3, and none. -/
def placed (id : Word) : State := wide [(4, 77), (5, id)] [(0x110, 0x0040000000021000), (0x111, 0), (0x112, 1024)] [(0x21000, 4, 0x8003)]
theorem witness_RemoteWrites_send : readyB (placed 0) [.g 4, .g 5] = true ∧ readyB (placed 0) [.v 2, .g 5] = true ∧
    (((placed 0).seen [.g 4, .g 5]).placeOf 0 ((placed 0).me.csrv 0x110) 0 1024 (gv (placed 0) 5)).1 = some 3 ∧
    (((placed 1).seen [.g 4, .g 5]).placeOf 0 ((placed 1).me.csrv 0x110) 0 1024 (gv (placed 1) 5)).1 = none ∧
    (((placed 2).seen [.g 4, .g 5]).placeOf 0 ((placed 2).me.csrv 0x110) 0 1024 (gv (placed 2) 5)).1 = none := by decide +kernel
/-- A delivery from slot 7 of core 0 to g9 of slot 2 of core 3. -/
def sent (sl : Slot) : State :=
  let s := placed 0
  let t := (s.setMe { s.me with state := .parked, wait := .put }).setSlot 3 2 sl
  { t with putNet := [⟨0, 7, 0xFF, 3, 2, .g 9, 5, .full⟩] }
theorem witness_RemoteWrites_deliver : (sent .empty).putNet[0]? = some ⟨0, 7, 0xFF, 3, 2, .g 9, 5, .full⟩ ∧ 3 * 16 + 2 ≠ 0 * 16 + 7 ∧
    ((sent .empty).slotAt 3 2).state = .free ∧ ((sent { Slot.empty with state := .ready }).slotAt 3 2).preempted = false ∧
    ((sent { Slot.empty with state := .ready, preempted := true }).slotAt 3 2).preempted = true ∧
    ((sent .empty).slotAt 0 7).state = .parked ∧ ((sent .empty).slotAt 0 7).wait = .put := by decide +kernel

/-! ### Hypotheses that are met: CSRs, waits, engine registers, privileged instructions -/

theorem witness_CsrAccess_open : csrAccess 0x031 = some (0, some 1) ∧ 0 ≤ modeRank (machine 0xFF [] [] []).me.mode ∧
    1 ≤ modeRank (machine 0xFF [] [] []).me.mode ∧ csrSlot7 0x031 = false ∧ (0x031 : Nat) ≠ 0x013 := by decide +kernel
theorem witness_CsrAccess_shut : csrAccess 0x3FF = none ∧ modeRank State.reset.me.mode < 1 ∧ csrAccess 0x031 = some (0, some 1) ∧
    csrSlot7 0x050 = true ∧ ¬ (coreKind State.reset.curCore = .compute ∧ State.reset.curSlot = 7) ∧
    (csrAccess 0x050).isSome = true := by decide +kernel
theorem witness_CsrAccess_values : (1 : Word) ≠ 0 ∧ (1 : Word) < (fibre [] [(0x032, 9)]).me.csrv 0x032 ∧ (0xC : Word).extractLsb' 2 2 = 3 ∧
    State.reset.me.mode ≠ 3 ∧ (1 : Word).getLsbD 0 = true ∧ (State.reset.mxAt State.reset.curCore).held = none ∧ 63 < 64 := by decide
/-- A step of the matrix engine of core 0, of the thread in slot 7. -/
def aStep : MxStep := { who := (machine 0xFF [] [] []).who, regs := [0x0000000100000001, 0, 0, 0, 0, 0], a := 1, b := 0, started := true, index := 0, miss := none, places := [], got := [] }
/-- The engine holds, or performs, that step. -/
def stepping (r h : Option MxStep) : State :=
  (wide [(4, 1), (5, 0)] [] []).setMx 0 { MxCore.empty with running := r, held := h, chain := true, steps := [(0, 1)] }
theorem witness_CsrAccess_held : ((stepping none (some aStep)).mxAt (stepping none (some aStep)).curCore).held ≠ none := by decide +kernel

theorem witness_WaitHaltEmpty_wait : State.reset.transformSlot = false ∧ State.reset.me.waited = false ∧
    ((gv (fibre [(1, 3)] []) 1).getLsbD 0 = true) ∧ (fibre [(1, 3)] []).me.delivered = false ∧
    ((gv (fibre [(1, 4)] []) 1).getLsbD 2 = true) ∧ gv (fibre [(1, 4)] []) 2 ≤ (fibre [(1, 4)] []).time ∧
    ¬ gv (fibre [(1, 4), (2, 9)] []) 2 ≤ (fibre [(1, 4), (2, 9)] []).time ∧
    (State.reset.setMe { Slot.empty with resuming := true, wait := .event 1 0 false }).me.waited = true := by decide +kernel
/-- A transform thread whose queue word, in its core's LM, holds `v`. -/
def queued (v : Nat) : State :=
  (wide [(4, 2), (5, 0)] [(0x058, 0x0050010000010000)] []).poke 0x1000000000000 8 v
theorem witness_WaitHaltEmpty_queue : (queued 5).transformSlot = true ∧ (gv (queued 5) 4).getLsbD 1 = true ∧
    good ((queued 5).seen [.g 4, .g 5]).queueCheck (fun u => u.eventOver u.curCore u.curSlot 2 0) = true ∧
    good ((queued 4).seen [.g 4, .g 5]).queueCheck (fun u => !u.eventOver u.curCore u.curSlot 2 0) = true ∧
    good (queued 5).queueCheck (fun u => !u.busy u.curCore u.curSlot && u.queueEvent u.me) = true ∧
    good (queued 4).queueCheck (fun u => !u.busy u.curCore u.curSlot && !u.queueEvent u.me) = true := by decide +kernel
theorem witness_WaitHaltEmpty_halt : State.reset.busy State.reset.curCore State.reset.curSlot = false ∧
    (State.reset.setCmds .cp 0 0 [Cmd.start 2 State.reset.who 0 0 [] 1 0]).busy 0 0 = true := by decide +kernel
/-- Slot 1 of core 3 waits for far data at a page of tenant 0xFF. -/
def uses : State :=
  match farther.reach (farther.req .read 8) 0x40000000 with
  | .ok (a, _) => farther.setSlot 3 1 { Slot.empty with state := .parked, wait := .far 0x40000000 a.phys, kept := [a], lastIssue := some 0 }
  | .error _ => farther
theorem witness_WaitHaltEmpty_tlbinv : (machine 0xFF [] [] []).me.mode ≠ 0 ∧ ((3 : BitVec 2).toNat < 2 ∨ (machine 0xFF [] [] []).me.mode = 3) ∧
    readyB (machine 0xFF [] [] []) [.g 4] = true ∧ (machine 0xFF [] [] []).me.invalidated = false ∧
    (machine 0xFF [] [] []).users (invalidates 3 0xFF 0) = [] ∧ uses.users (invalidates 1 uses.me.tenant 0) = [(49, 0)] ∧
    uses.me.invalidated = false ∧ (∀ e ∈ (machine 0xFF [] [] []).slots, e.2.kept = []) ∧ State.reset.me.mode ≠ 3 ∧
    ((machine 0xFF [] [] []).setMe { (machine 0xFF [] [] []).me with resuming := true, wait := .tlb [] }).me.invalidated = true := by
  decide +kernel

theorem witness_EngineRegisters : (3 : BitVec 6).toNat ≠ engStat .cp ∧ (10 : BitVec 6).toNat = engStat .cp ∧
    (State.reset.erp .cp 0 0 3).2 = .full ∧ ((State.reset.setEr .cp 0 0 3 0 .void).erp .cp 0 0 3).2 = .void ∧
    ((State.reset.setEr .cp 0 0 3 0 .empty).erp .cp 0 0 3).2 = .empty ∧ good State.reset.mxTurn (fun _ => true) = true := by decide +kernel
theorem witness_EngineRegisters_held : (stepping (some aStep) none).mxTurn = .error (.park .mxHeld) := rfl
/-- `bs.get g1, 58`. -/
theorem witness_IllegalAndPrivileged_immediate : (match decode .compute 0x8010043A with | .error r => decide (r = .immediate 0x8010043A) | .ok _ => false) = true ∧
    Transform (machine 5 [] [] []) ∧ ¬ Transform State.reset := by unfold Transform; decide +kernel
theorem witness_IllegalAndPrivileged : (decode .pager 0xA0000000).toOption = none ∧ (decode .compute 0x00000000).toOption = none ∧
    State.reset.me.mode = 0 ∧ (fibre [] [(0, mkStatus 5 0 false 0 1)]).me.mode ≠ 3 ∧ 2 ≤ (2 : BitVec 2).toNat ∧
    ¬ (coreKind State.reset.curCore = .compute ∧ State.reset.curSlot = 7) := by decide +kernel

/-! ### Hypotheses that are met: the bit-buffer -/

/-- A transform thread with its input at the start of its LM, from bit `p` on of `n`, and its output behind it with `k` bits pending. -/
def streaming (p n k : Nat) : State :=
  (wide [(4, 0x10000010000), (5, 64), (6, 0x1234)] [(0x050, 0x10000010000), (0x051, word (n * 2 ^ 32 + p)),
    (0x052, word (k * 2 ^ 52 + 0x10000010100)), (0x053, 5)] []).poke 0x1000000000000 8 0x0123456789ABCDEF
theorem witness_BitBuffer : coreKind (streaming 0 64 3).curCore = .compute ∧ (streaming 0 64 3).curSlot = 7 ∧
    readyB (streaming 0 64 3) [.g 4, .g 5] = true ∧ (gv (streaming 0 64 3) 4).toNat % 8 = 0 ∧ (gv (wide [(4, 12)] [] []) 4).toNat % 8 ≠ 0 ∧
    good ((streaming 7 64 3).streamBits 7 57) (fun x => decide (x.1 = 0x0123456789ABCDEF / 2 ^ 7)) = true ∧
    good ((streaming 63 64 3).streamBits 63 57) (fun x => decide (x.1 = 0)) = true := by decide +kernel
theorem witness_BitBuffer_word : 0 < 57 ∧ (streaming 7 64 3).me.ipos % 64 + 57 ≤ 64 ∧ (streaming 7 64 3).me.ipos + 57 ≤ (streaming 7 64 3).me.ilen ∧
    [Presence.full, .void, .empty].all (fun p => let s := (streaming 7 64 3).setPres 0x1000000000000 p
      good (s.reach (s.req .read 8) (inVa s (s.me.ipos / 64))) (fun x => s.ownLm x.1.phys && decide (s.presAt x.1.phys = p))) = true := by
  decide +kernel
theorem witness_BitBuffer_two : 64 < (streaming 8 128 3).me.ipos % 64 + 57 ∧ (streaming 8 128 3).me.ipos + 57 ≤ (streaming 8 128 3).me.ilen ∧
    good ((streaming 8 128 3).reach ((streaming 8 128 3).req .read 8) (inVa (streaming 8 128 3) 0)) (fun x => (streaming 8 128 3).ownLm x.1.phys &&
      decide ((streaming 8 128 3).presAt x.1.phys = .full) &&
      good (x.2.reach ((streaming 8 128 3).req .read 8) (inVa (streaming 8 128 3) 1)) (fun y => (streaming 8 128 3).ownLm y.1.phys &&
        decide ((streaming 8 128 3).presAt y.1.phys = .full))) = true ∧ (streaming 64 64 3).me.ilen ≤ (streaming 64 64 3).me.ipos := by
  decide +kernel

/-- `Held`, as a Bool. -/
def heldB (s : State) (w : Who) (u : TlbUnit) (va : Word) (phys : Nat) : Bool :=
  decide (va.toNat < 2 ^ 52) && match (tlbPath u w.core).head? with
  | none => false
  | some k => match (tabGet [] s.tlb k.1).find? (fun p => p.covers w.tenant va.toNat) with
    | none => false
    | some p => (decide (p.tgt = 0) && isNear phys || decide (p.tgt = 2) && isLm phys) && !p.self && p.r && p.w && p.u &&
        decide (phys = p.base + va.toNat % 2 ^ p.bits)

theorem of_heldB {s : State} {w : Who} {u : TlbUnit} {va : Word} {phys : Nat} (h : heldB s w u va phys = true) : Held s w u va phys := by
  unfold heldB at h
  split at h
  · simp at h
  · rename_i k hk
    split at h
    · simp at h
    · rename_i p hp
      simp only [Bool.and_eq_true, Bool.or_eq_true, Bool.not_eq_true', decide_eq_true_eq] at h
      obtain ⟨h0, ⟨⟨⟨⟨⟨h1, h2⟩, h3⟩, h4⟩, h5⟩, h6⟩⟩ := h
      exact ⟨h0, k, hk, p, hp, h1, h2, h3, h4, h5, h6⟩

/-- `HeldWords`, as a Bool. -/
def heldWordsB (s : State) (w : Who) (u : TlbUnit) (va : Word) (n a : Nat) : Bool :=
  decide (va.toNat % 8 = 0) && (List.range n).all (fun i => heldB s w u (va + word (8 * i)) (a + 8 * i))
theorem of_heldWordsB {s : State} {w : Who} {u : TlbUnit} {va : Word} {n a : Nat} (h : heldWordsB s w u va n a = true) :
    HeldWords s w u va n a := by
  simp only [heldWordsB, Bool.and_eq_true, decide_eq_true_eq, List.all_eq_true, List.mem_range] at h
  exact ⟨h.1, fun i hi => of_heldB (h.2 i hi)⟩

/-- The state once a translation structure holds the pages of some addresses. -/
def warmed (s : State) (w : Who) (u : TlbUnit) (vas : List Word) : State :=
  vas.foldl (fun s va => match s.translate w u .read va with | .ok (_, _, t) => t | .error _ => s) s

/-- `Calm`, as a Bool. -/
def calmB (s : State) : Bool :=
  decide (s.dropping = []) && decide (s.recoloured = []) && decide (s.poison = []) && decide (s.quarantine = []) && decide (s.badHash = []) &&
    decide (s.badTags = [])
theorem of_calmB {s : State} (h : calmB s = true) : Calm s := by
  simpa [calmB, Calm, and_assoc] using h

/-- `streaming`, with the page of the LM held by the data TLB of the core. -/
def streamingHere (p n k : Nat) : State := warmed (streaming p n k) (streaming p n k).who .data [0x10000010000]
theorem witness_BitBuffer_here : [(0, 64, 7), (7, 64, 0), (64, 64, 63)].all (fun e => let s := streamingHere e.1 e.2.1 e.2.2
    calmB s && decide (s.me.kept = []) && decide (s.me.iaddr % 8 = 0) && heldB s s.who .data (inVa s 0) 0x1000000000000 &&
      s.ownLm 0x1000000000000 && decide (s.presAt 0x1000000000000 ≠ .empty) && heldB s s.who .data (word s.me.oaddr) 0x1000000000100 &&
      s.ownLm 0x1000000000100 && heldB s s.who .data (gv s 4) 0x1000000000000 && heldB s s.who .data (gv s 4 + 4) 0x1000000000004) = true ∧
    Transform (streamingHere 0 64 7) ∧ (gv (streamingHere 0 64 7) 4).toNat % 4 = 0 ∧ readyB (streamingHere 0 64 7) [.g 4, .g 5] = true := by
  unfold Transform; decide +kernel
theorem witness_BitBuffer_code : (gv (streaming 0 64 3) 4).toNat % 4 = 0 ∧
    good (((streaming 0 64 3).seen [.g 4]).streamBits 0 1) (fun x =>
      good (x.2.ownAccess .read 4 (gv (streaming 0 64 3) 4 + word (4 * x.1))) (fun y => decide (y.2.peek y.1 4 / 2 ^ 16 % 32 = 3))) = true ∧
    ¬ (1 ≤ 3 ∧ 3 ≤ (1 : BitVec 10).toNat) ∧ 1 ≤ 3 ∧ 3 ≤ (3 : BitVec 10).toNat := by decide +kernel
theorem witness_BitBuffer_put : (streaming 0 64 6).me.onum + 57 < 64 ∧ 64 ≤ (streaming 0 64 7).me.onum + 57 ∧ (streaming 0 64 0).me.onum = 0 ∧
    good (((streaming 0 64 7).seen [.g 6]).ownAccess .write 8 (word (streaming 0 64 7).me.oaddr)) (fun x =>
      good (x.2.ownAccess .write 8 (gv (streaming 0 64 7) 4)) (fun _ => true)) = true := by decide +kernel
/-! ### Hypotheses that are met: vector registers and vector memory -/

/-- v6 and v7 are sources and results; k1 selects lanes 0, 1 and 31. -/
def lanes (fpcsr : Word) (base : Word) : State :=
  let s := wide [(4, base), (5, 8)] [(0x012, fpcsr), (0x00D, 100)] [(0x20400, 64, 0x7F8000013F800000)]
  s.setMe (((s.me.wrV 6 (BitVec.ofNat 1024 0x7F80000100000063)).wrV 7 (BitVec.ofNat 1024 0x0000000200000001)).wrK 1 0x80000003)

theorem witness_VectorInteger : [0, 1, 2].all (fun e => decide (e ≠ (3 : BitVec 2)) && readyB (lanes 0 0x20400) (srcsV [.v 6, .v 7] 5 1) &&
    (actsOf (lanes 0 0x20400) 1 (8 * 2 ^ e.toNat)).length == 3 * (32 / (8 * 2 ^ e.toNat))) = true := by decide +kernel
theorem witness_VectorFloat : vFault (lanes 0x20 0) (actsOf (lanes 0x20 0) 1 32) (fun j => if j = 1 then flNV else 0) = some (0x10, 1) ∧
    vFault (lanes 0x10 0) (actsOf (lanes 0x10 0) 1 32) (fun j => if j = 31 then flNoNan else 0) = some (0x11, 31) ∧
    vFault (lanes 0 0) (actsOf (lanes 0 0) 1 32) (fun _ => flNV) = none ∧ ((1 : BitVec 2) = 1 ∨ (1 : BitVec 2) = 2) := by decide +kernel
theorem witness_FloatReduceAndTopK : bit ((lanes 0 0).me.csrv 0x012) 4 = false ∧ bit ((lanes 0 0).me.csrv 0x012) 5 = false ∧
    readyB (lanes 0 0) [.v 6, .v 7, .k 1] = true ∧ (∃ j ∈ actsOf (lanes 0 0) 1 32, (num (BitVec.ofNat 32 (el (lanes 0 0) 6 32 j))).isNan = false) ∧
    actsOf ((lanes 0 0).setMe ((lanes 0 0).me.wrK 1 0)) 1 32 = [] := by decide +kernel
theorem witness_VectorConvert : (11 : BitVec 4).toNat < 12 ∧ (0 : BitVec 4).toNat < 12 ∧ 1024 / max (vcvtClass 11) (vcvtClass 0) = 32 ∧
    readyB (lanes 0 0) (srcsV [.v 6] 5 1) = true ∧ (9 : BitVec 4) = 9 ∧ (8 : BitVec 4) = 8 ∧
    (List.range 32).filter (fun j => ((lanes 0 0).me.kv 1).getLsbD (32 * j / 32)) = [0, 1, 31] := by decide +kernel

/-- The active elements of an access pass their checks, with what a test asks of them and the state that they leave. -/
def allReach (s : State) (l : List Src) (acc : Access) (k : BitVec 3) (w : Nat) (addr : Nat → Word) (f : List ElemAt → State → Bool) : Bool :=
  readyB s l && decide (s.recoloured = []) && good ((s.seen l).accessAll acc (w / 8) ((actsOf s k w).map fun j => (j, addr j))) (fun x =>
    x.1.all (fun y => good (x.2.landed (s.req acc (w / 8)) y.acc [y.acc]) fun _ => true) && f x.1 x.2)
/-- No element lies in the far tier, in host memory or in a device window. -/
def inNear (xs : List ElemAt) : Bool := xs.all fun x => decide (x.acc.page.tgt = 0) && hasPres x.acc.phys

theorem witness_VectorMemory_contiguous : [8, 16, 32].all (fun w =>
    allReach (lanes 0 0x20400) (srcsV [.g 4] 5 1) .read 1 w (fun j => gv (lanes 0 0x20400) 4 + word (j * (w / 8)))
      (fun xs u => inNear xs && xs.all (fun y => !u.queuedBefore u.myPlace y.acc.phys && decide ((lanes 0 0x20400).presAt y.acc.phys = .full))) &&
    allReach (lanes 0 0x20400) [.g 4, .k 1, .v 6] .write 1 w (fun j => gv (lanes 0 0x20400) 4 + word (j * (w / 8))) (fun xs _ => inNear xs)) =
    true ∧ (gv (lanes 0 0x20400) 4).toNat % 128 = 0 ∧ (gv (lanes 0 0x20440) 4).toNat % 128 ≠ 0 ∧
    actsOf (lanes 0 0x20440) 1 32 ≠ [] := by decide +kernel
theorem witness_VectorMemory_indexed :
    allReach (lanes 0 0x20404) (srcsV [.g 4, .g 5] 5 1) .read 1 32 (fun j => gv (lanes 0 0x20404) 4 + word j * gv (lanes 0 0x20404) 5)
      (fun xs _ => inNear xs) = true ∧
    allReach (lanes 0 0x20404) (srcsV [.g 4, .v 7] 5 1) .read 1 32 (fun j => gv (lanes 0 0x20404) 4 + word (4 * el (lanes 0 0x20404) 7 32 j))
      (fun xs _ => inNear xs) = true ∧
    (∀ j ∈ actsOf (lanes 0 0x20404) 1 32, el (lanes 0 0x20404) 7 32 j < fld ((lanes 0 0x20404).me.csrv 0x00D) 0 32) ∧
    (actsOf (lanes 0 0x20404) 1 32).find? (fun j => decide (fld ((lanes 0 0x20404).me.csrv 0x00D) 0 32 ≤ el (lanes 0 0x20404) 6 32 j)) = some 1 := by
  decide +kernel
/-- The second word of the block is EMPTY, or VOID. -/
def holed (p : Presence) : State := (lanes 0 0x20400).setPres 0x20478 p
theorem witness_VectorMemory_sync : [Presence.empty, .void].all (fun p =>
    allReach (holed p) (srcsV [.g 4] 5 1) .read 1 32 (fun j => gv (holed p) 4 + word (j * 4)) (fun xs u => inNear xs &&
      xs.all (fun y => !u.queuedBefore u.myPlace (y.acc.phys / 8 * 8)) && (decide (p = .empty) == (xs.any fun x => decide ((holed p).presAt x.acc.phys = .empty))))) =
    true := by decide +kernel

/-! ### Hypotheses that are met: frames of registers and memory -/

theorem witness_RegisterFrame_parks : scalarForm (.add 1 5 2) = some ([.g 5, .g 2], [.g 1]) ∧
    [Src.g 5, .g 2].find? (fun x => decide ((State.reset.setMe (Slot.empty.setG 5 7 .empty)).me.presOf x = .empty)) = some (.g 5) := by decide
theorem witness_RegisterFrame : scalarForm (.add 1 2 3) = some ([.g 2, .g 3], [.g 1]) ∧ (∃ t, exec (.add 1 2 3) State.reset = .next t) ∧
    vectorForm (.vadd 1 2 3 0 2) = some [.v 1] ∧ ∃ t, exec (.vadd 1 2 3 0 2) State.reset = .next t := ⟨rfl, ⟨_, rfl⟩, rfl, ⟨_, rfl⟩⟩
theorem witness_MemoryFrame : (memForm (near .full 5 0) (.st 6 4 0 0 3 0)).isSome = true ∧
    (nextOf (exec (.st 6 4 0 0 3 0) (near .full 5 0))).isSome = true ∧
    (vectorMemForm (lanes 0 0x20400) (.vst 6 4 1 2)).isSome = true ∧
    (nextOf (exec (.vst 6 4 1 2) (lanes 0 0x20400))).isSome = true := by decide +kernel
/-! ### Hypotheses that are met: the frame engine -/

/-- A context header. -/
def aHead : CtxHead :=
  { major := 1, minor := 0, ctx := 1, nextpos := 100, fmax := 8, hiwater := 2, ffree := 0, pool := 0x50000, plen := 16, bsize := 64,
    bfree := 0xFFFFFFFF, bhi := 1, kvfmt := 0, soff := 0, res := 0 }
/-- A root with one child, which holds positions 0 to 9 in block 0. -/
def aRoot : Frame :=
  { parent := 0, depth := 1, sealed := true, spec := false, inherit := false, pinned := false, ref := 2, nscope := 0, nargs := 0, base := 0,
    length := 40, capacity := 50, cut := noCut, btab := 0x48000, e := 4, bcount := 0, scope := padScope [] }
def aChild : Frame :=
  { parent := 1, depth := 2, sealed := false, spec := true, inherit := false, pinned := false, ref := 1, nscope := 0, nargs := 0, base := 0,
    length := 10, capacity := 40, cut := noCut, btab := 0x49000, e := 4, bcount := 1, scope := padScope [] }
/-- A push block of a legal frame of 8 positions, whose first argument is the span [0, 4). -/
def aBlock : Nat := 8 + 0x4A000 * 2 ^ 64 + 2 * 2 ^ 128 + 4 * 2 ^ 224
/-- The words of an `n`-word structure that are not 0. -/
def cellsAt (a n v : Nat) : List (Nat × Nat × Nat) :=
  ((List.range n).map fun i => (a + 8 * i, 8, v / 2 ^ (64 * i) % 2 ^ 64)).filter fun c => decide (c.2.2 ≠ 0)
/-- Two more children: one with all its references and no block, and a deep one that is cut. -/
def aBusy : Frame := { aChild with depth := 3, ref := 255, bcount := 0 }
def aDeep : Frame := { aChild with depth := 15, cut := 8 }
/-- The memory of `wide` with the header, the four frames, the push block, the same with its argument, and block 0 in it. -/
def frameMem : List Host.Cell :=
  [(0x10000, 0x11), (0x10001, 0x80), (0x10002, 0x1), (0x10008, 0x1), (0x1000A, 0x3), (0x18000, 0x1F), (0x18008, 0x3F),
   (0x18010, 0xBF), (0x18011, 0x80), (0x30000, 0x1), (0x30001, 0x80), (0x30002, 0x3), (0x38000, 0xDF), (0x38008, 0x5F),
   (0x40000, 0x1), (0x40004, 0x1), (0x40008, 0x64), (0x4000E, 0x8), (0x40010, 0x2), (0x4001A, 0x5), (0x40020, 0x10),
   (0x40024, 0x40), (0x40028, 0xFF), (0x40029, 0xFF), (0x4002A, 0xFF), (0x4002B, 0xFF), (0x4002C, 0x1), (0x40082, 0x11),
   (0x40083, 0x2), (0x40089, 0x28), (0x4008B, 0x20), (0x4008C, 0x3), (0x4008E, 0xFF), (0x4008F, 0xFF), (0x40090, 0xF),
   (0x40091, 0x12), (0x40096, 0x1), (0x40100, 0x1), (0x40102, 0x22), (0x40103, 0x1), (0x40109, 0xA), (0x4010B, 0x80),
   (0x4010C, 0x2), (0x4010E, 0xFF), (0x4010F, 0xFF), (0x40110, 0x4F), (0x40111, 0x12), (0x40116, 0x5), (0x40180, 0x1),
   (0x40182, 0x23), (0x40183, 0xFF), (0x40189, 0xA), (0x4018B, 0x80), (0x4018C, 0x2), (0x4018E, 0xFF), (0x4018F, 0xFF),
   (0x40190, 0x4F), (0x40191, 0x12), (0x40196, 0x1), (0x40200, 0x1), (0x40202, 0x2F), (0x40203, 0x1), (0x40209, 0xA),
   (0x4020B, 0x80), (0x4020C, 0x2), (0x4020E, 0x8), (0x40210, 0x40), (0x40211, 0x12), (0x40216, 0x5), (0x42000, 0x8),
   (0x42009, 0xA0), (0x4200A, 0x4), (0x42010, 0x2), (0x4201C, 0x4), (0x42040, 0x8), (0x42045, 0x1), (0x42049, 0xA0),
   (0x4204A, 0x4), (0x42050, 0x2), (0x4205C, 0x4), (0x50000, 0x1), (0x50004, 0x2), (0x50006, 0xA)]
theorem test_frame_memory : (wide [] [] (cellsAt 0x40000 16 aHead.toNat ++ cellsAt 0x40080 16 aRoot.toNat ++
    cellsAt 0x40100 16 aChild.toNat ++ cellsAt 0x40180 16 aBusy.toNat ++ cellsAt 0x40200 16 aDeep.toNat ++ cellsAt 0x42000 8 aBlock ++
    cellsAt 0x42040 8 (aBlock + 2 ^ 40) ++ [(0x50000, 8, 1 + 2 * 2 ^ 32 + 10 * 2 ^ 48)])).mem = frameMem := by decide +kernel
/-- A thread on these frames, with `x` in g4. -/
def framed (fp fd fsl x : Word) : State :=
  { wide [(4, x), (5, 12)] [(0x020, fp), (0x021, fd), (0x022, fsl), (0x023, 1), (0x024, 0x40000)] [] with mem := frameMem }

/-- A push block of `s` at gA is read and legal, and so is the context. -/
def pushRead (s : State) (f : Nat → CtxHead → State → Bool) : Bool :=
  good (s.engBlock s.who s.frUnit (gv s 4) 8) fun x => decide (pushLow (wordsNat x.1) = none) &&
    good (x.2.btabNear s.who s.frUnit (word (nf (wordsNat x.1) 64 64))) fun t => decide (pushHigh (wordsNat x.1) = none) &&
      good (t.head s.who s.frUnit) fun y => f (wordsNat x.1) y.1 y.2

theorem witness_FrameStack_root : readyB (framed 0 0 15 0x42000) [.g 4] = true ∧
    pushRead (framed 0 0 15 0x42000) (fun v h u => decide ((framed 0 0 15 0x42000).me.fd = 0) &&
      decide (h.nextpos + nf v 0 32 < 2 ^ 32) && decide (nf v 40 8 = 0) && good (u.takeRecord (framed 0 0 15 0x42000).who (framed 0 0 15 0x42000).frUnit h)
        fun x => good (x.2.2.putFrame (framed 0 0 15 0x42000).who (framed 0 0 15 0x42000).frUnit x.1 (newFrame v 0 1 h.nextpos [])) fun t =>
          good (t.putHead (framed 0 0 15 0x42000).who (framed 0 0 15 0x42000).frUnit { x.2.1 with nextpos := h.nextpos + nf v 0 32 }) fun _ => true) = true := by
  decide +kernel
theorem witness_FrameStack_child : pushRead (framed 1 1 15 0x42040) (fun v h u =>
    good (u.live (framed 1 1 15 0x42040).who (framed 1 1 15 0x42040).frUnit h 1) fun p => decide (p.1.depth < 15) && decide (p.1.ref < 255) &&
      decide (p.1.length + nf v 0 32 ≤ p.1.capacity) && (pushSpans v).all (fun e => spanSeen p.1 e.1 e.2) && decide (nf v 32 1 = 0) &&
      decide ((pushSpans v).length ≤ 16) && good (p.2.takeRecord (framed 1 1 15 0x42040).who (framed 1 1 15 0x42040).frUnit h) fun x =>
        good (x.2.2.putFrame (framed 1 1 15 0x42040).who (framed 1 1 15 0x42040).frUnit x.1 (newFrame v 1 2 40 (pushSpans v))) fun t =>
          good (t.putFrame (framed 1 1 15 0x42040).who (framed 1 1 15 0x42040).frUnit 1 { p.1 with length := p.1.length + nf v 0 32, ref := p.1.ref + 1, sealed := true })
            fun t => good (t.putHead (framed 1 1 15 0x42040).who (framed 1 1 15 0x42040).frUnit x.2.1) fun _ => true) = true := by decide +kernel
theorem witness_FrameStack_full : pushRead (framed 1 1 1 0x42000) (fun _ h u =>
    good (u.live (framed 1 1 1 0x42000).who (framed 1 1 1 0x42000).frUnit h 1) fun p => decide (p.1.ref < 255)) = true ∧
    pushRead (framed 3 1 2 0x42000) (fun _ h u =>
      good (u.live (framed 3 1 2 0x42000).who (framed 3 1 2 0x42000).frUnit h 3) fun p => decide (p.1.ref = 255) && decide (p.1.depth < 15)) = true ∧
    pushRead (framed 4 1 2 0x42000) (fun _ h u =>
      good (u.live (framed 4 1 2 0x42000).who (framed 4 1 2 0x42000).frUnit h 4) fun p => decide (p.1.depth = 15)) = true := by decide +kernel

/-- A pop of `k` positions by slot `s` does each of its parts. -/
def pops (s : State) (k : Nat) : Bool := good (s.head s.who s.frUnit) fun x => good (x.2.live s.who s.frUnit x.1 s.me.fp) fun c =>
  decide (2 ≤ s.me.fd.toNat) && decide (c.1.ref = 1) && good (c.2.live s.who s.frUnit x.1 (word c.1.parent)) fun p =>
    decide (k ≤ min c.1.length c.1.cut) && (decide (k = 0) || decide (p.1.nscope < 16)) &&
    good (p.2.blocks s.who s.frUnit c.1 0 c.1.bcount) fun l => good (l.2.splitBlocks s.who s.frUnit x.1 (c.1.base + min c.1.length c.1.cut - k)
      (c.1.base + min c.1.length c.1.cut) l.1) fun b => decide (p.1.bcount + b.1.length ≤ min (2 ^ p.1.e) 16383) &&
        good (b.2.2.putTable s.who s.frUnit p.1 p.1.bcount b.1) fun t => good (t.freeBlocks s.who s.frUnit x.1 b.2.1) fun d =>
          good (d.2.freeRecord s.who s.frUnit d.1 s.me.fp.toNat c.1) fun e => good (e.2.putFrame s.who s.frUnit c.1.parent p.1) fun t =>
            good (t.putHead s.who s.frUnit e.1) fun _ => true
theorem witness_FrameStack_pop : pops (framed 2 2 15 4) 4 = true ∧ pops (framed 2 2 15 0) 0 = true ∧
    pops (framed 2 2 15 10) 10 = true ∧ (framed 1 1 15 0).me.fd.toNat < 2 ∧ min 10 noCut < 11 ∧
    good ((framed 1 2 15 0).head (framed 1 2 15 0).who (framed 1 2 15 0).frUnit) (fun x =>
      good (x.2.live (framed 1 2 15 0).who (framed 1 2 15 0).frUnit x.1 1) fun c => decide (c.1.ref ≠ 1)) = true := by decide +kernel
theorem witness_FrameStack_enter : good ((framed 0 0 15 1).head (framed 0 0 15 1).who (framed 0 0 15 1).frUnit) (fun x =>
      good (x.2.live (framed 0 0 15 1).who (framed 0 0 15 1).frUnit x.1 1) fun f => decide (f.1.ref < 255) && decide (word f.1.parent ≠ 1) &&
        good (f.2.putFrame (framed 0 0 15 1).who (framed 0 0 15 1).frUnit 1 { f.1 with ref := f.1.ref + 1, sealed := true }) fun _ => true) = true ∧
    good ((framed 1 1 15 3).head (framed 1 1 15 3).who (framed 1 1 15 3).frUnit) (fun x =>
      good (x.2.live (framed 1 1 15 3).who (framed 1 1 15 3).frUnit x.1 3) fun f => decide (f.1.ref = 255) && decide (word f.1.parent = 1)) = true := by
  decide +kernel
/-- A leave of the frame in FP at depth `s.me.fd`; at depth 2 and more its parent must be live, and is unsealed. -/
def leaves (s : State) : Bool := good (s.head s.who s.frUnit) fun x => good (x.2.live s.who s.frUnit x.1 s.me.fp) fun f =>
  decide (s.me.fd ≠ 0) && (decide (s.me.fd = 1) || decide (f.1.parent = 0) || good (f.2.live s.who s.frUnit x.1 (word f.1.parent)) fun _ => true) &&
  good ((if s.me.fd = 1 then .ok (f.1, f.2) else f.2.live s.who s.frUnit x.1 (word f.1.parent)) >>= fun p =>
    p.2.dropRef s.who s.frUnit x.1 s.me.fp.toNat (x.1.fmax + 1)) fun y =>
      good (y.2.putHead s.who s.frUnit y.1) fun t => decide (s.me.fd = 1) || good (t.unseal s.who s.frUnit f.1.parent) fun _ => true
theorem witness_FrameStack_leave : leaves (framed 2 2 15 0) = true ∧ leaves (framed 1 1 15 0) = true ∧
    (let s := (framed 2 2 15 0).poke 0x40082 1 0x10
     good (s.head s.who s.frUnit) fun x => good (x.2.live s.who s.frUnit x.1 2) fun f =>
      match f.2.live s.who s.frUnit x.1 (word f.1.parent) with | .error (.trap 0x35 _) => true | _ => false) = true := by
  decide +kernel

/-- The live frame that FP names in `s`, with its context header. -/
def onFrame (s : State) (f : CtxHead → Frame → State → Bool) : Bool :=
  good (s.head s.who s.frUnit) fun x => good (x.2.live s.who s.frUnit x.1 s.me.fp) fun y => f x.1 y.1 y.2

theorem witness_FrameContents_append : onFrame (framed 3 2 15 30) (fun h x u =>
    !x.sealed && decide (x.length + 30 ≤ x.capacity) && decide (x.bcount = 0) && decide (x.bcount + 1 ≤ min (2 ^ x.e) 16383) &&
      good (u.appendBlocks (framed 3 2 15 30).who (framed 3 2 15 30).frUnit x 3 1 (x.base + x.length) h 30 0 1) fun y =>
        good (y.2.putFrame (framed 3 2 15 30).who (framed 3 2 15 30).frUnit 3 { x with length := 40, bcount := 1 }) fun t =>
          good (t.putHead (framed 3 2 15 30).who (framed 3 2 15 30).frUnit y.1) fun _ => true) = true := by decide +kernel
theorem witness_FrameContents_room : onFrame (framed 2 2 15 30) (fun h x u =>
    !x.sealed && decide (x.length + 30 ≤ x.capacity) && decide (x.bcount ≠ 0) && decide (x.bcount ≤ min (2 ^ x.e) 16383) &&
      good (u.tableAt (framed 2 2 15 30).who (framed 2 2 15 30).frUnit x (x.bcount - 1)) fun y =>
        good (y.2.ctxRead (framed 2 2 15 30).who (framed 2 2 15 30).frUnit (blockAddr h y.1) 8) fun p =>
          good (p.2.ctxRead (framed 2 2 15 30).who (framed 2 2 15 30).frUnit (blockAddr h y.1 + 8) 8) fun q =>
            decide (nf p.1 32 16 = 2) && decide (nf q.1 0 32 + nf p.1 48 16 = x.base + x.length) && decide (nf p.1 48 16 + 30 ≤ 64) &&
              good (q.2.ctxWrite (framed 2 2 15 30).who (framed 2 2 15 30).frUnit (blockAddr h y.1) 8 (p.1 + 30 * 2 ^ 48)) fun t =>
                good (t.putFrame (framed 2 2 15 30).who (framed 2 2 15 30).frUnit 2 { x with length := 40 }) fun t =>
                  good (t.putHead (framed 2 2 15 30).who (framed 2 2 15 30).frUnit h) fun _ => true) = true := by decide +kernel
theorem witness_FrameContents_faults : onFrame (framed 1 1 15 0) (fun _ x _ => x.sealed && !x.spec) = true ∧
    onFrame (framed 2 2 15 31) (fun _ x _ => !x.sealed && decide (x.capacity < x.length + 31)) = true ∧
    good ((framed 0 0 15 0).head (framed 0 0 15 0).who (framed 0 0 15 0).frUnit) (fun _ => true) = true := by decide +kernel
theorem witness_FrameContents_cut : readyB (framed 2 2 15 0) [.g 4, .g 5] = true ∧
    onFrame (framed 2 2 15 0) (fun _ x u => x.spec && decide (10 ≤ x.length) && decide (x.length < 12) && decide (x.cut = noCut) &&
      good (u.putFrame (framed 2 2 15 0).who (framed 2 2 15 0).frUnit 2 { x with cut := 10, pinned := true, sealed := true }) fun _ => true) = true ∧
    onFrame (framed 4 2 15 0) (fun _ x _ => x.spec && decide (x.cut ≠ noCut) && decide (x.cut ≤ 10) &&
      decide (7 < x.cut)) = true := by decide +kernel

/-- `framed`, with a child without blocks in record 5, a root without blocks in record 6, and the translations of all its memory held by
the die's structure. -/
def framedHere (fp fd fsl x : Word) : State :=
  let s := framed fp fd fsl x
  let s := (cellsAt 0x40280 16 { aChild with bcount := 0 }.toNat ++ cellsAt 0x40300 16 { aRoot with ref := 1 }.toNat).foldl
    (fun s c => s.poke c.1 c.2.1 c.2.2) s
  warmed (warmed s s.who .die [0x40000]) s.who s.frUnit [0x40000]
/-- `Context`, as a Bool, at 0x40000. -/
def contextB (s : State) : Bool :=
  let h := CtxHead.ofNat (s.peek 0x40000 128)
  calmB s && decide (s.who.ftb ≠ 0) && heldB s s.who .die s.who.ftb 0x40000 && heldWordsB s s.who s.frUnit s.who.ftb (16 * (h.fmax + 1)) 0x40000 &&
    decide (h = aHead) && decide (h.major = 1) && decide (h.ctx = fld s.who.ctxid 0 20) && decide (h.res = 0)
theorem of_contextB {s : State} (h : contextB s = true) : Context s aHead 0x40000 := by
  simp only [contextB, Bool.and_eq_true, decide_eq_true_eq] at h
  obtain ⟨⟨⟨⟨⟨⟨⟨h1, h2⟩, h3⟩, h4⟩, h5⟩, h6⟩, h7⟩, h8⟩ := h
  rw [h5] at h4 h6 h7 h8
  exact ⟨of_calmB h1, h2, of_heldB h3, of_heldWordsB h4, h5.symm, h6, h7, h8⟩
/-- `LiveAt`, in the context at 0x40000, with a test of the frame. -/
def liveB (s : State) (i : Word) (f : Frame → Bool) : Bool :=
  decide (i ≠ 0) && decide (i.toNat ≤ aHead.fmax) && decide ((frameAt s 0x40000 i.toNat).depth ≠ 0) && f (frameAt s 0x40000 i.toNat)
theorem witness_FrameStack_context : contextB (framedHere 0 0 15 0x42000) = true := by decide +kernel
theorem witness_FrameStack_push : let s := framedHere 0 0 15 0x42000
    readyB s [.g 4] = true ∧ heldB s s.who s.frUnit (gv s 4) 0x42000 = true ∧ (gv s 4).toNat % 64 = 0 ∧ pushLow (s.peek 0x42000 64) = none ∧
    pushHigh (s.peek 0x42000 64) = none ∧ heldB s s.who s.frUnit (word (nf (s.peek 0x42000 64) 64 64)) 0x4A000 = true ∧ isNear 0x4A000 = true ∧
    s.me.fd = 0 ∧ aHead.nextpos + nf (s.peek 0x42000 64) 0 32 < 2 ^ 32 ∧ nf (s.peek 0x42000 64) 40 8 = 0 ∧ aHead.ffree = 0 ∧
    aHead.hiwater < aHead.fmax := by decide +kernel
theorem witness_FrameStack_completes : contextB (framedHere 5 2 15 0) = true ∧ liveB (framedHere 5 2 15 0) 5 (fun f => decide (f.ref = 1) &&
      decide (f.bcount = 0) && liveB (framedHere 5 2 15 0) (word f.parent) fun p => decide (p.bcount ≤ min (2 ^ p.e) 16383) &&
        decide (word f.parent ≠ 5)) = true ∧
    contextB (framedHere 0 0 1 1) = true ∧ liveB (framedHere 0 0 1 1) 1 (fun f => decide (f.ref < 255)) = true ∧
    contextB (framedHere 1 14 15 4) = true ∧ liveB (framedHere 1 14 15 4) 4 (fun f => decide (word f.parent = 1) && decide (f.ref < 255)) = true ∧
    contextB (framedHere 1 1 15 0) = true ∧ liveB (framedHere 1 1 15 0) 1 (fun f => decide (1 < f.ref)) = true ∧
    contextB (framedHere 6 1 15 0) = true ∧ liveB (framedHere 6 1 15 0) 6 (fun f => decide (f.ref ≤ 1) && decide (f.bcount = 0) &&
      decide (f.parent = 0)) = true := by decide +kernel
/-- A thread whose frame table has no page. -/
theorem witness_FrameStack_miss : let s := machine 0xFF [] [(0x024, 0xC0000000)] []
    s.me.resuming = false ∧ (match s.head s.who s.frUnit with | .error (.miss m) => decide (m.stage < 16) | _ => false) = true := by
  decide +kernel
theorem witness_FrameContents_completes : let s := framedHere 2 2 15 10
    contextB s = true ∧ readyB s [.g 0, .g 4] = true ∧ liveB s 2 (fun f => f.spec && decide ((gv s 4).toNat ≤ f.length) && decide (f.cut = noCut)) =
      true ∧ contextB (framedHere 3 2 15 30) = true := by decide +kernel
theorem witness_FrameContents_first : let s := framedHere 3 2 15 30
    liveB s 3 (fun f => !f.sealed && decide (f.length + 30 ≤ f.capacity) && decide (f.base + f.length < 2 ^ 32) && decide (f.bcount = 0) &&
      heldB s s.who s.frUnit (word f.btab) 0x49000) = true ∧ s.me.fd ≠ 0 ∧ (gv s 4).toNat = 30 ∧ aHead.bfree = 0xFFFFFFFF ∧
    aHead.bhi < aHead.plen ∧ heldWordsB s s.who s.frUnit (blockAddr aHead aHead.bhi) 8 0x50040 = true ∧
    apart [(0x40000, 128 * (aHead.fmax + 1))] [(0x50040, 64), (0x49000, 4)] = true ∧ apart [(0x50040, 64)] [(0x49000, 4)] = true := by
  decide +kernel

/-! ### Hypotheses that are met: commands of the engines -/

/-- The page tables of `wide` alone. -/
def tables : List Host.Cell :=
  [(0x10000, 0x11), (0x10001, 0x80), (0x10002, 0x1), (0x10008, 0x1), (0x1000A, 0x3), (0x18000, 0x1F), (0x18008, 0x3F),
   (0x18010, 0xBF), (0x18011, 0x80), (0x30000, 0x1), (0x30001, 0x80), (0x30002, 0x3), (0x38000, 0xDF), (0x38008, 0x5F)]
/-- `wide` with given cells above its page tables, and engine registers. -/
def bare (regs : List (BitVec 5 × Word)) (csrs : List (Nat × Word)) (cells : List Host.Cell) (k : EngKind) (er : List (Nat × Word)) : State :=
  let s := { wide regs csrs [] with mem := tables ++ cells }
  er.foldl (fun t e => t.setEr k (s.myCtx k).1 (s.myCtx k).2 e.1 e.2 .full) s

/-- The record of tenant 3 at 0x40180: region 0 to 3, queue 0, reports at 0x45000, a supervisor block of zeros at 0x44080. -/
def tenantMem : List Host.Cell :=
  [(0x40180, 1), (0x40184, 1), (0x40185, 1), (0x4018A, 4), (0x401C1, 0x50), (0x401C2, 4), (0x401C8, 0x40), (0x401D8, 0x10),
   (0x401E0, 0x80), (0x401E1, 0x40), (0x401E2, 4)]
/-- A launch record of two fibres at 0x44000, and one whose LM size is 0 at 0x44200. -/
def recordMem : List Host.Cell :=
  [(0x44000, 1), (0x44010, 2), (0x44012, 1), (0x44014, 1), (0x44016, 1), (0x44018, 8), (0x44021, 0x10), (0x44200, 1), (0x44210, 2),
   (0x44212, 1), (0x44214, 1), (0x44216, 1)]
/-- Tenant 3 exists. -/
def tenanted (s : State) : State := { s with pcsr := [(0x113, 0x40000)], tenants := [(3, { Tenant.empty with enabled := true, installed := true })] }
/-- A thread of tenant 3 with a record at `ra`, queue `q` and REGION. -/
def launching (ra q region : Word) : State :=
  tenanted (bare [(4, ra), (5, q)] [(0, mkStatus 3 7 false 0 1), (0x080, 0x10000), (0x104, 0x10000)] (tenantMem ++ recordMem) .ln [(0, region)])
/-- The launch record and the supervisor block are read, with what a test asks of the record. -/
def recordRead (s : State) (f : Nat → Bool) : Bool :=
  good (s.recordWords (gv s 4)) fun x => good (x.2.ctxWords (s.me.spaceWho s.curCore s.curSlot) .data (recBlock (s.tenantRec 3)) 16) fun _ =>
    f (wordsNat x.1)

theorem witness_LaunchCommands : readyB (launching 0x44000 0 0x200000000) [.g 4, .g 5] = true ∧
    (launching 0x44000 0 0x200000000).me.tenant.toNat = 3 ∧ governs (launching 0x44000 0 0x200000000) = true ∧
    recordRead (launching 0x44000 0 0x200000000) (fun r => decide (recordBad r = none) && decide (bytesAt r 80 8 = 0) &&
      !(bytesAt r 4 4).testBit 1) = true ∧
    recQueue ((launching 0x44000 0 0x200000000).tenantRec 3) 0 = true ∧
    recBase ((launching 0x44000 0 0x200000000).tenantRec 3) ≤ fld 0x200000000 0 10 ∧ fld 0x200000000 32 11 ≠ 0 ∧
    fld 0x200000000 0 10 + fld 0x200000000 32 11 ≤ recBase ((launching 0x44000 0 0x200000000).tenantRec 3) +
      recLen ((launching 0x44000 0 0x200000000).tenantRec 3) := by decide +kernel
theorem witness_LaunchCommands_refused : governs State.reset = false ∧ governs (launching 0x44040 0 0) = true ∧ (0x44040 : Nat) % 128 ≠ 0 ∧
    recQueue ((launching 0x44000 1 0).tenantRec 3) 1 = false ∧
    recordRead (launching 0x44200 0 0) (fun r => decide (recordBad r = some 24)) = true ∧
    recBase ((launching 0 0 0).tenantRec 3) + recLen ((launching 0 0 0).tenantRec 3) < fld 0x300000003 0 10 + fld 0x300000003 32 11 := by
  decide +kernel
/-- A launch of two fibres of which `b` are bound and `n` of them have left. -/
def aLaunch (b n : Nat) : Launch :=
  { launchOf (1 + 2 * 2 ^ 128 + 2 ^ 144 + 2 ^ 160 + 2 ^ 176 + 8 * 2 ^ 192 + 0x1000 * 2 ^ 256) 0 0 5 0x100000000 State.reset.who Slot.empty with
    next := b, left := n, first := if b = 0 then none else some 0 }
/-- A queue of tenant 3 that holds launches. -/
def loaded (l : List Launch) (s : State) : State := s.setQueue 3 0 { Queue.empty with launches := l, since := some 0 }
theorem witness_LaunchCommands_full : Config.queueDepth ≤
    ((loaded (List.replicate Config.queueDepth (aLaunch 0 0)) (launching 0x44000 0 0)).queueAt 3 0).launches.length := by decide +kernel
/-- `launching`, with the pages of the record and of the supervisor block held by the core's data TLB. -/
def launchingHere (ra q region : Word) (cells : List (Nat × Nat × Nat)) : State :=
  let s := cells.foldl (fun s c => s.poke c.1 c.2.1 c.2.2) (launching ra q region)
  warmed s s.who .data [0x44000]
theorem witness_LaunchCommands_completes : [[], [(0x44050, 8, 0x44280), (0x44280, 8, 0x0100000000000001)]].all (fun cells =>
    let s := launchingHere 0x44000 0 0x300000001 cells
    readyB s [.g 4, .g 5] && calmB s && decide (s.me.kept = []) && governs s && decide ((gv s 4).toNat % 128 = 0) &&
      heldB s s.who .data (gv s 4) 0x44000 && heldWordsB s (s.me.spaceWho s.curCore s.curSlot) .data (recBlock (s.tenantRec 3)) 16 0x44080 &&
      recQueue (s.tenantRec 3) 0 && decide ((s.queueAt 3 0).launches.length < Config.queueDepth) && decide (recordBad (s.peek 0x44000 128) = none) &&
      !(bytesAt (s.peek 0x44000 128) 4 4).testBit 1 && (decide (bytesAt (s.peek 0x44000 128) 80 8 = 0) ||
        decide (bytesAt (s.peek 0x44000 128) 80 8 % 8 = 0) && heldB s s.who .data (word (bytesAt (s.peek 0x44000 128) 80 8)) 0x44280 &&
          decide (s.presAt 0x44280 = .full) && decide (s.peek 0x44280 8 < 2 ^ 57)) &&
      decide ((s.erp .ln (s.myCtx .ln).1 (s.myCtx .ln).2 0).1 = 0x300000001) && decide (recBase (s.tenantRec 3) ≤ 1) &&
      decide (1 + 3 ≤ recBase (s.tenantRec 3) + recLen (s.tenantRec 3))) = true := by decide +kernel
/-- A launch with FRAME from frame 1 of the context at 0x40000, with the tenants' records at 0x60000. -/
def launchingFrame : State :=
  let s := tenanted { wide [(4, 0x44000), (5, 0)] [(0, mkStatus 3 7 false 0 1), (0x080, 0x10000), (0x104, 0x10000), (0x020, 1), (0x021, 1),
    (0x022, 15), (0x023, 1), (0x024, 0x40000)] [] with mem := frameMem }
  let cells := tenantMem.map (fun e => (e.1 + 0x20000, e.2)) ++ recordMem ++ [(0x44004, 2), (0x44008, 1)]
  { cells.foldl (fun s c => s.poke c.1 1 c.2.toNat) s with pcsr := [(0x113, 0x60000)] }
theorem witness_LaunchCommands_frame : let s := launchingFrame
    governs s = true ∧ recordRead s (fun r => decide (recordBad r = none) && (bytesAt r 4 4).testBit 1 &&
      good (s.frameLaunch s.who s.frUnit (s.me.seen [.g 4, .g 5]) (bytesAt r 8 4) 2) fun _ => true) = true := by decide +kernel
theorem witness_LaunchCommands_others : (machine 3 [(4, 15)] [] []).me.mode ≠ 0 ∧ (gv (machine 3 [(4, 15)] [] []) 4).toNat < 16 ∧
    16 ≤ (gv (machine 3 [(4, 16)] [] []) 4).toNat ∧ (gv (machine 3 [(4, 7)] [] []) 4).toNat < 8 ∧
    ((machine 3 [(4, 7)] [] []).queueAt 3 7).launches = [] ∧ readyB (machine 3 [(4, 7)] [] []) [.g 4] = true := by
  decide +kernel

/-- Attention queries of one row of 64 elements are latched; the one block at 0x50000 holds no position; tree masks at 0x51000. -/
def attending (cmds : List Cmd) : State :=
  let s := bare [(4, 1), (5, 2), (6, 0x51000)] [] [(0x5000C, 1), (0x50010, 0x40), (0x51000, 1), (0x51008, 3)] .at
    [(0, 0x11001), (1, 0x52000), (3, 1), (5, 0x50000), (6, 0x410000000001), (8, 0x53000), (9, 0x53000), (10, 0x54000)]
  (s.setAt 0 0 { AtCtx.empty with latched := true, rows := 1, d := 64, triples := [.masked 64], q := [[]] }).setCmds .at 0 0 cmds
/-- The registers of that context. -/
def atRegs : List Word := (attending []).snap .at 0 0 12
theorem witness_AttentionCommands : (attending []).myCtx .at = (0, 0) ∧ [0, 1, 2, 3, 4, 5, 6, 7, 8, 9, 10, 11].all (atRegOk atRegs) = true ∧
    good ((attending []).atSpace (0, 0)) (fun _ => true) = true ∧ good ((attending []).atCheck (0, 0) atRegs) (fun _ => true) = true ∧
    reg atRegs 3 ≠ 0 ∧ (reg atRegs 4).toNat + atR atRegs ≤ 2 ^ 32 ∧ (attending []).atLatched (0, 0) = some (1, 64) ∧
    readyB (attending []) [.g 4, .g 5] = true ∧ readyB (attending []) [.g 4, .v 2] = true ∧
    good ((attending []).readHeads (attending []).who atRegs ((attending []).me.vv 2) 0 1) (fun x => x.1.length == 1) = true := by decide +kernel
theorem witness_AttentionCommands_tree : [(0x51000, none), (0x51008, some 0)].all (fun (e : Word × Option Nat) =>
    good ((attending []).engReadWords (attending []).who .attn e.1 2) fun x =>
      decide ((List.range 2).find? (fun j => !maskOk x.1 j) = e.2)) = true ∧ (reg atRegs 7).toNat + 2 ≤ 2 ^ 32 := by decide +kernel
theorem witness_AttentionCommands_limits : State.reset.atLatched (0, 0) = none ∧
    [0, 1, 2, 3, 4].find? (fun i => !atRegOk (State.reset.snap .at 0 0 12) i) = some 0 ∧
    [0, 10, 11].find? (fun i => !atRegOk ((bare [] [] [] .at [(0, 0x11001), (10, 8)]).snap .at 0 0 12) i) = some 10 ∧
    [0, 8].find? (fun i => !atRegOk ((bare [] [] [] .at [(0, 0x11001), (8, 4)]).snap .at 0 0 12) i) = some 8 ∧
    good ((bare [] [] [] .at [(0, 0x11001)]).atSpace (0, 0)) (fun _ => true) = true := by decide +kernel

/-- `attending`, with the translations of its block headers and tree masks held by the engine's TLB. -/
def attendingHere : State := warmed (attending []) (attending []).who .attn [0x50000]
theorem witness_AttentionCommands_completes : let s := attendingHere; let r := s.snap .at 0 0 12
    s.myCtx .at = (0, 0) ∧ [0, 1, 2, 3, 4, 5, 6, 7, 8, 9, 10, 11].all (atRegOk r) = true ∧ good (s.atSpace (0, 0)) (fun _ => true) = true ∧
    reg r 3 ≠ 0 ∧ (reg r 4).toNat + atR r ≤ 2 ^ 32 ∧ s.atLatched (0, 0) = some (atR r, atD r) ∧ (gv s 4).toNat = 1 ∧ calmB s = true ∧
    vlane (s.me.vv 2) 0 < fld (reg r 6) 0 32 ∧
    heldWordsB s s.who .attn (reg r 5 + word (vlane (s.me.vv 2) 0 * fld (reg r 6) 32 32)) 8 0x50000 = true ∧
    headOk (wordsAt s 0x50000 8) (fld s.who.ctxid 0 20) (atFmt r) (atH r) (atD r) (fld (reg r 6) 32 32) = true ∧
    heldWordsB s s.who .attn (gv s 6) (gv s 5).toNat 0x51000 = true ∧ (gv s 5).toNat ≤ 64 ∧ (reg r 7).toNat + (gv s 5).toNat ≤ 2 ^ 32 ∧
    (List.range 2).all (fun j => maskOk (wordsAt s 0x51000 (gv s 5).toNat) j) = true ∧ (gv s 6).toNat % 8 = 0 ∧
    readyB s [.g 4, .v 2] = true ∧ readyB s [.g 6, .g 5] = true := by decide +kernel

/-- Registers of a chain of one row and one column. -/
def mxRegs : List (Nat × Word) := [(0, 0x04100101), (1, 0x20400), (4, 0x400), (5, 0x800), (6, 0x20400), (7, 8)]
/-- The matrix engine of core 0 in a state, with the operands of a command. -/
def matrixed (a b : Word) (x : MxCore) : State := (bare [(4, a), (5, b)] [] [] .mx mxRegs).setMx 0 x
theorem witness_MatrixCommands : (MxCore.empty).running = none ∧ good (matrixed 1 0 .empty).mxTurn (fun _ => true) = true ∧
    good ((matrixed 1 0 { MxCore.empty with held := some { aStep with regs := [] } }).mxTurn) (fun _ => true) = true ∧
    good (mxLimits ((matrixed 1 0 .empty).snap .mx 0 0 8) 4 [0, 1, 2, 3, 4, 5, 6, 7]) (fun _ => true) = true ∧
    mxRange ((matrixed 1 0 .empty).snap .mx 0 0 8) 1 0 true = none ∧ mxRange ((matrixed 1 0 .empty).snap .mx 0 0 8) 1 0x1000 false ≠ none ∧
    (MxCore.empty).chain = false ∧ (-320 : Int) ≤ (0xFFFFFFFFFFFFFEC0 : Word).toInt ∧ (0x140 : Word).toInt ≤ 320 ∧
    65535 < 65535 + (gv (matrixed 1 0 .empty) 4).toNat ∧ readyB (matrixed 1 0 .empty) [.g 4, .g 5] = true ∧
    (mxElems ((matrixed 1 0 .empty).snap .mx 0 0 8)).all (fun e => !(MxCore.empty).overflows e) = true := by decide +kernel
theorem witness_MatrixCommands_drain : let s := matrixed 1 0 .empty; let r := s.snap .mx 0 0 8
    good (s.eachRow (fun v m => v.checkWords s.who .data (reg r 6 + word (m * (reg r 7).toNat)) ((mxN r * drainBytes 0 + 7) / 8))
      (List.range (mxM r))) (fun u => good (u.eachRow (fun v m => v.drainWords s.who (reg r 6 + word (m * (reg r 7).toNat))
        (drainRow .empty r s.me.fzo 0 m)) (List.range (mxM r))) fun _ => true) = true := by decide +kernel

theorem witness_MatrixCommands_completes : let s := matrixed 1 0 { MxCore.empty with chain := true }; let r := s.snap .mx 0 0 8
    good (mxLimits r 1 [0, 3, 4]) (fun _ => true) = true ∧ good (mxLimits r 1 [0, 1, 2, 3, 4, 5]) (fun _ => true) = true ∧
    good (mxLimits r 1 [0]) (fun _ => true) = true ∧ good (mxLimits r (drainBytes 4) [0, 6, 7]) (fun _ => true) = true ∧ (4 : BitVec 4).toNat ≤ 4 ∧
    mxRange r 1 0 false = none ∧ mxRange r 1 0 true = none ∧ (s.mxAt 0).chain = true ∧ (s.mxAt 0).groups + 1 ≤ 65535 ∧
    bit s.me.fpcsr 6 = false ∧
    (let u := warmed s s.who .data [0x20400]
     calmB u && (List.range (mxM r)).all (fun m => heldWordsB u u.who .data (reg r 6 + word (m * (reg r 7).toNat))
      ((mxN r * drainBytes 4 + 7) / 8) 0x20400)) = true := by decide +kernel

/-- A copy of 8 bytes from 0x20400 to 0x20800. -/
def cpRegs : List (Nat × Word) := [(0, 0x20400), (1, 0x20800), (2, 8)]
/-- A thread with those registers and some accepted commands. -/
def copying (a : Word) (cmds : List Cmd) : State := (bare [(4, a)] [] [] .cp cpRegs).setCmds .cp 0 0 cmds
/-- An accepted copy. -/
def aCopy : Cmd := Cmd.start 2 (copying 1 []).who 0 0 ((copying 1 []).snap .cp 0 0 10) 1 0
theorem witness_CopyCommands : (copying 1 []).myCtx .cp = (0, 0) ∧ readyB (copying 1 []) [.g 4] = true ∧
    (List.range 10).all (cpRegOk ((copying 1 []).snap .cp 0 0 10)) = true ∧ (copying 1 []).pending .cp 0 0 < Config.cpDepth ∧
    Config.cpDepth ≤ (copying 1 (List.replicate Config.cpDepth aCopy)).pending .cp 0 0 ∧
    (List.range 10).find? (fun i => !cpRegOk (State.reset.snap .cp 0 0 10) i) = some 2 := by decide +kernel
theorem witness_CopyCommands_cancel : (!aCopy.finished && decide (aCopy.op = 2) && decide (aCopy.id = (gv (copying 1 [aCopy]) 4).toNat)) = true ∧
    (copying 1 [aCopy]).me.ended (some .cp) = false ∧ (copying 1 []).me.ended (some .cp) = false ∧
    ({ Slot.empty with resuming := true, wait := .commands (some .cp) 0 none } : Slot).ended (some .cp) = true := by decide +kernel
theorem witness_CopyCommands_save : (copying 0x0300 []).me.mode = 3 ∧ fld (gv (copying 0x0300 []) 4) 3 5 = 0 ∧ fld (gv (copying 0x0300 []) 4) 15 49 = 0 ∧
    fld (gv (copying 0x0308 []) 4) 3 5 ≠ 0 ∧ good ((copying 0x0300 []).cpAccept 5 0x0300) (fun _ => true) = true := by decide +kernel
/-- A complete record of tenant 3's launch 5 at 0x44300, the state that it names, and an empty record at 0x44400. -/
def aSave : Save :=
  { tenant := 3, queue := 0, serial := 5, addr := 0x44300, written := 256, began := 0, pending := [], buf := [], cluster := 0, taken := [],
    fibres := [], cores := [], launch := aLaunch 1 0, complete := true, miss := none, control := false, ctx := none }
def restoring (a : Word) : State :=
  { tenanted (bare [(4, a)] [] (tenantMem ++ [(0x44307, 0x80), (0x44308, 1), (0x4430D, 3), (0x44318, 5)]) .cp []) with saves := [aSave] }
/-- The header of the record is read. -/
def headRead (s : State) (f : Nat → Nat → Nat → Nat → State → Bool) : Bool :=
  good (s.threadRead (gv s 4) 8) fun a => good (a.2.threadRead (gv s 4 + 8) 8) fun b => good (b.2.threadRead (gv s 4 + 16) 8) fun c =>
    good (c.2.threadRead (gv s 4 + 24) 8) fun d => f a.1 b.1 c.1 d.1 d.2
theorem witness_CopyCommands_restore : (restoring 0x44300).me.mode ≠ 0 ∧ (gv (restoring 0x44300) 4).toNat % 256 = 0 ∧
    (gv (restoring 0x44308) 4).toNat % 256 ≠ 0 ∧ headRead (restoring 0x44400) (fun h0 _ _ _ _ => decide (h0 < 2 ^ 63)) = true ∧
    headRead (restoring 0x44300) (fun h0 h1 h2 h3 u => decide (2 ^ 63 ≤ h0) && decide (h1 % 65536 = 1) && decide (u.me.mode = 3) &&
      decide (h1 / 2 ^ 40 % 256 = 3) && decide (h1 / 2 ^ 32 % 256 = 0) && u.tenantOk 3 && recQueue (u.tenantRec 3) 0 &&
      good (u.sectionsOk 0x44300 h2 (recLen (u.tenantRec 3)) (h2 / 16 + 1) 256) fun x => x.1 &&
        decide (x.2.saves.find? (fun v => decide (v.tenant = 3) && decide (v.queue = 0) && decide (v.serial = h3 % 2 ^ 32) && v.complete) = some aSave) &&
          good (x.2.cpAccept 6 0x44300) fun t => good (t.threadWrite 0x44300 8 (h0 - 2 ^ 63)) fun _ => true) = true := by decide +kernel

/-- The headers of a record of two sections, the second of them empty, with the translations of their page held. -/
def restoringHere : State :=
  let s := [(0x44310, 8, 296), (0x44400, 8, 0x30001), (0x44408, 8, 8), (0x44418, 8, 6)].foldl (fun s c => s.poke c.1 c.2.1 c.2.2) (restoring 0x44300)
  warmed s s.who .data [0x44300]
theorem witness_CopyCommands_restoreHere : let s := restoringHere
    s.pending .cp 0 0 < Config.cpDepth ∧ calmB s = true ∧ s.me.kept = [] ∧ heldWordsB s s.who .data (gv s 4) 4 0x44300 = true ∧
    2 ^ 63 ≤ s.peek 0x44300 8 ∧ s.peek 0x44308 8 % 65536 = 1 ∧ s.peek 0x44308 8 / 2 ^ 40 % 256 = 3 ∧ s.peek 0x44308 8 / 2 ^ 32 % 256 = 0 ∧
    s.me.mode = 3 ∧ s.tenantOk 3 = true ∧ recQueue (s.tenantRec 3) 0 = true ∧ aSave ∈ s.saves ∧ aSave.serial = s.peek 0x44318 8 % 2 ^ 32 ∧
    s.peek 0x44310 8 = 296 := by decide +kernel
theorem witness_CopyCommands_sections : SectionsHere restoringHere 0x44300 (recLen (restoringHere.tenantRec 3)) 296 256 [8, 0] := by
  refine ⟨by decide, ⟨0x44400, of_heldWordsB (by decide +kernel), ?_⟩, by decide, ⟨0x44418, of_heldWordsB (by decide +kernel), ?_⟩,
    (by decide : 296 ≤ 296)⟩ <;> decide +kernel
theorem witness_CopyCommands_idle : (copying 1 []).me.ended (some .cp) = false ∧ (∀ y ∈ (copying 1 []).cmdsOf .cp 0 0, y.finished = true) ∧
    (copying 1 [aCopy]).pending .cp 0 0 < Config.cpDepth := by decide +kernel

/-- A group of two: this context, which is rank 0, and context 1 of die 0; its tag is 7, its seq 4. -/
def groupMem : List Host.Cell := [(0x46000, 1), (0x46004, 7), (0x46008, 4), (0x46010, 2), (0x46049, 4)]
/-- A thread of that group with 8 bytes to give at 0x47000 and room for the result at 0x47100. -/
def fabric (table : Word) (cmds : List Cmd) : State :=
  (bare [(4, 1)] [] groupMem .fx [(0, table), (2, 2), (3, 0x47000), (4, 0x47100), (5, 8)]).setCmds .fx 0 0 cmds
/-- Its registers. -/
def fxRegs : List Word := (fabric 0x46000 []).snap .fx 0 0 11
theorem witness_FabricCommands_accept : (fabric 0x46000 []).myCtx .fx = (0, 0) ∧ readyB (fabric 0x46000 []) [.g 4] = true ∧
    [2, 5].all (fun op => good ((fabric 0x46000 []).fxAccept op fxRegs 0 none) fun x => decide (x.1 = 4)) = true ∧
    [3, 4].all (fun op => good ((fabric 0x46000 []).fxAccept op fxRegs 1 none) fun _ => true) = true := by decide +kernel
theorem witness_FabricCommands_limits : (fxUses 2).find? (fun i => !fxRegOk (State.reset.snap .fx 0 0 11) true i) = some 1 ∧
    (fxUses 5).find? (fun i => !fxRegOk (State.reset.snap .fx 0 0 11) false i) = some 1 ∧ (fxUses 5).all (fxRegOk fxRegs false) = true ∧
    reg fxRegs 10 = 0 ∧ good ((fabric 0x46400 []).engReadWords (fabric 0x46400 []).who .die 0x46400 8) (fun x =>
      good (x.2.engReadWords (fabric 0x46400 []).who .die 0x46440 2) fun y =>
        match fxTableOk x.1 y.1 2 0 (y.2.packageIndex, 0, 0) with | .error (.trap c e) => decide (c = 0x73) && decide (e = 0) | _ => false) = true := by
  decide +kernel
/-- `fabric` with a bitmap of both ranks, and the translations of its table and bitmap held. -/
def fabricHere (mask : Word) : State :=
  let s := ((fabric 0x46000 []).poke 0x46100 8 3).setEr .fx 0 0 10 mask .full
  warmed s s.who .die [0x46000]
theorem witness_FabricCommands_completes : [0, 0x46100].all (fun mask => let s := fabricHere mask; let r := s.snap .fx 0 0 11
    calmB s && decide (s.pending .fx 0 0 < Config.fxDepth) && heldWordsB s s.who .die (reg r 0) (8 + (reg r 2).toNat) 0x46000 &&
      good (fxTableOk (wordsAt s 0x46000 8) (wordsAt s 0x46040 (reg r 2).toNat) (reg r 2).toNat (reg r 1).toNat (s.packageIndex, 0, 0)) (fun _ => true) &&
      (decide (reg r 10 = 0) || heldWordsB s s.who .die (reg r 10) (((reg r 2).toNat + 63) / 64) 0x46100 &&
        (wordsNat (wordsAt s 0x46100 (((reg r 2).toNat + 63) / 64))).testBit (reg r 1).toNat &&
        decide (wordsNat (wordsAt s 0x46100 (((reg r 2).toNat + 63) / 64)) < 2 ^ (reg r 2).toNat)) &&
      [(2, true), (5, false), (3, false), (4, false)].all (fun e => (fxUses e.1).all (fxRegOk r e.2)) &&
      decide ((reg r 3).toNat + (reg r 5).toNat ≤ (reg r 4).toNat) && readyB s [.g 4] && decide ((gv s 4).toNat < (reg r 2).toNat) &&
      decide (gv s 4 ≠ reg r 1) && (s.cmdsOf .fx 0 0).all (·.finished)) = true := by decide +kernel

/-- An accepted `fx.bar` of the group that waits for rank 1. -/
def aKey : FabKey := { tag := 7, seq := 4, barrier := true, barId := none, count := 2, mask := 3, op := 0, dcode := 0, len := 0 }
def aMember : FabCmd := { key := aKey, rank := 0, active := [(0, 0, 0, 0), (1, 0, 0, 1)], peer := 0, acc := some [], level := 0, result := none, ready := true, shipped := false }
def aBar : Cmd := { Cmd.start 5 (fabric 0x46000 []).who 0 0 fxRegs 0 0 with fab := some aMember }
theorem witness_FabricCommands_abort : (fabric 0x46000 [aBar]).me.ended (some .fx) = false ∧ (fabric 0x46000 []).cmdsOf .fx 0 0 = [] ∧
    ({ Slot.empty with resuming := true, wait := .commands (some .fx) 0 none } : Slot).ended (some .fx) = true ∧
    (((fabric 0x46000 [aBar]).fxEnd 0 0 aBar 5 0 0xFFFF).cmdsOf .fx 0 0).all (·.finished) = true := by decide +kernel
theorem witness_BarriersAndFences_pod : good ((fabric 0x46000 []).podArrive 3) (fun u => !(u.podBit 3).1) = true ∧
    (fabric 0x46000 []).me.phaseOver = false ∧ ((fabric 0x46000 []).podBit 3).1 = (gv (fabric 0x46000 []) 5).getLsbD 0 := by decide +kernel

/-- An automaton of three states, one class in range and two symbols: state 0 keeps and goes to 1, and pops with symbol 1 on top;
state 1 pushes symbol 1, and rejects under it; state 2 pops. Token 1 is of class 5. -/
def maskMem : List Host.Cell :=
  [(0x48000, 0x01), (0x48001, 0x10), (0x48003, 0x30), (0x48005, 0x21), (0x48009, 0x30), (0x48101, 5), (0x48200, 1), (0x48208, 1)]
/-- A thread of that automaton with a token, a state and a depth. -/
def masking (tok st d : Word) : State :=
  bare [(4, tok)] [] maskMem .mk [(0, 0x48000), (1, 0x10003), (2, 2), (3, 2), (4, 4), (5, 0x48100), (6, 0x49000), (7, st), (8, d), (9, 0x48200)]
/-- Its registers. -/
def mkRegs (tok st d : Word) : List Word := (masking tok st d).snap .mk 0 0 11
theorem witness_MaskMoves_load : (masking 0 0 0).myCtx .mk = (0, 0) ∧ good (mkLimits (mkRegs 0 0 0)) (fun _ => true) = true ∧
    readyB (masking 0 0 0) [.g 4] = true ∧ mkNs (mkRegs 0 0 0) ≤ 3 ∧ 2 < mkNs (mkRegs 0 0 0) ∧
    good ((List.range 4).foldlM (fun (u : State) i => do
        let (p, u) ← u.mkWord (masking 0 0 0).who .write (mkStackAddr (mkRegs 0 0 0) (16 * i))
        pure (u.poke p 8 0)) (masking 0 0 0))
      (fun u => good (u.mkWord (masking 0 0 0).who .write (reg (mkRegs 0 0 0) 9)) fun _ => true) = true := by decide +kernel
/-- A step reads its top of stack, its class and its entry. -/
def mkReads (s : State) (r : List Word) (f : Nat → Nat → State → Bool) : Bool :=
  good (if (reg r 8).toNat = 0 then .ok (0, s) else s.mkNibble s.who r ((reg r 8).toNat - 1)) fun x =>
    good (x.2.mkTable s.who (reg r 5 + gv s 4) 1) fun y => decide (y.1 < mkNc r) &&
      good (y.2.mkTable s.who (mkEntryAddr r (reg r 7).toNat x.1 y.1) 2) fun z => f x.1 z.1 z.2
theorem witness_MaskMoves_step : [(0, 0, 1, 1), (1, 0, 2, 0), (0, 1, 3, 0)].all (fun (e : Nat × Nat × Nat × Nat) =>
    let s := masking 0 (word e.1) (word e.2.1); let r := mkRegs 0 (word e.1) (word e.2.1)
    mkReads s r fun t x u => decide (mkAction x = e.2.2.1) && mkValid r x && decide (mkNext x = e.2.2.2) &&
      !(decide (mkAction x = 3) && decide (t = 0)) && !(decide (mkAction x = 2) && decide ((reg r 3).toNat ≤ e.2.1)) &&
      good (u.mkAct s.who r x e.2.1 t) fun y => good (y.2.2.mkWord s.who .write (reg r 9)) fun _ => true) = true := by decide +kernel
theorem witness_MaskMoves_faults : mkReads (masking 0 2 0) (mkRegs 0 2 0) (fun t x _ => decide (mkAction x = 3) && decide (t = 0)) = true ∧
    mkReads (masking 0 1 1) (mkRegs 0 1 1) (fun t x _ => decide (t = 1) && !mkValid (mkRegs 0 1 1) x) = true ∧
    mkReads (masking 0 1 2) (mkRegs 0 1 2) (fun _ x _ => mkValid (mkRegs 0 1 2) x && decide (mkAction x = 2) &&
      decide ((reg (mkRegs 0 1 2) 3).toNat ≤ 2)) = true ∧ mkV (mkRegs 4 0 0) ≤ (gv (masking 4 0 0) 4).toNat ∧
    good ((masking 1 0 0).mkTable (masking 1 0 0).who (reg (mkRegs 1 0 0) 5 + 1) 1) (fun x => decide (mkNc (mkRegs 1 0 0) ≤ x.1)) = true := by
  decide +kernel
/-- `masking` with given stack and ready words, its ready word in a state of presence, and the translations of its memory held. -/
def maskingHere (tok st d : Word) (p : Presence) : State :=
  let s := (masking tok st d).setPres 0x48200 p
  warmed s s.who .die [0x48000]
theorem witness_MaskMoves_completes : [(0, 0), (0, 1), (1, 0)].all (fun (e : Nat × Nat) => let s := maskingHere 0 (word e.1) (word e.2) .full
    let r := s.snap .mk 0 0 11; let d := (reg r 8).toNat
    let t := if d = 0 then 0 else s.peek (0x48200 + 8 + 8 * ((d - 1) / 16)) 8 / 16 ^ ((d - 1) % 16) % 16
    let cl := s.peek 0x48100 1; let z := (mkEntryAddr r (reg r 7).toNat t cl).toNat; let x := s.peek z 2
    good (mkLimits r) (fun _ => true) && calmB s && heldWordsB s s.who .die (reg r 9) 5 0x48200 && readyB s [.g 4] &&
      decide ((gv s 4).toNat < mkNs r) && decide ((gv s 4).toNat < mkV r) && heldB s s.who .die (reg r 5 + gv s 4) 0x48100 &&
      decide (cl < mkNc r) && heldB s s.who .die (mkEntryAddr r (reg r 7).toNat t cl) z && mkValid r x &&
      !(decide (mkAction x = 3) && decide (t = 0)) && !(decide (mkAction x = 2) && decide ((reg r 3).toNat ≤ d))) = true := by decide +kernel
theorem witness_MaskReaders_completes : [Presence.full, .void, .empty].all (fun p => let s := maskingHere 0 0 0 p; let r := s.snap .mk 0 0 11
    decide (s.me.resuming = false) && calmB s && good (mkLimits r) (fun _ => true) && heldB s s.who .die (reg r 9) 0x48200 &&
      !s.queuedBefore s.myPlace 0x48200 && readyB s [.g 4] && decide ((gv s 4).toNat < mkNch r) && decide (gv s 4 = 0) &&
      decide (s.presAt 0x48200 = p) && (let v := word (s.peek 0x48200 8)
        let a := mkChunkAddr r (fld v 32 8) (fld v 40 4) (gv s 4).toNat 0
        heldWordsB s s.who .die a 8 a.toNat && (List.range 8).all (fun i => decide (s.presAt (a.toNat + 8 * i) ≠ .empty) &&
          !s.queuedBefore s.myPlace (a.toNat + 8 * i)))) = true := by decide +kernel
/-- A `mk.wait` that waits until cycle 40, with the operand of its acceptance. -/
def maskWaiting : State :=
  let s := maskingHere 9 0 0 .empty
  let s := s.mkPark (0, 0) (s.mkSnap (0, 0)) 9 false (.ready 0x48200 40 false 9)
  s.setMe { s.me with resuming := true }
theorem witness_MaskReaders_waiting : ¬ FirstIssue maskWaiting ∧ maskWaiting.me.wait = .ready 0x48200 40 false 9 ∧ maskWaiting.me.reply ≠ .gaveUp ∧
    good (maskWaiting.mkOperand 4) (fun x => decide (x.1 = 9)) = true ∧ good (mkLimits (maskWaiting.mkSnap (0, 0))) (fun _ => true) = true ∧
    good ((maskWaiting.mkDrop (0, 0)).mkWord (maskWaiting.mkDrop (0, 0)).who .read (reg (maskWaiting.mkSnap (0, 0)) 9)) (fun x =>
      decide (x.2.presAt x.1 = .empty)) = true := by decide +kernel
theorem witness_MaskReaders : [Presence.full, .void, .empty].all (fun p => let s := (masking 0 0 0).setPres 0x48200 p
    good ((s.mkDrop (0, 0)).mkWord (s.mkDrop (0, 0)).who .read (reg (s.mkSnap (0, 0)) 9)) fun x =>
      decide ((if x.2.queuedBefore x.2.myPlace x.1 then .empty else x.2.presAt x.1) = p) && decide ((gv s 4).toNat < mkNch (s.mkSnap (0, 0))) && good (mkLimits (s.mkSnap (0, 0))) fun _ =>
        p ≠ .full || good (x.2.maskWords (s.mkSnap (0, 0)) 0 0 0 (List.range 8)) fun y => match y with | .inr _ => true | .inl _ => false) =
    true ∧ fld (gv (masking 0 0 0) 4) 0 63 = 0 ∧ fld (gv (masking 9 0 0) 4) 0 63 ≠ 0 ∧ (masking 9 0 0).me.reply ≠ .gaveUp ∧
    (masking 9 0 0).me.resuming = false ∧ mkNch (mkRegs 1 0 0) ≤ (gv (masking 1 0 0) 4).toNat ∧
    bit (gv (masking 0x8000000000000009 0 0) 4) 63 = true := by decide +kernel

/-! ### Hypotheses that are met: waits, replies, the pager -/

/-- Slot 2 of core 3 is parked on something. -/
def parked (w : Wait) (s : State) : State := s.setSlot 3 2 { Slot.empty with state := .parked, wait := w }
/-- The same with TIME. -/
def waiting (w : Wait) (t : Word) : State := { parked w State.reset with time := t }
theorem witness_WaitsEnd_parked : ∀ w ∈ [Wait.reg (.g 1), .barrier (barKey 0 3 0) true, .word 0 .notEmpty, .event 4 5 false, .accept .cp 0 0,
    .ready 0 9 true 9, .input 0], ParkedOn (waiting w 9) 3 2 w := by unfold ParkedOn; decide +kernel
theorem witness_WaitsEnd : [Wait.reg (.g 1), .barrier (barKey 0 3 0) true, .word 0 .notEmpty].all (fun w => (parked w State.reset).waitOver 3 2) = true ∧
    (parked (.barrier (barKey 0 3 0) false) State.reset).waitOver 3 2 = false ∧
    ((parked (.word 0 .notEmpty) State.reset).setPres 0 .empty).waitOver 3 2 = false ∧ (waiting (.input 0) 9).presAt 0 ≠ .empty ∧
    (waiting (.event 4 5 false) 5).eventOver 3 2 4 5 = true ∧ (waiting (.event 4 5 false) 4).eventOver 3 2 4 5 = false ∧
    State.reset.pending .cp 0 0 < Config.cpDepth ∧ (9 : Nat) ≤ (waiting (.ready 0 9 true 9) 9).time.toNat := by decide +kernel
/-- A halted transform thread of core 0 whose queue word counts as an event. -/
def halted : State :=
  let s := queued 5
  s.setMe { s.me with state := .parked, wait := .queueEvent, preempted := false }
theorem witness_WaitsEnd_queue : ParkedOn halted 0 7 .queueEvent ∧ halted.queueEventAt 0 7 = true := by unfold ParkedOn; decide +kernel
theorem witness_RepliesArrive : slotExists 3 2 = true ∧ ((waiting (.far 0x40000000 0x100000000000) 0).slotAt 3 2).state = .parked ∧
    ((waiting (.far 0x40000000 0x100000000000) 0).slotAt 3 2).wait = .far 0x40000000 0x100000000000 ∧
    (0x100000000000 / 4096 * 4096) ∉ (waiting (.far 0x40000000 0x100000000000) 0).badTags ∧
    (0x100000000000 / 65536 * 65536) ∉ (waiting (.far 0x40000000 0x100000000000) 0).quarantine ∧
    (0x100000000000 / 65536 * 65536) ∈ ({ waiting (.far 0x40000000 0x100000000000) 0 with quarantine := [0x100000000000] } : State).quarantine ∧
    (0x100000000000 / 4096 * 4096) ∈ ({ waiting (.far 0x40000000 0x100000000000) 0 with badTags := [0x100000000000] } : State).badTags ∧
    ((waiting (.host 0 0 .flush 7) 0).slotAt 3 2).wait = .host 0 0 .flush 7 ∧
    (waiting (.host 0 0 .flush 7) 0).time.toNat < 7 + (waiting (.host 0 0 .flush 7) 0).pcieTimeout ∧
    7 + (waiting (.host 0 0 .flush 7) 0x1000000000).pcieTimeout ≤ (waiting (.host 0 0 .flush 7) 0x1000000000).time.toNat ∧
    (waiting (.refresh 0 0) 1300).inRefresh 0 = false := by decide +kernel
/-- Slot 2 of core 3 sleeps on a page. -/
def asleep (stage : Nat) : State :=
  State.reset.setSlot 3 2 { Slot.empty with state := .asleep, miss := some ⟨0x1000, .read, stage, 0, 0, 0⟩ }
/-- Its frame command waits on a page, or on the table of a push block. -/
def framing (why : FrHold) : State :=
  State.reset.setSlot 3 2 { Slot.empty with state := .parked, wait := .frame [0] why, miss := some ⟨0x1000, .read, 3, 0, 0, 0⟩ }
theorem witness_PagerEvents_frame : [FrHold.miss, .btab].all (fun w => ((framing w).slotAt 3 2).onPager && decide (((framing w).slotAt 3 2).state = .parked)) =
    true ∧ ((framing .btab).slotAt 3 2).wait = .frame [0] .btab ∧ ((framing .miss).slotAt 3 2).wait ≠ .frame [0] .btab ∧
    ((framing .btab).slotAt 3 2).gen ≠ 1 := by decide +kernel
theorem witness_PagerEvents : ((asleep 3).slotAt 3 2).onPager = true ∧ (asleep 3).pris.any (fun p => p.agent = .fibre 3 2 && p.va = 0x1000) = false ∧
    ((asleep 3).slotAt 3 2).state = .asleep ∧ ((asleep 3).slotAt 3 2).miss = some ⟨0x1000, .read, 3, 0, 0, 0⟩ ∧
    (asleep 3).pris = [] ∧ (List.range 512).find? (fun i => decide (i ∉ (((asleep 3).pris.filter (fun p => decide (p.tenant = 0))).map (·.index)))) = some 0 ∧
    ((asleep 3).slotAt 3 2).gen ≠ 1 ∧ (asleep 3).cmds = [] ∧ (asleep 3).queues = [] ∧ ((asleep 3).slotAt 3 2).preempted = false ∧
    ((asleep 10).slotAt 3 2).miss = some ⟨0x1000, .read, 10, 0, 0, 0⟩ ∧ ((asleep 3).slotAt 3 2).mode ≠ 3 := by decide +kernel

/-! ### Hypotheses that are met: units of the engines -/

/-- The attention context with one command. -/
def atDoing (op : Nat) (a : Word) (awaits : Nat) : State :=
  attending [{ Cmd.start op (attending []).who a 0 atRegs 0 0 with awaits := awaits, heads := [⟨0, 1, 0, 0, 64⟩] }]
/-- That command. -/
def atCmd (op : Nat) (a : Word) (awaits : Nat) : Cmd :=
  { Cmd.start op (attending []).who a 0 atRegs 0 0 with awaits := awaits, heads := [⟨0, 1, 0, 0, 64⟩] }
theorem witness_AttentionEvents_active : [(2, 1), (2, 0), (3, 0), (4, 0), (5, 0), (6, 0), (7, 0), (8, 0), (9, 0)].all (fun (e : Nat × Nat) =>
    decide ((atDoing e.1 0x55000 e.2).active .at 0 0 = some (atCmd e.1 0x55000 e.2))) = true := by decide +kernel
theorem witness_AttentionEvents_query : [Presence.full, .void, .empty].all (fun p => good (((atDoing 2 0 0).setPres 0x52000 p).engSync (atCmd 2 0 0).who .attn
    none (reg (atCmd 2 0 0).regs 1)) fun x => match x.1 with | .ok v => decide (v.2 = p) | .error _ => decide (p = .empty)) = true := by decide +kernel
/-- `atDoing`, with the translations of its memory held by the engine's TLB. -/
def atHere (op : Nat) (a : Word) : State := warmed (atDoing op a 0) (atCmd op a 0).who .attn [0x52000]
theorem witness_AttentionEvents_here : [(2, 0x52000), (7, 0x55000)].all (fun (e : Nat × Nat) => [Presence.full, .void].all (fun p =>
    let s := (atHere e.1 0x55000).setPres e.2 p; let c := atCmd e.1 0x55000 0
    decide (s.active .at 0 0 = some c) && decide (c.place = none) && calmB s && heldWordsB s c.who .attn (word e.2) 1 e.2 &&
      decide (s.presAt e.2 ≠ .empty) && !s.queuedBefore s.seq e.2 && (decide (e.1 ≠ 2) || decide (reg c.regs 1 + word (8 * c.pos) = word e.2)) &&
      (decide (e.1 ≠ 7) || decide (c.a + word (8 * (c.pos * (2 + (s.atCtx 0 0).d / 2) + (recSoFar c).length)) = word e.2)))) = true := by
  decide +kernel
theorem witness_AttentionEvents_block : good ((atDoing 3 0 0).atApply 0 0 (atCmd 3 0 0) ⟨0, 1, 0, 0, 64⟩) (fun _ => true) = true := by decide +kernel
theorem witness_AttentionEvents_output : good ((atDoing 8 0 0).atOutput 0 0 (atCmd 8 0 0)) (fun _ => true) = true := by decide +kernel
theorem witness_AttentionEvents_fails : let c := { atCmd 8 0 0 with regs := atRegs.set 8 0x10000000000000 }
    (match (attending [c]).atOutput 0 0 c with | .error (.trap _ _) => true | _ => false) = true := by decide +kernel

/-- Cores 0 and 1 of a tile row have issued a step; core 0 is its reader. -/
def rowStep (tc : Nat) (a : Nat) : MxStep :=
  { aStep with regs := [word (0x14100101 + tc * 2 ^ 34), 0x20400, 0, 0, 0x400, 0x800], a := a, started := false }
def rowed (a : Nat) : State := (State.reset.setMx 0 { MxCore.empty with running := some (rowStep 0 1) }).setMx 1
  { MxCore.empty with running := some (rowStep 1 a) }
theorem witness_MatrixEvents_start : [1, 2].all (fun a => let s := rowed a; let st := rowStep 0 1; let row := s.paired 0 st false
    decide ((s.mxAt 0).running = some st) && !st.started && decide (row.find? (fun e => decide (mxTc e.2.regs = 0)) = some (0, st)) &&
      (List.range (2 ^ mxSc st.regs)).all (fun j => row.any fun e => decide (mxTc e.2.regs = j)) &&
      (decide (row.filter (fun e => decide (e.2.a ≠ st.a) || decide (e.2.b ≠ st.b) || decide (mxM e.2.regs ≠ mxM st.regs) ||
        decide (mxAfmt e.2.regs ≠ mxAfmt st.regs)) = []) == decide (a = 1))) = true := by decide +kernel
/-- A started solo step, with or without a valid permutation entry. -/
def soloStep : MxStep := { aStep with regs := [0x04100101, 0x20400, 0, 0, 0x400, 0x800] }
def soloed (good : Bool) : State :=
  let s := (matrixed 1 0 .empty).setMx 0 { MxCore.empty with running := some soloStep, chain := true }
  if good then s.poke (bsBase + 0x400) 32 (sortEntry 1 (List.replicate 32 0)) else s
theorem witness_MatrixEvents_tile : [true, false].all (fun ok => decide (((soloed ok).mxAt 0).running = some soloStep) &&
    !bit ((soloed ok).mxAt 0).mxdone 0 && good ((soloed ok).aBlocks soloStep 0 0 (bandRows (mxM soloStep.regs) 0)) fun x => match x.1 with
      | some rows => match x.2.2.tileCores 0 0 rows ((x.2.2.tileRow 0 x.2.1).filter (fun e => !bit (x.2.2.mxAt e.1).mxdone 0)) with
        | .ok _ => ok
        | .error (_, _, .trap c _) => !ok && decide (c = 0x52)
        | _ => false
      | none => false) = true ∧ soloStep.started = true ∧ soloStep.miss = none ∧ 0 < soloStep.a ∧ 0 < (mxM soloStep.regs + 15) / 16 ∧
    mxTc soloStep.regs = 0 ∧ soloStep.who.slot < 16 := by decide +kernel
theorem witness_MatrixEvents_here : let s := warmed (soloed true) soloStep.who .data [0x20400]
    mxSolo soloStep.regs = true ∧ soloStep.places = [] ∧ soloStep.got = [] ∧ calmB s = true ∧ (bandRows (mxM soloStep.regs) 0).all (fun m =>
      heldWordsB s soloStep.who .data (reg soloStep.regs 1 + word (m * (reg soloStep.regs 2).toNat + 0)) (4 * mxEa soloStep.regs) 0x20400 &&
        (List.range (4 * mxEa soloStep.regs)).all (fun i => decide (s.presAt (0x20400 + 8 * i) ≠ .empty) && !s.queuedBefore s.seq (0x20400 + 8 * i))) =
      true ∧ (s.mxAt 0).running = some soloStep ∧
    (List.range (mxN soloStep.regs)).all (fun n => permOk (mxL soloStep.regs) (s.permEntry 0 soloStep.regs n 0)) = true := by decide +kernel

theorem witness_CopyEvents_first : ∀ c ∈ [aCopy, { aCopy with pos := 8 }], FirstCopy (copying 1 [c, aCopy]) 0 0 c := by
  intro c hc
  refine ⟨⟨[aCopy], ?_, by decide +kernel⟩, ?_⟩
  · revert c; decide +kernel
  · revert c; decide +kernel
theorem witness_CopyEvents : cpKind aCopy.regs ≠ 2 ∧ aCopy.pos < cpTotal aCopy.regs ∧ aCopy.ending = none ∧ cpStamp aCopy.regs = false ∧
    reg aCopy.regs 7 = 0 ∧
    good ((copying 1 [aCopy]).cpPage 0 0 true aCopy) (fun t => decide (t ≠ copying 1 [aCopy])) = true ∧
    cpTotal aCopy.regs ≤ ({ aCopy with pos := 8 } : Cmd).pos ∧ good ((copying 1 [{ aCopy with pos := 8 }]).cpFinish 0 0 { aCopy with pos := 8 })
      (fun t => decide (t ≠ copying 1 [{ aCopy with pos := 8 }])) = true := by decide +kernel
theorem witness_CopyEvents_here : let s := warmed (copying 1 [aCopy]) aCopy.who (.copy 0) [0x20400]
    reg aCopy.regs 6 = 0 ∧ calmB s = true ∧ aCopy.got = [] ∧ (reg aCopy.regs 2).toNat = aCopy.pos + 8 * 1 ∧
    heldWordsB s aCopy.who (.copy 0) (reg aCopy.regs 0 + word aCopy.pos) 1 0x20400 = true ∧
    heldWordsB s aCopy.who (.copy 0) (reg aCopy.regs 1 + word aCopy.pos) 1 0x20800 = true ∧
    (s.cmdsOf .cp 0 0).filter (fun c => !c.finished) = [aCopy] := by decide +kernel
theorem witness_CopyEvents_fails : let c := { aCopy with regs := aCopy.regs.set 1 0x10000000000000 }
    (match (copying 1 [c]).cpPage 0 0 true c with | .error (.trap x _) => decide (x ≠ 0x62) | _ => false) = true := by decide +kernel
/-- A copy to g9 of slot 2 of core 3. -/
def regCopy (pos : Nat) : Cmd :=
  { Cmd.start 2 (placed 0).who 0 0 [0x20400, 0x89, 8, 0, 0, 0, 2, 0, 0, 0] 1 0 with pos := pos }
theorem witness_CopyEvents_register : cpKind (regCopy 0).regs = 2 ∧ (regCopy 0).pos = 0 ∧ cpStamp (regCopy 8).regs = false ∧
    good (((placed 0).setCmds .cp 0 0 [regCopy 0]).cpRegRead 0 0 (regCopy 0)) (fun t => decide (t ≠ (placed 0).setCmds .cp 0 0 [regCopy 0])) = true ∧
    (((placed 0).setCmds .cp 0 0 [aCopy, regCopy 8]).cmdsOf .cp 0 0).find? (fun c => !c.finished && decide (c.op = 2) && decide (cpKind c.regs = 2)) =
      some (regCopy 8) ∧ (regCopy 8).pos ≠ 0 ∧ reg (regCopy 8).regs 7 = 0 ∧ ({ regCopy 8 with ending := some (2, 0, 0) } : Cmd).ending ≠ none ∧
    (((placed 0).setCmds .cp 0 0 [regCopy 8]).placeOf (regCopy 8).who.core (regCopy 8).who.place (regCopy 8).who.rbase (regCopy 8).who.rlen
      (word (fld (reg (regCopy 8).regs 1) 16 16))).1 = some 3 := by decide +kernel
theorem witness_CopyEvents_others :
    ((copying 1 [{ aCopy with op := 5 }]).cmdsOf .cp 0 0).filter (fun c => !c.finished) = [{ aCopy with op := 5 }] ∧
    (copying 1 [{ aCopy with op := 5 }]).saveUnit 0 0 { aCopy with op := 5 } ≠ copying 1 [{ aCopy with op := 5 }] ∧
    ((copying 1 [{ aCopy with op := 6 }]).cmdsOf .cp 0 0).filter (fun c => !c.finished) = [{ aCopy with op := 6 }] ∧
    nextOf ((copying 1 [{ aCopy with op := 6 }]).restoreUnit 0 0 { aCopy with op := 6 }) ≠ some (copying 1 [{ aCopy with op := 6 }]) ∧
    (copying 1 [{ aCopy with finished := true }]).cmdsOf .cp 0 0 = [{ aCopy with finished := true }] ∧
    (copying 1 [{ aCopy with finished := true }, aCopy]).cmdsOf .cp 0 0 = [{ aCopy with finished := true }, aCopy] := by decide +kernel

/-- A mask production, at chunk `n`. -/
def aProd (n : Nat) (r : List Word) : MkProd := { who := (masking 0 0 0).who, regs := r, state := 0, top := 0, chunk := n, count := 0, last := 0, miss := none }
theorem witness_MaskAndFabricEvents_mask : ((masking 0 0 0).setProd 0 0 (some (aProd 0 (mkRegs 0 0 0)))).prodOf 0 0 = some (aProd 0 (mkRegs 0 0 0)) ∧
    0 < mkNch (aProd 0 (mkRegs 0 0 0)).regs ∧ good ((masking 0 0 0).mkChunk (aProd 0 (mkRegs 0 0 0))) (fun _ => true) = true ∧
    (match (masking 0 0 0).mkChunk (aProd 0 ((mkRegs 0 0 0).set 6 0x10000000000000)) with | .error (.trap _ _) => true | _ => false) = true ∧
    (aProd 1 (mkRegs 0 0 0)).chunk = mkNch (mkRegs 0 0 0) ∧
    good ((masking 0 0 0).mkWord (aProd 1 (mkRegs 0 0 0)).who .write (reg (mkRegs 0 0 0) 9)) (fun _ => true) = true := by decide +kernel
theorem witness_MaskAndFabricEvents_maskHere : let r := mkRegs 0 0 0
    let s := warmed ((masking 0 0 0).setProd 0 0 (some (aProd 0 r))) (masking 0 0 0).who .die [0x48000]
    let a := mkChunkAddr r (aProd 0 r).state (aProd 0 r).top 0 0
    calmB s = true ∧ (aProd 0 r).miss = none ∧ heldWordsB s (aProd 0 r).who .die a 8 a.toNat = true ∧
    (List.range 8).all (fun j => decide (s.presAt (a.toNat + 8 * j) = .full)) = true ∧
    heldWordsB s (aProd 1 r).who .die (reg (aProd 1 r).regs 9) 1 0x48200 = true := by decide +kernel
/-- A message of the group's barrier from rank 1. -/
def aMsg (b : FabBody) : FabMsg := { sender := 1, receiver := 0, package := 0, die := 0, ctx := 1, key := aKey, body := b }
theorem witness_MaskAndFabricEvents_fate : (fabric 0x46000 []).fxFate 0 0 (aMsg (.up [])) = .hold ∧
    ({ fabric 0x46000 [] with fxSeq := [(fxSeqKey 0 0 7, 9)] }).fxFate 0 0 (aMsg (.up [])) = .late ∧
    (fabric 0x46000 [aBar]).fxFate 0 0 { aMsg (.up []) with key := { aKey with count := 3 } } = .mismatch aBar ∧
    (fabric 0x46000 [aBar]).fxFate 0 0 (aMsg (.up [])) = .combine aBar aMember [] [] ∧
    (fabric 0x46000 [aBar]).fxFate 0 0 (aMsg (.down [])) = .result aBar aMember [] := by decide +kernel
theorem witness_MaskAndFabricEvents_notice : (fabric 0x46000 [aBar]).fxMatch 0 0 7 4 = some (aBar, aMember) ∧ (fabric 0x46000 []).fxMatch 0 0 7 4 = none ∧
    (({ fabric 0x46000 [aBar] with time := 10000000 }).cmdsOf .fx 0 0).find? ({ fabric 0x46000 [aBar] with time := 10000000 }).fxExpired = some aBar ∧
    aBar.fab = some aMember := by decide +kernel
/-- A receive of this context and the send of context 1 that matches it, of `n` bytes. -/
def pairFab (rank peer : Nat) : FabCmd :=
  { aMember with key := { aKey with barrier := false, mask := 0 }, rank := rank, peer := peer, acc := none }
def aRecv : Cmd := { Cmd.start 4 (fabric 0x46000 []).who 1 0 fxRegs 0 0 with fab := some (pairFab 0 1) }
def aSend (n : Word) : Cmd := { Cmd.start 3 (fabric 0x46000 []).who 0 0 (fxRegs.set 5 n) 1 0 with fab := some (pairFab 1 0) }
theorem witness_MaskAndFabricEvents_pair : [(8, true), (16, false)].all (fun (e : Word × Bool) =>
    let s := (fabric 0x46000 [aRecv]).setCmds .fx 0 1 [aSend e.1]
    decide (s.fxLocalPair 0 0 0 1 = some (aRecv, aSend e.1)) && (decide (reg aRecv.regs 5 = reg (aSend e.1).regs 5) == e.2) &&
      good (s.fxSource 0 1 (aSend e.1)) fun x => x.1.isSome) = true ∧ aRecv.miss = none ∧ (aSend 8).miss = none := by decide +kernel
theorem witness_MaskAndFabricEvents_pairHere : let s := warmed ((fabric 0x46000 [aRecv]).setCmds .fx 0 1 [aSend 8]) (aSend 8).who .die [0x47000]
    calmB s = true ∧ (aSend 8).got = [] ∧ bit (reg (aSend 8).regs 6) 4 = false ∧ (reg (aSend 8).regs 5).toNat = 8 * 1 ∧
    s.fxClear 0 1 (aSend 8) [(reg (aSend 8).regs 3, 8 * 1)] = true ∧ heldWordsB s (aSend 8).who .die (reg (aSend 8).regs 3) 1 0x47000 = true ∧
    s.fxLocalPair 0 0 0 1 = some (aRecv, aSend 8) := by decide +kernel

/-! ### Hypotheses that are met: launches, evictions, saves -/

/-- Slot 0 of core 0 is installed for tenant 3, and its queue 0 has a launch with a REGION of one core. -/
def dispatching (l : Launch) : State :=
  loaded [{ l with base := 0, len := 1 }] ((tenanted { State.reset with mem := tenantMem }).setSlot 0 0
    { Slot.empty.setCsr 0 (mkStatus 3 0 false 0 0) with owner := some 3 })
theorem witness_LaunchEvents_dispatch : ((dispatching (aLaunch 0 0)).select 0 ((dispatching (aLaunch 0 0)).candidates 0)).map (·.1) =
    some (24, { aLaunch 0 0 with base := 0, len := 1 }, 0, 0, 0) := by decide +kernel
theorem witness_LaunchEvents_idle : State.reset.select 0 (State.reset.candidates 0) = none := by decide +kernel
theorem witness_LaunchEvents_aging : State.reset.waiting 3 0 = false ∧ (dispatching (aLaunch 0 0)).waiting 3 0 = true ∧
    ((dispatching (aLaunch 0 0)).queueAt 3 0).since = some 0 ∧
    (let s := (dispatching (aLaunch 0 0)).setQueue 3 0 { (dispatching (aLaunch 0 0)).queueAt 3 0 with since := none }
     s.waiting 3 0 && decide ((s.queueAt 3 0).since = none)) = true ∧ 3 < 128 ∧ (7 : Nat) < 8 := by decide +kernel
theorem witness_LaunchEvents_slots : slotExists 3 2 = true ∧ ((State.reset.setSlot 3 2 { Slot.empty with state := .stopped }).slotAt 3 2).state = .stopped ∧
    (State.reset.slotAt 3 2).state ≠ .stopped ∧
    (let s := State.reset.setSlot 3 2 { Slot.empty with state := .ready, csr := [(0, mkStatus 3 2 false 0 3)] }
     let t := State.reset.setSlot 3 2 { s.slotAt 3 2 with entered := true }
     decide ((s.slotAt 3 2).mode = 3) && !(s.slotAt 3 2).entered && decide ((t.slotAt 3 2).mode = 3) && (t.slotAt 3 2).entered) = true ∧ (6 : Nat) ≤ ({ State.reset with boot := 6 }).boot % 256 ∧ State.reset.boot % 256 < 6 ∧
    recOk ((dispatching (aLaunch 0 0)).tenantRec 3) = true ∧ ((dispatching (aLaunch 0 0)).tenantAt 3).enabled = true ∧
    recOk (State.reset.tenantRec 3) = false ∧ (dispatching (aLaunch 0 0)).residentTaken 3 = false ∧
    (let s := ((dispatching (aLaunch 0 0)).poke 0x401DB 1 1).setSlot 1024 0 { Slot.empty with occupant := .resident, csr := [(0, mkStatus 9 0 false 0 1)] }
     recOk (s.tenantRec 3) && s.residentTaken 3) = true ∧
    ((State.reset.setSlot 3 2 { Slot.empty with state := .ready }).slotAt 3 2).state ≠ .free ∧ ((dispatching (aLaunch 0 0)).slotAt 0 0).state = .free := by decide +kernel

/-- An eviction of core 0 by a deadline, with queue 0 of tenant 3 in a state. -/
def anEvict (d : Nat) (st : EvState) : Evict :=
  { base := 0, len := 1, deadline := d, posted := 0, incoming := none, queues := [(3, 0, st)], evals := 0, cleaned := [], done := false }
/-- The package with that eviction and a launch that has a fibre in slot 1 of core 0. -/
def evicting (d : Nat) (st : EvState) (l : Launch) : State :=
  { (dispatching l).setSlot 0 1 { Slot.empty with state := .ready, occupant := .fibre 3 0 5 0 } with evicts := [anEvict d st] }
theorem witness_EvictionEvents_posting : (11999 : Word).toNat < State.reset.time.toNat + 12000 ∧ State.reset.time.toNat + 12000 ≤ (12000 : Word).toNat ∧
    (evicting 20000 .rtc (aLaunch 1 0)).evicts.any (fun e => !e.done && decide (0 < e.base + e.len) && decide (e.base < 0 + 1)) = true ∧
    (∀ e ∈ (evicting 20000 .rtc (aLaunch 1 0)).evicts, e.done = false → e.base + e.len ≤ 1 ∨ 1 + 4 ≤ e.base) ∧ 1 ≤ 4 ∧ 1 + 4 ≤ 1024 := by
  decide +kernel
theorem witness_EvictionEvents_judged : [(20000, aLaunch 2 1, true, true), (20000, aLaunch 1 0, false, true), (100, aLaunch 1 0, false, false)].all
    (fun (e : Nat × Launch × Bool × Bool) => let s := evicting e.1 .rtc { e.2.1 with expect := 0 }
      decide (s.evictFinish.evicts[0]? = some (anEvict e.1 .rtc)) && (s.canFinish 3 0 e.1 == e.2.2.1) && (s.canSave 3 0 e.1 == e.2.2.2)) = true := by
  decide +kernel
theorem witness_EvictionEvents_states : [(EvState.ckpt, 20000, true), (.ckpt, 100, false), (.discard, 100, false), (.finished, 20000, true)].all
    (fun (e : EvState × Nat × Bool) => let s := evicting e.2.1 e.1 (aLaunch 1 0)
      decide (s.evictFinish.evicts[0]? = some (anEvict e.2.1 e.1)) && (s.canSave 3 0 e.2.1 == e.2.2)) = true := by decide +kernel
theorem witness_EvictionEvents_forced : (evicting 9 .finished (aLaunch 1 0)).evicts[0]? = some (anEvict 9 .finished) ∧ EvState.rtc ≠ .finished := by
  decide +kernel
/-- A record with slot 0 of core 0 to come, with words to write, or with its sections written. -/
def saving (v : Save) : State := { tenanted { State.reset with mem := tenantMem } with saves := [v] }
theorem witness_EvictionEvents_save : (saving { aSave with buf := [1], complete := false }).saveAt 0 = some { aSave with buf := [1], complete := false } ∧
    (saving { aSave with pending := [0], complete := false }).saveReady 0 (0 * 16 + 0) = true ∧
    aSave.pending = [] ∧ aSave.buf = [] ∧ aSave.miss = none ∧ aSave.written ≠ 0 := by decide +kernel
/-- A record of 256 bytes that lacks its complete bit, in pages that the copy engine of cluster 0 has cached for the hypervisor. -/
def savingHere : State :=
  let v : Save := { aSave with complete := false }
  let s := (machine 0xFF [] [] []).setSlot 1040 0 (Slot.empty.setCsr 0x180 0x10000)
  let s := { s with saves := [v], tenants := [(3, { Tenant.empty with enabled := true, installed := true })] }
  warmed s s.saver (.copy 0) [0x44300]
theorem witness_EvictionEvents_complete : savingHere.saveAt 0 = some { aSave with complete := false } ∧ aSave.written < 2 ^ 40 ∧ calmB savingHere = true ∧
    heldWordsB savingHere savingHere.saver (.copy 0) 0x44300 32 0x44300 = true ∧ savingHere.saver.acct.toNat ≠ aSave.tenant ∧
    good (savingHere.saveEnds { aSave with complete := false }) (fun _ => true) = true := by decide +kernel
/-- A saved fibre of slot 0, and its restore. -/
def aFibre : SavedFibre := { core := 0, number := 0, slot := { Slot.empty with occupant := .fibre 3 0 5 0 }, lm := [] }
def aRestore : Restore := { tenant := 3, queue := 0, launch := aLaunch 1 0, todo := [aFibre], cores := [], addr := 0x44300, len := 256, started := true, ctx := (0, 0, 0) }
theorem witness_EvictionEvents_restore : ({ dispatching (aLaunch 0 0) with restores := [aRestore] }).restores[0]? = some aRestore ∧
    ({ dispatching (aLaunch 0 0) with restores := [aRestore] }).restoreNext aRestore = some (aFibre, 0, 0) := by decide +kernel
theorem witness_EvictionEvents_cleaning : (evicting 9 .rtc (aLaunch 1 0)).evictOver 0 = some (anEvict 9 .rtc) ∧
    (evicting 9 .rtc (aLaunch 1 0)).mayClean (anEvict 9 .rtc) 0 0 = true ∧ (anEvict 9 .rtc).incoming = none ∧
    (anEvict 9 .rtc).cleaned.length + 1 ≠ 8 * (anEvict 9 .rtc).len := by decide +kernel

/-! ### Hypotheses that are met: links, the host, power -/

/-- A flit that an up link has sent. -/
def aFlit : Flit := { channel := 1, crcOk := true, bytes := 64, exp32 := [], exp16 := [], seq := 0, dst := 1, coden := none }
/-- A configuration record with a package index, timeouts and links. -/
def aConfig : ConfigRecord :=
  { signatureOk := true, major := 1, pcieTimeoutUs := 50000, priTimeoutUs := 1000, packageIndex := 2, routes := [], links := 1, ports := 1,
    portRanges := [(0, 0, 134217727)], powerLimit := 1200, digest := 7 }
theorem witness_LinkEvents : ({ State.reset with config := some aConfig }).config = some aConfig ∧ aConfig.links.getLsbD (0 * 4 + 0) = true ∧
    (State.reset.linkAt 0 0).state ≠ 2 ∧
    ((State.reset.setLink 0 0 { Link.down with state := 2 }).linkAt 0 0).state = 2 ∧ State.reset.cmds = [] ∧
    ((State.reset.setLink 0 0 { Link.down with state := 2 }).linkAt 0 0).unacked = [] ∧ aFlit.channel < 4 ∧
    ((State.reset.setLink 0 0 { Link.down with state := 2, unacked := [aFlit] }).linkAt 0 0).unacked.filter (fun f => decide (f.channel = 1)) ≠ [] ∧
    ((State.reset.setLink 0 0 { Link.down with dirs := [(1, { LinkDir.start with flits := 256 })] }).linkAt 0 0 |>.dirAt 0).flits < 256 ∧
    256 ≤ ((State.reset.setLink 0 0 { Link.down with dirs := [(1, { LinkDir.start with flits := 256 })] }).linkAt 0 0 |>.dirAt 1).flits := by
  decide +kernel
/-- The mailbox of tenant 3 is enabled, and page request 4 of it stands for the sleeper of slot 2 of core 3. -/
def hosting : State :=
  { asleep 3 with tenants := [(3, { Tenant.empty with enabled := true, mailbox := 0x60000 })], pris := [⟨3, 3, 4, 0, 0, .fibre 3 2, 0x1000⟩], boot := 6 }
theorem witness_HostEvents : hosting.barOk 3 0x8 = true ∧ hosting.barOk 3 0x8008 = true ∧ hosting.barOk 3 4 = false ∧
    hosting.pris.find? (fun p => decide (p.tenant = 3) && decide (p.index = 4)) = some ⟨3, 3, 4, 0, 0, .fibre 3 2, 0x1000⟩ ∧
    (hosting.tenantAt 3).gen = 0 ∧ ((hosting.setTenant 3 { Tenant.empty with gen := 1 }).tenantAt 3).gen ≠ 0 ∧
    (hosting.slotAt 3 2).state = .asleep ∧ (hosting.slotAt 3 2).miss = some ⟨0x1000, .read, 3, 0, 0, 0⟩ ∧ State.reset.slots = [] ∧
    State.reset.boot % 256 < 2 ∧ ¬ ((4 : Nat) = 0 ∧ hosting.boot % 256 < 2) ∧
    ((∀ e ∈ hosting.slots, ¬ (e.2.occupant = .resident ∧ e.2.tenant.toNat = 3))) ∧ (hosting.tenantAt (4 - 1)).enabled = true ∧ (hosting.tenantAt (5 - 1)).enabled = false := by
  decide +kernel
theorem witness_PowerAndMemoryEvents : configOk aConfig = true ∧ configOk { aConfig with signatureOk := false } = false ∧
    ({ State.reset with frozen := true }).frozen = true ∧ State.reset.agenda = [] ∧ State.reset.thermal = none ∧
    ({ State.reset with thermal := some 5 }).thermal = some 5 ∧ 5 + 10000 ≤ ({ State.reset with time := 10005 }).time.toNat ∧
    State.reset.time.toNat < 5 + 10000 ∧ isNear (7 * 65536) = true ∧ isFar (farBase + 7 * 65536) = true ∧ isNear 0x18008 = true ∧
    (State.reset.setPres 0x70000 .empty).pageFull (7 * 65536) 65536 = false ∧ (State.reset.setPres 0x70000 .empty).pageFull (6 * 65536) 65536 = true ∧
    nearPage (7 * 65536) 16 = true ∧ nearPage (32 * 65536) 21 = true ∧ nearPage (16384 * 65536) 30 = true ∧ nearPage (16384 * 65536) 16 = true ∧
    farPage (farBase + 7 * 65536) 16 = true ∧ farPage (farBase + 32 * 65536) 21 = true ∧ farPage (farBase + 16384 * 65536) 30 = true ∧
    State.reset.sound (farBase + 7 * 65536) 65536 = true ∧ ({ State.reset with poison := [farBase + 7 * 65536 + 1] }).sound (farBase + 7 * 65536) 65536 = false ∧
    State.reset.badTags = [] ∧ 0x18008 + 8 ≤ 7 * 65536 ∧ isNear 0x18008 = true ∧ isFar (farBase + 4096) = true ∧ State.reset.sound (7 * 65536) 65536 = true :=
  by decide +kernel
theorem witness_PowerAndMemoryEvents_canonical : State.reset.canonical := State.reset_canonical


/-! ### Single steps and operations, with results from the spec's own worked examples -/

/-- The spec's worked encodings (chapters 1, 3, 4, 9, 10 and 23, and the examples of the engine chapters). -/
theorem test_worked_encodings_core : decodesAll [
    (0x40A60149, .ld 5 6 2 4 2 0 1), (0x50642833, .amoAdd 3 4 5 6 3), (0x2C485FFD, .bNe 4 5 0xFFD), (0x6048D400, .vadd 1 2 3 2 2),
    (0x5410001A, .bar 3 2), (0x04642800, .add 3 4 5), (0x80000000, .bsAttach 0 0), (0x54000046, .fence 0 4 6), (0x08E84801, .mulh 7 8 9),
    (0x0CA6FFFC, .addi 5 6 0xFFFC), (0x1C648007, .srai 3 4 7), (0x2D800004, .bVs 4), (0x32000010, .jal 16), (0x38640046, .fcvt 3 4 0 6),
    (0x3C642980, .ffma 3 4 5 6), (0x84642801, .rndHi 3 4 5), (0x5C201412, .csrr 5 0x12), (0x5C330012, .csrw 6 0 0x12),
    (0x5CA20000, .tlbinv 4 0), (0x5CD00C00, .remptyV 3), (0x40A6008C, .ld 5 6 1 0 3 0 0), (0x44E4FFB9, .st 7 4 0x1FF 3 2 1),
    (0x4906004C, .lds 8 6 0 4), (0x4CBC012D, .stw 5 28 2 2)] = true := by decide
theorem test_worked_encodings_engines : decodesAll [
    (0x50642A74, .amoCas 3 4 5 6 4), (0x5420241A, .barArrive 9 3 2), (0x5434801A, .barWait 9 3 2), (0x54438000, .arrive 7),
    (0x5453A000, .expect 7 8), (0x5463A000, .waitc 7 8), (0x5473A000, .cwinit 7 8), (0x58029988, .putrG 5 6 12 2), (0xAC531C00, .mxStep 6 7),
    (0x5467B400, .waitc 15 13), (0x540000A4, .fence 1 2 4), (0x540000AC, .fence 1 2 12), (0x70960000, .vbcast 2 11 0), (0x74620100, .vld 1 17 0 2),
    (0x64448402, .vfmul 1 1 2 0 2), (0x74620101, .vst 1 17 0 2), (0xB0098000, .cpErw 19 0), (0xB0078007, .cpErw 15 7), (0xB0205400, .cpGo 0 21),
    (0xA4221400, .frPush 4 5), (0xB4203000, .fxGo 12)] = true := by decide
theorem test_worked_encodings_refused : [0x04642828, 0x54000346, 0x54000076, 0xC0000000, 0x49060048, 0x5802998A].all
    (fun w => (decode .compute w).toOption.isNone) = true := by decide

/-- Register `d` and FPCSR after an instruction on a fibre of a package after reset. -/
def gives (i : Instr) (d : BitVec 5) (regs : List (BitVec 5 × Word)) (fpcsr : Word) : Option (Word × Word) :=
  (nextOf (exec i (fibre regs [(0x012, fpcsr)]))).map fun t => (t.me.gv d, t.me.csrv 0x012)

theorem test_borderline_divide : gives (.div 1 2 3) 1 [(2, 7)] 0 = some (0xFFFFFFFFFFFFFFFF, 0) ∧ gives (.rem 1 2 3) 1 [(2, 7)] 0 = some (7, 0) ∧
    gives (.div 1 2 3) 1 [(2, 0x8000000000000000), (3, 0xFFFFFFFFFFFFFFFF)] 0 = some (0x8000000000000000, 0) ∧
    gives (.rem 1 2 3) 1 [(2, 0xFFFFFFFFFFFFFFF9), (3, 2)] 0 = some (0xFFFFFFFFFFFFFFFF, 0) := by decide +kernel
theorem test_borderline_integer : gives (.mulhu 1 2 3) 1 [(2, 0xFFFFFFFFFFFFFFFF), (3, 0xFFFFFFFFFFFFFFFF)] 0 = some (0xFFFFFFFFFFFFFFFE, 0) ∧
    gives (.sraW 1 2 3) 1 [(2, 0x80000000), (3, 4)] 0 = some (0xFFFFFFFFF8000000, 0) ∧
    gives (.srlW 1 2 3) 1 [(2, 0x80000000), (3, 4)] 0 = some (0x08000000, 0) ∧ gives (.clz 1 2) 1 [] 0 = some (64, 0) ∧
    gives (.bext 1 2 3) 1 [(2, 0xABCD00), (3, 0x308)] 0 = some (0xBCD, 0) ∧
    gives (.bins 1 2 3) 1 [(1, 0xFFFFFFFFFFFFFFFF), (2, 5), (3, 0x104)] 0 = some (0xFFFFFFFFFFFFFF5F, 0) := by decide +kernel
theorem test_borderline_convert : gives (.fcvt 1 2 0 6) 1 [(2, 0x4F32D05E)] 0 = some (0x7FFFFFFF, 0x1000) ∧
    gives (.fcvt 1 2 0 6) 1 [(2, 0xC0200000)] 0 = some (0xFFFFFFFFFFFFFFFE, 0x100) ∧ gives (.fcvt 1 2 0 7) 1 [(2, 0xBF800000)] 0 = some (0, 0x1000) ∧
    gives (.fcvt 1 2 6 0) 1 [(2, 16777217)] 0 = some (0x4B800000, 0x100) ∧ gives (.fcvt 1 2 6 0) 1 [(2, 16777217)] 2 = some (0x4B800001, 0x102) := by
  decide +kernel
theorem test_borderline_float : gives (.fmin 1 2 3) 1 [(2, 0x80000000)] 0 = some (0x80000000, 0) ∧
    gives (.fmin 1 2 3) 1 [(2, 0x80000001), (3, 0x3F800000)] 8 = some (0x80000000, 0x308) ∧
    gives (.flt 1 2 3) 1 [(2, 0x7FC00000), (3, 0x3F800000)] 0 = some (0, 0x1000) := by decide +kernel
theorem test_jalr_target_first : (nextOf (exec (.jalr 5 5 2) (fibre [(5, 0x1000)] []))).map (fun t => (t.me.pc, t.me.gv 5)) = some (0x1008, 4) := by
  decide +kernel
theorem test_philox : gives (.rndLo 1 2 3) 1 [] 0 = some (0xE169C58D6627E8D5, 0) ∧ gives (.rndHi 1 2 3) 1 [] 0 = some (0x9B00DBD8BC57AC4C, 0) := by
  decide +kernel

/-- R148's conversions into E4M3: the code, and the flags. -/
theorem test_conversions_into_e4m3 : [(0x43960000, 0x79, 0x100), (0x43E60000, 0x7E, 0x100), (0x43E80000, 0x7E, 0x100), (0x43EB0000, 0x7E, 0x500),
    (0x7F800000, 0x7E, 0x400), (0xFFC00000, 0xFF, 0), (0xBA83126F, 0x81, 0x300)].all (fun (e : Word × Word × Word) =>
      decide (gives (.fcvt 1 2 0 4) 1 [(2, e.1)] 0 = some (e.2.1, e.2.2))) = true := by decide +kernel
theorem test_conversions_into_narrow : Fmt.e2m1.conv 0 false (num 0x7FC00000) = (7, flNV ||| flNoNan) ∧
    Fmt.e3m2.conv 0 false (num 0x41E80000) = (0x1F, flNX) ∧ Fmt.e3m2.conv 0 false (num 0x41F00000) = (0x1F, flOF ||| flNX) := by decide +kernel
theorem test_exp2_integers : [(0x42FE0000, 0x7F000000), (0xC3150000, 0x00000001), (0x7F800000, 0x7F800000), (0xFF800000, 0)].all
    (fun (e : Word × Word) => decide (gives (.fexp2 1 2) 1 [(2, e.1)] 0 = some (e.2, 0))) = true ∧
    gives (.fexp2 1 2) 1 [(2, 0x43000000)] 0 = some (0x7F800000, 0x500) := by decide +kernel

/-- The logits of "A top-k worked through" in v9, and the first token in v10. -/
def logits : List (Nat × Nat) := [(3, 0x40200000), (7, 0x40200000), (12, 0x40800000), (20, 0x3F400000), (21, 0x7FC00000), (25, 0x40400000), (30, 0x40800000), (31, 0x3F800000)]
theorem test_topk : (nextOf (exec (.vtopk 8 9 10 2) (State.reset.setMe (((Slot.empty.wrV 9 (BitVec.ofNat 1024 (((List.range 32).map fun j =>
      ((logits.find? fun e => e.1 = j).map (·.2)).getD 0xBF800000).foldr (fun e a => e + a * 2 ^ 32) 0))).wrV 10 4096).wrK 2 0xBFFFFFFF)))).map
    (fun t => (List.range 17).map fun j => ((t.me.vv 8).extractLsb' (32 * j) 32).toNat) =
    some [0x40800000, 0x40400000, 0x40200000, 0x40200000, 0x3F800000, 0x3F400000, 0xBF800000, 0xBF800000,
      0x100C, 0x1019, 0x1003, 0x1007, 0x101F, 0x1014, 0x1000, 0x1001, 0] := by decide +kernel

/-- "One column worked through": codes i mod 3 and activations i − 16 give the group value 3. -/
theorem test_matrix_column : (permC (sortEntry 2 ((List.range 32).map (· % 3))) 1, permC (sortEntry 2 ((List.range 32).map (· % 3))) 2,
      permC (sortEntry 2 ((List.range 32).map (· % 3))) 3, permPi (sortEntry 2 ((List.range 32).map (· % 3))) 10) = (11, 22, 32, 30) ∧
    (groupValue 2 4 (sortEntry 2 ((List.range 32).map (· % 3))) 0x000000113F00BF00 (some ((List.range 32).map (fun (i : Nat) => (i : Int) - 16), 0))).map
      (fun g => (Fmt.f32.conv 0 false g).1) = some 0x40400000 := by decide +kernel
/-- "A merge worked through": (3, 2, 6) and (1, 4, 8) give (3, 3, 8), and 8/3 rounds to 0x402AAAAB. -/
theorem test_merge : let x : Triple := { m := 0x40400000, l := 0x40000000, o := [0x40C00000], status := 0, voided := false }
    let y : Triple := { m := 0x3F800000, l := 0x40800000, o := [0x41000000], status := 0, voided := false }
    let z : Triple := { m := 0x40400000, l := 0x40400000, o := [0x41000000], status := 0, voided := false }
    saddle false x y = z ∧ saddle false y x = z ∧ z.o.map (normElem false false z) = [0x402AAAAB] := by decide +kernel

/-! ### Hypotheses that are met: a linear fold state of many words, in one cached page -/

/-- Page `p`, the first GiB of near memory, is the one that a structure holds first for an issuer: it serves every address below 2^30. -/
theorem held_page {s : State} {w : Who} {u : TlbUnit} {k : Nat × Nat} {p : Page} (hk : (tlbPath u w.core).head? = some k)
    (ht : tabGet [] s.tlb k.1 = [p]) (hp : p.tgt = 0 ∧ p.self = false ∧ p.r = true ∧ p.w = true ∧ p.u = true ∧ p.tenant = w.tenant ∧
      p.bits = 30 ∧ p.vpage = 0 ∧ p.base = 0) {va : Word} (hi : va.toNat < 2 ^ 30) : Held s w u va va.toNat := by
  obtain ⟨h1, h2, h3, h4, h5, h6, h7, h8, h9⟩ := hp
  refine ⟨by omega, k, hk, p, ?_, .inl ⟨h1, ?_⟩, h2, h3, h4, h5, ?_⟩
  · have : va.toNat / 2 ^ 30 = 0 := Nat.div_eq_of_lt hi
    simp [ht, Page.covers, h6, h7, h8, this] <;> omega
  · have : va.toNat % 2 ^ 37 = va.toNat := Nat.mod_eq_of_lt (by omega)
    simp only [isNear, Bool.and_eq_true, decide_eq_true_eq]
    omega
  · rw [h9, h7, Nat.mod_eq_of_lt hi, Nat.zero_add]

/-- The page that serves the fold state. -/
def foldPage : Page :=
  { tenant := 0xFF, vpage := 0, bits := 30, tgt := 0, base := 0, self := false, r := true, w := true, x := true, u := true, atom := 0,
    line := 0, parg := 0, hashed := false, replica := false, shared := false }
/-- `atDoing` with that page cached. -/
def folding (op : Nat) : State := { atDoing op 0 0 with tlb := [(10000, [foldPage])] }
theorem witness_AttentionEvents_linear : (folding 6).active .at 0 0 = some (atCmd 6 0 0) ∧ (atCmd 6 0 0).op = 6 ∧ Calm (folding 6) ∧
    HeldWords (folding 6) (atCmd 6 0 0).who .attn (reg (atCmd 6 0 0).regs 10)
      ((((folding 6).atCtx 0 0).d * ((folding 6).atCtx 0 0).d + ((folding 6).atCtx 0 0).d) / 2) 0x54000 := by
  have h : (folding 6).active .at 0 0 = some (atCmd 6 0 0) ∧ (atCmd 6 0 0).op = 6 ∧ ((folding 6).atCtx 0 0).d = 64 ∧
      reg (atCmd 6 0 0).regs 10 = 0x54000 ∧ calmB (folding 6) = true ∧ (atCmd 6 0 0).who.core = 0 ∧ (atCmd 6 0 0).who.tenant = 0xFF ∧
      tabGet [] (folding 6).tlb 10000 = [foldPage] := by decide +kernel
  obtain ⟨h1, h2, h3, h4, h5, h6, h7, h8⟩ := h
  refine ⟨h1, h2, of_calmB h5, ?_⟩
  rw [h3, h4]
  refine ⟨by decide, fun i hi => ?_⟩
  have e : (0x54000 + word (8 * i) : Word).toNat = 0x54000 + 8 * i := by
    simp [word, BitVec.toNat_add, BitVec.toNat_ofNat]; omega
  rw [← e]
  refine held_page (k := (10000, Config.atTlbSize)) (by rw [h6]; decide) h8 ?_ (by rw [e]; omega)
  rw [h7]; decide
theorem witness_AttentionEvents_fold : (folding 5).active .at 0 0 = some (atCmd 5 0 0) ∧ (atCmd 5 0 0).op = 5 ∧
    (atCmd 5 0 0).heads[(atCmd 5 0 0).pos]? = some ⟨0, 1, 0, 0, 64⟩ ∧
    good ((folding 5).atFoldBlock 0 0 (atCmd 5 0 0) ⟨0, 1, 0, 0, 64⟩) (fun _ => true) = true := by decide +kernel

/-- R389: the sources stand by rising number, and R391 reads the attestation log as the host port's. -/
theorem test_sources : ((sources.map Source.number).zip ((sources.map Source.number).drop 1)).all (fun e => decide (e.1 < e.2)) = true ∧
    ({ State.reset with frozen := true, attest := [7] } : State).scan.getLast?.map (fun e => (e.1, e.2.drop (e.2.length - 2))) = some (0x0F00, [.boot 0, .log [7]]) := by decide +kernel

/-! ### Hypotheses that are met: order, streams, and what ends late -/

/-- Slot 1 of core 0 waits at the frame engine for its turn, on the context of `framedHere`, received before all that follows. -/
def behind : State :=
  let s := framedHere 1 1 15 0
  { s.setSlot 0 1 { s.me with state := .parked, wait := .frTurn, seq := 0 } with seq := 1 }
theorem witness_FrameStack_order : (let s := framedHere 1 1 15 0
      !s.me.resuming && s.slots.all (fun e => !e.2.frQueued) && decide (s.unwinds = []) && !s.frBefore s.who s.seq) = true ∧
    behind.me.resuming = false ∧ behind.frBefore behind.who behind.seq = true := by decide +kernel
/-- A thread that comes back to a completion word that has become VOID; one that waits for it. -/
theorem witness_CompletionWords_void : (let s := phased.setMe { phased.me with reply := .voided }
      readyB s [.g 4, .g 5] && s.me.sawVoid && !s.me.flipped) = true ∧ phased.me.sawVoid = false ∧
    [(Presence.empty, 0), (.full, 2 ^ 57)].all (fun e => reaches (counted e.1 e.2 0) [.g 4, .g 5] (cwReq (counted .full 0 0) .readWrite)
      (gv (counted .full 0 0) 4) fun _ a _ => decide ((counted e.1 e.2 0).presAt a ≠ .full) ||
        decide (fld (word ((counted e.1 e.2 0).peek a 8)) 57 7 ≠ 0)) = true := by decide +kernel
theorem witness_BarriersAndFences_failed : (posted (.host .unsupported)).me.reply = .host .unsupported ∧
    ((4 : BitVec 4).extractLsb' 0 2 = 0 ∧ (0 : BitVec 1) = 0) := by decide

/-- An outstanding command of the context writes the headers and the tree masks that a command reads. -/
def attendingLate : State :=
  attending [{ Cmd.start 5 (attending []).who 0 0 (atRegs.set 10 0x50000) 1 0 with heads := [⟨0, 1, 0, 0, 64⟩] }]
theorem witness_AttentionCommands_stream : [[(reg atRegs 5, 64)], [(gv attendingLate 6, 16)]].all (fun l =>
    !(attendingLate.streamOf .at 0 0 attendingLate.who.core attendingLate.who.slot).all
      (fun e => attendingLate.apartIn .attn e.who attendingLate.who e.atWrites l)) = true ∧
    (attendingHere.streamOf .at 0 0 attendingHere.who.core attendingHere.who.slot) = [] ∧
    good (attendingLate.atSpace (0, 0)) (fun _ => true) = true ∧ good (attendingLate.atCheck (0, 0) atRegs) (fun _ => true) = true := by
  decide +kernel
/-- The page of the B-slice of core 0 at byte `x` is invalid. -/
def broken (x : Nat) : State := { matrixed 1 0 MxCore.empty with badHash := [(bsBase + x / 65536 * 65536, [])] }
theorem witness_MatrixCommands_codes : let r := (broken 0).snap .mx 0 0 8
    mxRange r 1 0 false = none ∧ (codeReads r 1 0).find? ((broken 0).bsBad 0) = some 0 ∧
    (∀ o ∈ codeReads r 1 0, (broken 65536).bsBad 0 o = false) := by decide +kernel
theorem witness_MatrixCommands_runs : ((stepping (some aStep) none).mxAt 0).running ≠ none := by decide +kernel

/-- A copy of the stream still writes into the record. -/
def restoringLate : State :=
  (restoring 0x44300).setCmds .cp 0 0 [{ aCopy with regs := aCopy.regs.set 1 0x44380 }]
theorem witness_CopyCommands_stream : (restoringLate.streamOf .cp 0 0 restoringLate.who.core restoringLate.who.slot).all (fun e =>
      apart ((restoringLate.cpLeft 0 e).1 ++ (restoringLate.cpLeft 0 e).2 ++ restoringLate.spans e.who (.copy 0) (cpWord e.regs))
        (restoringLate.spans restoringLate.who (.copy 0) [(0x44300, 256)])) = false ∧
    restoringHere.streamOf .cp 0 0 restoringHere.who.core restoringHere.who.slot = [] ∧
    (restoring 0x44300).saves.find? (fun v => decide (v.tenant = 3 ∧ v.queue = 0 ∧ v.serial = 5 ∧ v.complete = true)) = some aSave ∧
    (restoring 0x44300).saves.find? (fun v => decide (v.tenant = 3 ∧ v.queue = 0 ∧ v.serial = 6 ∧ v.complete = true)) = none := by
  decide +kernel
/-- A receive of the stream still writes the group table. -/
def fabricLate : State := fabric 0x46000 [{ aBar with op := 4, regs := (fxRegs.set 4 0x46000).set 5 64 }]
theorem witness_FabricCommands_stream : (fabricLate.streamOf .fx 0 0 fabricLate.who.core fabricLate.who.slot).all (fun e =>
      fabricLate.apartIn .die e.who fabricLate.who e.fxRanges (tableRange fxRegs)) = false ∧ (fxUses 5).all (fxRegOk fxRegs false) = true ∧
    [0, 0x46100].all (fun mask => decide ((fabricHere mask).streamOf .fx 0 0 (fabricHere mask).who.core (fabricHere mask).who.slot = [])) = true := by
  decide +kernel

theorem witness_WaitsEnd_input : (let s := { parked (.input 0) State.reset with seq := 9 }
      (s.slotAt 3 2).wait = .input 0 ∧ s.waitOver 3 2 = true ∧ (s.setPres 0 .empty).waitOver 3 2 = false) := by decide +kernel
theorem witness_PagerEvents_preempted : (let s := (asleep 3).setSlot 3 2 { (asleep 3).slotAt 3 2 with preempted := true }
      (s.slotAt 3 2).onPager && decide ((s.slotAt 3 2).state = .asleep) && (s.slotAt 3 2).preempted) = true ∧
    ((framing .miss).slotAt 3 2).wait = .frame [0] .miss ∧ ((framing .miss).slotAt 3 2).mode ≠ 3 := by decide +kernel

/-- `folding`, over the frames of `frameMem`: frame 1 holds the keys of the block, and the query rows are its own. -/
def seeing (op : Nat) : State :=
  let s := folding op
  let s := { s with mem := (frameMem.filter (fun (e : Host.Cell) => decide (0x40000 ≤ e.1) && decide (e.1 < 0x44000))).foldl (fun (m : List Host.Cell) (e : Host.Cell) => tabPut 0 m e.1 e.2) s.mem }
  let s := s.setActive .at 0 0 { atCmd op 0 0 with who := { (atCmd op 0 0).who with ftb := 0x40000, ctxid := 1 } }
  s.setAt 0 0 { s.atCtx 0 0 with frame := 1, ctxid := 1, ftb := 0x40000, q := [List.replicate 64 0x3F80], qpos := 5 }
def seen (op : Nat) : Cmd := { atCmd op 0 0 with who := { (atCmd op 0 0).who with ftb := 0x40000, ctxid := 1 } }
theorem witness_AttentionEvents_values : ∀ op ∈ [3, 5], (seeing op).active .at 0 0 = some (seen op) ∧ ∃ fr u,
    (seeing op).frames ((if op = 3 then ((seeing op).atCtx 0 0).who (seen op).who else (seen op).who)) 1 1 = .ok (fr, u) ∧
      fr.isSome = true ∧ BlockHere u (seen op) ⟨0, 1, 0, 0, 64⟩ 0x50000 ∧ ((seeing op).atCtx 0 0).triples[0]? = some (.masked 64) ∧
      (Triple.masked 64).o.length = atD (seen op).regs ∧ (((seeing op).atCtx 0 0).q.getD 0 []).length = atD (seen op).regs := by
  intro op hop
  have h : good ((seeing op).frames ((if op = 3 then ((seeing op).atCtx 0 0).who (seen op).who else (seen op).who)) 1 1)
      (fun x => x.1.isSome && calmB x.2 && decide (tabGet [] x.2.tlb 10000 = [foldPage])) = true ∧ (seeing op).active .at 0 0 = some (seen op) ∧
      (seen op).who.core = 0 ∧ (seen op).who.tenant = 0xFF ∧ fld (reg (seen op).regs 6) 32 32 = 0x4100 ∧ reg (seen op).regs 5 = 0x50000 ∧
      atRegOk (seen op).regs 0 = true ∧ atRegOk (seen op).regs 5 = true ∧ atRegOk (seen op).regs 6 = true ∧
      (64 + 16 * atH (seen op).regs + 63) / 64 * 64 + 128 * atH (seen op).regs * atD (seen op).regs * kvBytes (atFmt (seen op).regs) ≤ 0x4100 ∧
      ((seeing op).atCtx 0 0).triples[0]? = some (.masked 64) ∧ (Triple.masked 64).o.length = atD (seen op).regs ∧
      (((seeing op).atCtx 0 0).q.getD 0 []).length = atD (seen op).regs := by
    revert op; decide +kernel
  obtain ⟨h1, h2, h3, h4, h5, h6, h7, h8, h9, h10, h11⟩ := h
  obtain ⟨⟨fr, u⟩, hx, hy⟩ := of_good h1
  simp only [Bool.and_eq_true, decide_eq_true_eq] at hy
  refine ⟨h2, fr, u, hx, hy.1.1, ⟨h7, h8, h9, by decide, by decide, by decide, by rw [h5]; exact h10, of_calmB hy.1.2, fun o ho => ?_⟩, h11⟩
  rw [h5] at ho
  have e : (reg (seen op).regs 5 + word ((0 : Nat) * fld (reg (seen op).regs 6) 32 32 + o)).toNat = 0x50000 + o := by
    rw [h6, Nat.zero_mul, Nat.zero_add]; simp [word, BitVec.toNat_add, BitVec.toNat_ofNat]; omega
  rw [← e]
  refine held_page (k := (10000, Config.atTlbSize)) (by rw [h3]; decide) hy.2 ?_ (by rw [e]; omega)
  rw [h4]; decide

/-- Blocks of eight-bit activations, of floating ones, and of zeros are finite; one with an infinite element is not. -/
theorem witness_MatrixEvents_blocks : BlockInts 0 false (fun i => i) (fun i => (BitVec.ofNat 8 i).toInt) 0 ∧
    BlockInts 2 false (fun _ => 0) (fun _ => 0) 0 ∧
    (∀ n m k, Fmt.bf16.decode 0x7F80 ≠ .fin n m k) ∧ (∃ s m e, Fmt.bf16.decode 0x3F80 = .fin s m e) := by
  have h0 : Fmt.bf16.decodeFlush (false && decide ((2 : Nat) = 1)) 0 = .fin false 0 (-133) := by decide
  have h1 : Fmt.bf16.decode 0x7F80 = .inf false := by decide
  refine ⟨⟨fun _ => ⟨rfl, fun _ _ => rfl⟩, fun h => absurd rfl h⟩, ⟨fun h => absurd h (by decide), fun _ => ?_⟩, ?_, ⟨false, 128, -7, by decide⟩⟩
  · exact ⟨fun _ => false, fun _ => 0, fun _ => -133, fun _ _ => h0, .inl fun _ _ => ⟨rfl, rfl⟩⟩
  · intro n m k h; rw [h1] at h; cases h
theorem witness_MatrixEvents_broken : (List.range (mxN soloStep.regs)).find? (fun n => (broken 0).bsBad 0 (16384 * n + (reg soloStep.regs 4).toNat)) =
    some 0 := by decide +kernel
theorem witness_MatrixEvents_waits : good (((soloed true).setPres 0x20408 .empty).aBlocks soloStep 0 0 (bandRows (mxM soloStep.regs) 0))
    (fun x => x.1.isNone) = true := by decide +kernel

theorem witness_CopyEvents_word : (let c := { aCopy with regs := aCopy.regs.set 7 0x20C00, owed := 8 }
      let s := (copying 1 [c]).poke 0x20C00 8 (2 ^ 32 * 8)
      good (s.cpPay 0 0 c) (fun t => decide (t ≠ s))) = true ∧
    (let c := { aCopy with ending := some (1, 6, 0) }
     good ((copying 1 [c]).cpVoidPage 0 0 true c) (fun t => decide (t ≠ copying 1 [c]))) = true ∧
    (let c := { aCopy with regs := aCopy.regs.set 7 0x20C00, miss := some ⟨0x20C00, .readWrite, 3, 0, 0, 0⟩ }
     let s := copying 1 [c]
     decide (s.missed .cp 0 0 = some c) && decide (s.saves = []) && decide (reg c.regs 7 ≠ 0)) = true := by decide +kernel
theorem witness_CopyEvents_restores : (let c := { aCopy with op := 6 }
      let s := { copying 1 [c] with restores := [{ aRestore with started := false, ctx := (0, 0, 1) }] }
      good (s.readSections c.who (.copy 0) 0x44300 256 17 256) fun _ => true) = true ∧
    ([{ aRestore with started := false, ctx := (0, 0, 1) }, { aRestore with todo := [], ctx := (0, 0, 1) }].all (fun (r : Restore) =>
      decide (({ copying 1 [{ aCopy with op := 6 }] with restores := [r] } : State).restores.find? (fun r => decide (r.ctx = (0, 0, aCopy.id))) =
        some r))) = true := by decide +kernel
theorem witness_CopyEvents_two : (copying 1 [{ aCopy with finished := true }, { aCopy with finished := true }]).cmdsOf .cp 0 0 =
    [{ aCopy with finished := true }, { aCopy with finished := true }] ∧ ((fabric 0x46000 [{ aBar with finished := true }]).cmdsOf .fx 0 0) =
      [{ aBar with finished := true }] := by decide +kernel

/-- A receive of this context from rank 1, which stands in package 1, of `n` bytes. -/
def farRecv (e : Option (Nat × Nat × Nat)) : Cmd :=
  { aRecv with fab := some { pairFab 0 1 with active := [(0, 0, 0, 0), (1, 1, 0, 1)] }, ending := e }
/-- What that rank sends. -/
def farMsg (n : Nat) : PeerMsg := { tag := 7, seq := 4, issuer := 1, named := 0, send := true, len := n, data := [(5, false)], done := false }
theorem witness_MaskAndFabricEvents_remote : [none, some (2, 0x71, 0)].all (fun e => let s := fabric 0x46000 [farRecv e]
      decide (s.fxRemote 0 0 1 0 1 (farMsg 8) = some (farRecv e)) && (decide (e = none) == (farRecv e).open) &&
        decide ((farRecv e).fab ≠ none)) = true ∧ (reg (farRecv none).regs 5).toNat = 8 ∧ (reg (farRecv none).regs 5).toNat ≠ 16 ∧
    (let s := { fabric 0x46000 [] with p2p := [(p2pKey 0 0 7 1 true, 5)] }
     decide (s.fxRemote 0 0 1 0 1 (farMsg 8) = none) && decide ((farMsg 8).seq < tabGet 0 s.p2p (p2pKey 0 0 7 1 true))) = true := by
  decide +kernel

theorem witness_EvictionEvents_held : (let v : Save := { aSave with control := true, complete := false }
      decide ((saving v).saveAt 0 = some v)) = true ∧
    ({ dispatching (aLaunch 0 0) with restores := [{ aRestore with launch := { aLaunch 1 0 with serial := 6 } }] } : State).restoreHeld
      { aRestore with launch := { aLaunch 1 0 with serial := 6 } } = true ∧
    ({ dispatching (aLaunch 0 0) with restores := [aRestore] } : State).restoreHeld aRestore = false := by decide +kernel
/-- A package whose record routes package 2 over link 1 of die 0, which is up, and package 1 nowhere. -/
def routed : State :=
  { (State.reset.setLink 0 0 { Link.down with state := 2, unacked := [{ aFlit with dst := 2 }] }).setLink 0 1 { Link.down with state := 2 } with
    config := some { aConfig with packageIndex := 0, links := 3, routes := [(2, [[(0, 1)]])] } }
theorem witness_LinkEvents_routes : (routed.linkAt 0 0).unacked = [{ aFlit with dst := 2 }] ∧ aFlit.coden = none ∧ routed.cmds = [] ∧
    (let u := routed.setLink 0 0 { routed.linkAt 0 0 with state := 0, unacked := [] }
     u.firstHop 2 = some (0, 1) ∧ u.firstHop 1 = none) ∧ aFlit.seq = (routed.linkAt 0 0).next 1 1 ∧
    ({ aFlit with seq := 5 } : Flit).seq ≠ (routed.linkAt 0 0).next 1 1 ∧ ({ aFlit with coden := some 3 } : Flit).coden = some 3 ∧
    (routed.linkAt 0 0).coden ≠ 3 := by decide +kernel
theorem witness_HostEvents_keys : (let s := { hosting with farKeys := [(0x100000000, 4)] }
      tabGet 0 s.farKeys 0x100000000 = 3 + 1) ∧ State.reset.boot % 256 + 1 = 1 ∧
    ((hosting.setTenant 3 { hosting.tenantAt 3 with unbound := [(1024 * 16, none)] }).tenantAt 3).unbound ≠ [] := by decide +kernel

end Sys2Proof.Tests
end

section
/-! What a fault writes and what it leaves as it was (R5, R135, R136). -/

namespace Sys2Proof.Machine

/-! ### The slot that takes a fault -/

theorem Slot.csrv_setStatus_ne (sl : Slot) (inh : Bool) (pmode mode : BitVec 2) {i : Nat} (h : i ≠ 0) :
    (sl.setStatus inh pmode mode).csrv i = sl.csrv i := sl.csrv_setCsr_ne _ h

/-- A fault writes no register, whether it is delivered, escalates or stops the slot. -/
theorem Slot.raise_registers (sl : Slot) (code : Nat) (eval : Word) :
    (sl.raise code eval).g = sl.g ∧ (sl.raise code eval).v = sl.v ∧ (sl.raise code eval).k = sl.k := by
  unfold Slot.raise
  split
  · exact ⟨rfl, rfl, rfl⟩
  · dsimp only
    split <;> exact ⟨rfl, rfl, rfl⟩

@[simp] theorem Slot.gp_raise (sl : Slot) (code : Nat) (eval : Word) (r : BitVec 5) : (sl.raise code eval).gp r = sl.gp r := by
  obtain ⟨hg, -, -⟩ := sl.raise_registers code eval
  unfold Slot.gp; rw [hg]

@[simp] theorem Slot.vp_raise (sl : Slot) (code : Nat) (eval : Word) (r : BitVec 4) : (sl.raise code eval).vp r = sl.vp r := by
  obtain ⟨-, hv, -⟩ := sl.raise_registers code eval
  unfold Slot.vp; rw [hv]

@[simp] theorem Slot.kp_raise (sl : Slot) (code : Nat) (eval : Word) (r : BitVec 3) : (sl.raise code eval).kp r = sl.kp r := by
  obtain ⟨-, -, hk⟩ := sl.raise_registers code eval
  unfold Slot.kp; rw [hk]

/-- The CSRs that a fault writes are STATUS, the three of a delivery (R135) and the three of an escalation (R136). -/
theorem Slot.csrv_raise_ne (sl : Slot) (code : Nat) (eval : Word) {i : Nat} (h4 : 4 ≤ i) (hepc : i ≠ 0x102) (hcause : i ≠ 0x103)
    (heval : i ≠ 0x105) : (sl.raise code eval).csrv i = sl.csrv i := by
  have hrecorded (a b c : Word) : (((sl.setCsr 0x103 a).setCsr 0x102 b).setCsr 0x105 c).csrv i = sl.csrv i := by
    rw [Slot.csrv_setCsr_ne _ _ heval, Slot.csrv_setCsr_ne _ _ hepc, Slot.csrv_setCsr_ne _ _ hcause]
  unfold Slot.raise
  split
  · simp (disch := omega) only [Slot.csrv_jump, Slot.csrv_setStatus_ne, Slot.csrv_setCsr_ne]
  · dsimp only
    split
    · exact hrecorded _ _ _
    · rw [Slot.csrv_jump, Slot.csrv_setStatus_ne _ _ _ _ (by omega), hrecorded]

/-! ### The package around it -/

/-- A fault replaces the executing slot, and may show one thing outside (the report of R136). -/
theorem State.raise_cases (s : State) (code : Nat) (eval : Word) :
    s.raise code eval = s.setMe (s.me.raise code eval) ∨
      ∃ src o, s.raise code eval = (s.setMe (s.me.raise code eval)).emit src o := by
  unfold State.raise
  dsimp only
  split
  · exact .inr ⟨_, _, rfl⟩
  · exact .inl rfl

@[simp] theorem State.me_raise (s : State) (code : Nat) (eval : Word) : (s.raise code eval).me = s.me.raise code eval := by
  obtain e | ⟨src, o, e⟩ := s.raise_cases code eval <;> rw [e] <;> exact s.me_setMe _

theorem State.raise_sameMemory (s : State) (code : Nat) (eval : Word) : s.sameMemory (s.raise code eval) := by
  obtain e | ⟨src, o, e⟩ := s.raise_cases code eval <;> rw [e] <;> exact ⟨fun _ => rfl, fun _ => rfl⟩

theorem State.raise_sameOthers (s : State) (code : Nat) (eval : Word) : s.sameOthers (s.raise code eval) := by
  obtain e | ⟨src, o, e⟩ := s.raise_cases code eval <;> rw [e] <;> exact s.setMe_sameOthers _

theorem State.raise_onlySlots_out (s : State) (code : Nat) (eval : Word) :
    { s.raise code eval with slots := s.slots, out := s.out } = s := by
  obtain e | ⟨src, o, e⟩ := s.raise_cases code eval <;> rw [e] <;> rfl

/-- Settles O10: the package by the ways a fault is taken, the slot by the registers and CSRs that a fault does not write. -/
theorem faultFrame : Obligations.FaultFrame := by
  unfold Obligations.FaultFrame
  intro s code eval
  simp only [State.me_raise]
  exact ⟨s.raise_sameMemory code eval, s.raise_sameOthers code eval, s.raise_onlySlots_out code eval, s.me.gp_raise code eval,
    s.me.vp_raise code eval, s.me.kp_raise code eval, fun _ => s.me.csrv_raise_ne code eval⟩

end Sys2Proof.Machine
end

section
/-! How the word that a slot issues is fetched and run (R72, R118, R120, R162). -/

namespace Sys2Proof.Machine

open Sys2Proof.Said

/-! ### A fetch and the lines under an older set index (R40) -/

theorem State.countEv_recoloured (s : State) (t c n : Nat) : (s.countEv t c n).recoloured = s.recoloured := by
  unfold State.countEv
  generalize s.evsel = l
  induction l generalizing s with
  | nil => rfl
  | cons e l ih =>
    refine (ih _).trans ?_
    dsimp only
    split <;> rfl

theorem State.fill_recoloured (s : State) (path : List (Nat × Nat)) (p : Page) : (s.fill path p).recoloured = s.recoloured := by
  unfold State.fill
  induction path generalizing s with
  | nil => rfl
  | cons k path ih =>
    refine (ih _).trans ?_
    dsimp only
    split <;> rfl

theorem State.asked_recoloured (s : State) (c : Prop) [Decidable c] (src : Source) (o : Out) :
    (if c then s.emit src o else s).recoloured = s.recoloured := by split <;> rfl

theorem State.translate_recoloured {s t : State} {w : Who} {u : TlbUnit} {acc : Access} {va : Word} {p : Page} {phys : Nat}
    (h : s.translate w u acc va = .ok (p, phys, t)) : t.recoloured = s.recoloured := by
  unfold State.translate at h
  simp only [stop_throw, stop_bind_error, stop_pure] at h
  obtain ⟨-, h⟩ := stop_if_eq_ok h
  -- a page that is held and one that is walked to end alike
  split at h
  all_goals
    obtain ⟨q, -, h⟩ := stop_bind_eq_ok h
    obtain ⟨-, h⟩ := stop_if_eq_ok h
    obtain ⟨-, h⟩ := stop_if_eq_ok h
    simp only [Except.ok.injEq, Prod.mk.injEq] at h
    obtain ⟨-, -, rfl⟩ := h
    exact (State.fill_recoloured _ _ _).trans (s.asked_recoloured _ _ _)

theorem State.checked_recoloured {s t : State} {w : Who} {u : TlbUnit} {r : Req} {va : Word} {p : Page} {phys : Nat}
    (h : s.checked w u r va = .ok (p, phys, t)) : t.recoloured = s.recoloured := by
  unfold State.checked at h
  simp only [stop_throw, stop_bind_error, stop_pure] at h
  obtain ⟨-, h⟩ := stop_if_eq_ok h
  obtain ⟨⟨q, ph, s1⟩, ht, h⟩ := stop_bind_eq_ok h
  obtain ⟨-, h⟩ := stop_if_eq_ok h
  obtain ⟨-, h⟩ := stop_if_eq_ok h
  obtain ⟨-, h⟩ := stop_if_eq_ok h
  obtain ⟨-, h⟩ := stop_if_eq_ok h
  obtain ⟨-, h⟩ := stop_if_eq_ok h
  simp only [Except.ok.injEq, Prod.mk.injEq] at h
  obtain ⟨-, -, rfl⟩ := h
  exact State.translate_recoloured ht

theorem State.tileCount_recoloured (s : State) (acct : Nat) : (s.tileCount acct).recoloured = s.recoloured := by
  unfold State.tileCount
  split
  · exact State.countEv_recoloured _ _ _ _
  · rfl

theorem State.filledBy_recoloured (s : State) (p : Page) (phys core : Nat) : (s.filledBy p phys core).recoloured = s.recoloured := by
  unfold State.filledBy
  split <;> rfl

/-- Only a write notes a line that an older set index may hold (R40). -/
theorem State.touched_exec_recoloured (s : State) (w : Who) (p : Page) (phys : Nat) :
    (s.touched w p .exec phys).recoloured = s.recoloured := by
  have hcounted := (State.tileCount_recoloured (s.filledBy p phys w.core) w.acct.toNat).trans (s.filledBy_recoloured p phys w.core)
  unfold State.touched
  dsimp only
  split
  · rw [if_neg (by decide : ¬ (Access.exec = .write ∨ Access.exec = .readWrite))]
    split <;> exact hcounted
  · rfl

/-- The access of a fetch leaves only caches and counters behind, and no line newly under an older set index. -/
theorem State.fetchAcc_keeps {s t : State} {a : Acc} (h : s.fetchAcc = .ok (a, t)) : s.cachesOnly t ∧ t.recoloured = s.recoloured := by
  unfold State.fetchAcc at h
  split at h
  · obtain ⟨-, rfl⟩ : _ ∧ s = t := by simpa using h
    exact ⟨.refl s, rfl⟩
  · obtain ⟨⟨p, phys, u⟩, hc, h⟩ := stop_bind_eq_ok h
    obtain ⟨-, rfl⟩ : _ ∧ u.touched u.who p .exec phys = t := by simpa using h
    exact ⟨(State.checked_cachesOnly hc).trans (u.touched_cachesOnly _ _ _ _),
      (u.touched_exec_recoloured _ _ _).trans (State.checked_recoloured hc)⟩

/-! ### The word at pc (R72, R162) -/

/-- Where the bytes of a page are those of memory, an access finds them and changes nothing. -/
theorem State.fetchBytes_of_inMemory {s : State} {p : Page} (h : InMemory s p) (phys n : Nat) :
    s.fetchBytes p phys n = (s.peek phys n, s) := by
  obtain ⟨h5, h6, hr⟩ := h
  have hs : s.staleLine p phys = false := by unfold State.staleLine; simp [hr]
  unfold State.fetchBytes
  rw [if_neg (by simp [h5, hs]), if_neg h6]

/-- Of two joined words the first is the high part. -/
theorem append_toNat {m n : Nat} (x : BitVec m) (y : BitVec n) : (x ++ y).toNat = x.toNat * 2 ^ n + y.toNat := by
  rw [BitVec.toNat_append, ← Nat.shiftLeft_add_eq_or_of_lt y.isLt, Nat.shiftLeft_eq]

/-- An instruction word in memory is little-endian (R2, R72). -/
theorem wordOfBytes_toNat (a b c d : Byte) :
    (wordOfBytes [a, b, c, d]).toNat = a.toNat + 256 * (b.toNat + 256 * (c.toNat + 256 * d.toNat)) := by
  refine (append_toNat (d ++ c ++ b) a).trans ?_
  rw [append_toNat (d ++ c) b, append_toNat d c]
  omega

theorem State.ofNat_peek_four (s : State) (a : Nat) : BitVec.ofNat 32 (s.peek a 4) = wordOfBytes (codeBytes s a) := by
  have hword : (wordOfBytes (codeBytes s a)).toNat = s.peek a 4 := wordOfBytes_toNat _ _ _ _
  rw [← hword, BitVec.ofNat_toNat, BitVec.setWidth_eq]

/-- A fetch that passes its checks reads the word of the four bytes of memory at pc. -/
theorem State.fetch_of_fetches {s t : State} {phys : Nat} (h : Fetches s phys t) :
    s.fetch = .ok (wordOfBytes (codeBytes t phys), fetched t (wordOfBytes (codeBytes t phys))) := by
  obtain ⟨a, hacc, hland, rfl, h5, h6, hr⟩ := h
  obtain ⟨-, hkeeps⟩ := State.fetchAcc_keeps hacc
  have hbytes := State.fetchBytes_of_inMemory (s := t) (p := a.page) ⟨h5, h6, hkeeps.trans hr⟩ a.phys 4
  unfold State.fetch
  simp only [hacc, hland, hbytes, stop_bind_ok, stop_pure, State.ofNat_peek_four]
  rfl

theorem State.runWord_of_decode {s : State} {w : BitVec 32} {i : Instr} (h : decode (coreKind s.curCore) w = .ok i) :
    s.runWord w = exec i s := by unfold State.runWord; rw [h]

theorem State.fetchRun_of_fetches {s t : State} {phys : Nat} {i : Instr} (h : Fetches s phys t)
    (hd : decodeBytes (coreKind s.curCore) (codeBytes t phys) = .ok i) :
    s.fetchRun = exec i (fetched t (wordOfBytes (codeBytes t phys))) := by
  have hcore : t.curCore = s.curCore := by
    obtain ⟨a, hacc, -⟩ := h
    obtain ⟨hcaches, -⟩ := State.fetchAcc_keeps hacc
    exact hcaches.curCore
  unfold State.fetchRun
  rw [State.fetch_of_fetches h]
  exact State.runWord_of_decode (by rw [← hcore] at hd; exact hd)

theorem State.countIssue_curCore (s : State) : s.countIssue.curCore = s.curCore := (State.countEv_cachesOnly _ _ _ _).curCore

/-! ### What a step runs (R118, R120) -/

theorem step_of_turn {s : State} {n core slot : Nat} (h : AtTurn s n core slot) (hb : (turn s core slot).me.overBudget = false) :
    step s = (turn s core slot).countIssue.fetchRun := by
  obtain ⟨hfrozen, hresume, hphase, hcore, hslot⟩ := h
  have hissue : (s.endYield core).issue core slot = (turn s core slot).countIssue.fetchRun := if_neg (by rw [← turn, hb]; decide)
  unfold step State.issueStep
  simp only [hfrozen, hresume, hphase, hcore, hslot, hissue, Bool.false_eq_true, if_false]

theorem step_of_resumable {s : State} {core slot : Nat} (hfrozen : s.frozen = false) (h : s.resumable = some (core, slot)) :
    step s = s.resume core slot := by
  unfold step
  simp only [hfrozen, h, Bool.false_eq_true, if_false]

theorem State.resume_of_fetched {s : State} {core slot : Nat} {w : BitVec 32} (h : (s.slotAt core slot).fetched = some w) :
    s.resume core slot = State.runWord { s with curCore := core, curSlot := slot } w := by
  unfold State.resume
  have h' : ({ s with curCore := core, curSlot := slot } : State).me.fetched = some w := h
  simp only [h']

/-- Settles O4: at a turn the fetch reads the bytes at pc and their instruction runs; a parked instruction goes on with the word
that its slot keeps. -/
theorem stepRunsDecoded : Obligations.StepRunsDecoded := by
  unfold Obligations.StepRunsDecoded
  constructor
  · intro s n core slot hturn hbudget phys t i hfetch hdecode
    rw [step_of_turn hturn hbudget]
    refine State.fetchRun_of_fetches hfetch ?_
    rw [State.countIssue_curCore]
    exact hdecode
  · intro s core slot w i hfrozen hres hword hdecode
    rw [step_of_resumable hfrozen hres, State.resume_of_fetched hword]
    exact State.runWord_of_decode hdecode

end Sys2Proof.Machine
end

section
/-! The commands that read a mask: what they find at the ready word, and what each of them answers (R380). -/

namespace Sys2Proof.Machine

open Sys2Proof.Said

/-! ### What a table lists -/

theorem tabGet_eq_or_mem {α : Type} (d : α) (t : List (Nat × α)) (k : Nat) : tabGet d t k = d ∨ (k, tabGet d t k) ∈ t := by
  induction t with
  | nil => exact .inl rfl
  | cons e t ih =>
    obtain ⟨j, v⟩ := e
    simp only [tabGet]
    split
    · next h => exact .inr (by simp [h])
    · split
      · exact .inl rfl
      · exact ih.imp_right (List.mem_cons_of_mem _)

/-- A write adds no entry but its own. -/
theorem eq_or_mem_of_mem_tabPut {α : Type} [DecidableEq α] {d : α} {t : List (Nat × α)} {k : Nat} {v : α} {e : Nat × α}
    (h : e ∈ tabPut d t k v) : e = (k, v) ∨ e ∈ t := by
  induction t with
  | nil =>
    simp only [tabPut] at h
    split at h
    · cases h
    · exact .inl (List.mem_singleton.1 h)
  | cons x t ih =>
    obtain ⟨j, w⟩ := x
    obtain ⟨l, hl⟩ := tabDrop_eq t k
    have hdrop : e ∈ tabDrop t k → e ∈ t := fun he => hl ▸ List.mem_append_right l he
    simp only [tabPut] at h
    split at h
    · split at h
      · exact .inr (List.mem_cons_of_mem _ (hdrop h))
      · exact (List.mem_cons.1 h).imp_right (List.mem_cons_of_mem _)
    · split at h
      · split at h
        · exact .inr h
        · exact List.mem_cons.1 h
      · rcases List.mem_cons.1 h with rfl | h
        · exact .inr (List.mem_cons_self ..)
        · exact (ih h).imp_right (List.mem_cons_of_mem _)

/-! ### What a performed access has passed -/

theorem State.access_eq_ok {s t : State} {w : Who} {u : TlbUnit} {r : Req} {va : Word} {p : Page} {phys : Nat}
    (h : s.access w u r va = .ok (p, phys, t)) :
    ∃ s1, s.translate w u r.acc va = .ok (p, phys, s1) ∧ t = s1.touched w p r.acc phys := by
  unfold State.access at h
  simp only [stop_throw, stop_pure, stop_bind_error] at h
  obtain ⟨⟨q, ph, s1⟩, hc, h⟩ := stop_bind_eq_ok h
  obtain ⟨-, h⟩ := stop_if_eq_ok h
  unfold State.checked at hc
  simp only [stop_throw, stop_pure, stop_bind_error] at hc
  obtain ⟨-, hc⟩ := stop_if_eq_ok hc
  obtain ⟨⟨q', ph', s1'⟩, ht, hc⟩ := stop_bind_eq_ok hc
  obtain ⟨-, hc⟩ := stop_if_eq_ok hc
  obtain ⟨-, hc⟩ := stop_if_eq_ok hc
  obtain ⟨-, hc⟩ := stop_if_eq_ok hc
  obtain ⟨-, hc⟩ := stop_if_eq_ok hc
  obtain ⟨-, hc⟩ := stop_if_eq_ok hc
  simp only [Except.ok.injEq, Prod.mk.injEq] at hc
  obtain ⟨rfl, rfl, rfl⟩ := hc
  split at h
  · cases h
  · simp only [Except.ok.injEq, Prod.mk.injEq] at h
    obtain ⟨rfl, rfl, rfl⟩ := h
    exact ⟨_, ht, rfl⟩

theorem State.countEv_tlb (s : State) (t c n : Nat) : (s.countEv t c n).tlb = s.tlb := by
  unfold State.countEv
  generalize s.evsel = l
  induction l generalizing s with
  | nil => rfl
  | cons e l ih =>
    refine (ih _).trans ?_
    dsimp only
    split <;> rfl

theorem State.touched_tlb (s : State) (w : Who) (p : Page) (acc : Access) (phys : Nat) : (s.touched w p acc phys).tlb = s.tlb := by
  have hfilled : (s.filledBy p phys w.core).tlb = s.tlb := by unfold State.filledBy; split <;> rfl
  have hcount (u : State) (n : Nat) : (u.tileCount n).tlb = u.tlb := by
    unfold State.tileCount; split
    · exact State.countEv_tlb _ _ _ _
    · rfl
  have hrewrites (u : State) : (u.rewrites p phys w.core).tlb = u.tlb := by unfold State.rewrites; split <;> rfl
  unfold State.touched
  dsimp only
  split
  · split <;> split <;> simp only [hrewrites, hcount, hfilled]
  · rfl

/-- A read notes no line that an older set index may hold (R40). -/
theorem State.touched_read_recoloured (s : State) (w : Who) (p : Page) (phys : Nat) :
    (s.touched w p .read phys).recoloured = s.recoloured := by
  unfold State.touched
  simp only [reduceCtorEq, or_self, if_false]
  split
  · split <;> exact (State.tileCount_recoloured _ _).trans (State.filledBy_recoloured _ _ _ _)
  · rfl

/-- A structure that holds a page is not filled with it again. -/
theorem State.fill_of_mem {s : State} {k : Nat × Nat} {p : Page} (h : p ∈ tabGet [] s.tlb k.1) : s.fill [k] p = s := if_pos h

/-! ### States that a thread sees alike -/

/-- To an instruction that only reads, `t` is as `s`: some accepted commands are dropped, and an access of a page that its structure
already held has left its traces. -/
def State.seenAlike (s t : State) : Prop :=
  ∃ cmds er touch filled drawn evc out,
    t = { s with cmds := cmds, er := er, touch := touch, filled := filled, drawn := drawn, evc := evc, out := out } ∧
    ∀ e ∈ cmds, ∀ x ∈ e.2, ∃ f ∈ s.cmds, x ∈ f.2

theorem State.seenAlike.trans {s t u : State} (h : s.seenAlike t) (g : t.seenAlike u) : s.seenAlike u := by
  obtain ⟨_, _, _, _, _, _, _, rfl, hsub⟩ := h
  obtain ⟨a, b, c, d, e, f, g, rfl, hsub'⟩ := g
  refine ⟨a, b, c, d, e, f, g, rfl, fun e he x hx => ?_⟩
  obtain ⟨f, hf, hxf⟩ := hsub' e he x hx
  exact hsub f hf x hxf

theorem State.seenAlike.calm {s t : State} (h : s.seenAlike t) (hc : Calm s) : Calm t := by
  obtain ⟨_, _, _, _, _, _, _, rfl, -⟩ := h; exact hc
theorem State.seenAlike.held {s t : State} {w : Who} {u : TlbUnit} {va : Word} {phys : Nat} (h : s.seenAlike t)
    (hheld : Held s w u va phys) : Held t w u va phys := by obtain ⟨_, _, _, _, _, _, _, rfl, -⟩ := h; exact hheld

theorem State.seenAlike.me {s t : State} (h : s.seenAlike t) : t.me = s.me := by obtain ⟨_, _, _, _, _, _, _, rfl, -⟩ := h; rfl
theorem State.seenAlike.who {s t : State} (h : s.seenAlike t) : t.who = s.who := by obtain ⟨_, _, _, _, _, _, _, rfl, -⟩ := h; rfl
theorem State.seenAlike.presAt {s t : State} (h : s.seenAlike t) (a : Nat) : t.presAt a = s.presAt a := by
  obtain ⟨_, _, _, _, _, _, _, rfl, -⟩ := h; rfl

theorem State.peek_of_mem {s t : State} (h : t.mem = s.mem) (a n : Nat) : t.peek a n = s.peek a n := by
  induction n generalizing a with
  | zero => rfl
  | succ n ih => simp only [State.peek, State.byteAt, ih, h]

theorem State.seenAlike.peek {s t : State} (h : s.seenAlike t) (a n : Nat) : t.peek a n = s.peek a n := by
  have hmem : t.mem = s.mem := by obtain ⟨_, _, _, _, _, _, _, rfl, -⟩ := h; rfl
  exact State.peek_of_mem hmem a n

/-- Where no command is new, no earlier waiter is (R65). -/
theorem State.seenAlike.firstAt {s t : State} {phys : Nat} (h : s.seenAlike t) (hf : FirstAt s phys) : FirstAt t phys := by
  obtain ⟨_, _, _, _, _, _, _, rfl, hsub⟩ := h
  unfold FirstAt State.queuedBefore at hf ⊢
  simp only [Bool.or_eq_false_iff] at hf ⊢
  obtain ⟨⟨hslots, hcmds⟩, hmx⟩ := hf
  refine ⟨⟨hslots, ?_⟩, hmx⟩
  simp only [List.any_eq_false] at hcmds ⊢
  intro e he hany
  obtain ⟨x, hx, hplace⟩ := List.any_eq_true.1 hany
  obtain ⟨f, hfm, hxf⟩ := hsub e he x hx
  exact hcmds f hfm (List.any_eq_true.2 ⟨x, hxf, hplace⟩)

/-- A read whose page the only structure of its path holds leaves no new translation. -/
theorem State.access_seenAlike {s t : State} {w : Who} {u : TlbUnit} {r : Req} {va : Word} {k : Nat × Nat} {p q : Page} {phys : Nat}
    (hread : r.acc = .read) (hpath : tlbPath u w.core = [k])
    (hfind : (tabGet [] s.tlb k.1).find? (fun p => p.covers w.tenant va.toNat) = some p)
    (h52 : va.toNat < 2 ^ 52) (hself : p.self = false) (htgt : p.tgt ≠ 5) (h : s.access w u r va = .ok (q, phys, t)) :
    s.seenAlike t := by
  obtain ⟨s1, htrans, ht⟩ := State.access_eq_ok h
  have hcached : s.cached (tlbPath u w.core) w.tenant va.toNat = some p := State.cached_of_head (k := k) (by rw [hpath]; rfl) hfind
  rw [State.translate_of_cached h52 hcached hself htgt, hpath, State.fill_of_mem (List.mem_of_find?_eq_some hfind)] at htrans
  simp only [Except.ok.injEq, Prod.mk.injEq] at htrans
  obtain ⟨rfl, rfl, rfl⟩ := htrans
  have htlb : t.tlb = s.tlb := ht ▸ s.touched_tlb _ _ _ _
  have hrecoloured : t.recoloured = s.recoloured := by rw [ht, hread]; exact s.touched_read_recoloured _ _ _
  obtain ⟨tlb, touch, filled, recoloured, drawn, evc, out, rfl⟩ := State.access_cachesOnly h
  obtain rfl : tlb = s.tlb := htlb
  obtain rfl : recoloured = s.recoloured := hrecoloured
  exact ⟨s.cmds, s.er, touch, filled, drawn, evc, out, rfl, fun e he x hx => ⟨e, he, hx⟩⟩

/-- A word whose translation the die's structure holds is reached, and the states before and after are seen alike. -/
theorem State.mkWord_of_held {s : State} {va : Word} {phys : Nat} (hcalm : Calm s) (hheld : Held s s.who .die va phys)
    (halign : va.toNat % 8 = 0) : ∃ u, s.mkWord s.who .read va = .ok (phys, u) ∧ s.seenAlike u := by
  obtain ⟨h52, k, hk, p, hfind, htgt, hself, hr, hw, hu, hphys⟩ := hheld
  obtain ⟨hdrop, -, hpoison, hquar, hhash, htags⟩ := hcalm
  have ht : p.tgt = 0 ∨ p.tgt = 2 := htgt.imp And.left And.left
  have hpermits : permits p { s.who.req .read 8 with pres := true } = true := by simp [permits, Who.req, Req.plain, hr, hu]
  obtain ⟨u, hacc, -⟩ := State.access_of_cached (r := { s.who.req .read 8 with pres := true }) h52 halign
    (State.cached_of_head hk hfind) hself ht hpermits (by simp [atomicOk, Who.req, Req.plain]) hphys hdrop hpoison hquar hhash htags
  have hpath : tlbPath .die s.who.core = [k] := by simpa [tlbPath] using hk
  refine ⟨u, ?_, State.access_seenAlike rfl hpath hfind h52 hself (by rcases ht with e | e <;> rw [e] <;> decide) hacc⟩
  unfold State.mkWord
  rw [hacc]
  rfl

/-! ### What a mask-reading command finds -/

theorem State.mkDrop_seenAlike (s : State) (c : Nat × Nat) : s.seenAlike (s.mkDrop c) := by
  have hdropped (er : List (Nat × Word × Presence)) (f : Cmd → Bool) :
      s.seenAlike { s.setCmds .mk c.1 c.2 ((s.cmdsOf .mk c.1 c.2).filter f) with er := er } := by
    refine ⟨_, er, s.touch, s.filled, s.drawn, s.evc, s.out, rfl, fun e he x hx => ?_⟩
    obtain rfl | he := eq_or_mem_of_mem_tabPut he
    · have hxl : x ∈ s.cmdsOf .mk c.1 c.2 := (List.mem_filter.1 hx).1
      obtain hnil | hmem := tabGet_eq_or_mem [] s.cmds (ctxKey .mk c.1 c.2)
      · rw [State.cmdsOf, hnil] at hxl
        cases hxl
      · exact ⟨_, hmem, hxl⟩
    · exact ⟨e, he, hx⟩
  unfold State.mkDrop
  dsimp only
  split
  · split
    · exact hdropped _ _
    · exact hdropped s.er _
  · exact ⟨s.cmds, s.er, s.touch, s.filled, s.drawn, s.evc, s.out, rfl, fun e he x hx => ⟨e, he, hx⟩⟩

theorem State.mkSnap_of_firstIssue {s : State} (h : FirstIssue s) (c : Nat × Nat) : s.mkSnap c = s.snap .mk c.1 c.2 11 := by
  unfold State.mkSnap State.mkHeld
  rw [if_neg (by rw [h]; decide)]

/-- At its first issue a command takes its operand from its register. -/
theorem State.mkOperand_of_firstIssue {s : State} {a : BitVec 5} (h : FirstIssue s) (hready : s.me.ready [.g a]) :
    s.mkOperand a = .ok (gv s a, s.me.seen [.g a]) := by
  unfold State.mkOperand State.mkHeld
  rw [if_neg (by rw [h]; decide), Slot.gate_of_ready hready]
  simp

/-- A mask-reading command of `s` has registers `r`, within their limits, and finds the ready word at `p`, which it sees with presence
`q`: EMPTY also while others that reached it before are to be served (R65). It reads it in the state `u`. -/
structure State.FindsReady (s u : State) (r : List Word) (p : Nat) (q : Presence) : Prop where
  regs : s.mkSnap (s.myCtx .mk) = r
  limits : mkLimits r = .ok ()
  read : (s.mkDrop (s.myCtx .mk)).mkWord (s.mkDrop (s.myCtx .mk)).who .read (reg r 9) = .ok (p, u)
  presence : (if u.queuedBefore u.myPlace p then .empty else u.presAt p) = q

section Reader

variable {s u : State} {r : List Word} {p : Nat} {a : Word} {v : Bool} {chk : List Word → Except Stop Unit}
  {full : State → List Word → Word → Except Stop (Wait ⊕ State)} {void : Slot → Slot} {wait : Nat → Except Stop (Wait ⊕ Slot)}

theorem mkReader_of_full (h : s.FindsReady u r p .full) (hchk : chk r = .ok ()) {t : State}
    (hfull : full u r (word (u.peek p 8)) = .ok (.inr t)) : mkReader a v chk full void wait s = .next t := by
  obtain ⟨rfl, hlimits, hread, hq⟩ := h
  unfold mkReader
  simp only [hlimits, hchk, hread, hq, hfull, stop_bind_ok, stop_pure, run_ok]

theorem mkReader_of_void (h : s.FindsReady u r p .void) (hchk : chk r = .ok ()) :
    mkReader a v chk full void wait s = .next (u.setMe (void u.me.setV).advance) := by
  obtain ⟨rfl, hlimits, hread, hq⟩ := h
  unfold mkReader
  simp only [hlimits, hchk, hread, hq, stop_bind_ok, stop_pure, run_ok]

/-- While the ready word is EMPTY the command waits, or goes on without it, or faults. -/
theorem mkReader_of_empty (h : s.FindsReady u r p .empty) (hchk : chk r = .ok ()) :
    mkReader a v chk full void wait s = run (s.mkDrop (s.myCtx .mk)) ((wait p).map fun x =>
      match x with
      | .inl k => u.mkPark (s.myCtx .mk) r a v k
      | .inr sl => u.setMe sl.advance) := by
  obtain ⟨rfl, hlimits, hread, hq⟩ := h
  unfold mkReader
  simp only [hlimits, hchk, hread, hq, stop_bind_ok, stop_pure]
  rcases wait p with e | k | sl <;> rfl

theorem mkReader_of_check (hlimits : mkLimits (s.mkSnap (s.myCtx .mk)) = .ok ()) {e : Stop}
    (hchk : chk (s.mkSnap (s.myCtx .mk)) = .error e) :
    mkReader a v chk full void wait s = run (s.mkDrop (s.myCtx .mk)) (.error e) := by
  unfold mkReader
  simp only [hlimits, hchk, stop_bind_ok, stop_bind_error]

end Reader

/-! ### What each command answers (R380) -/

section Answers

variable {s u t : State} {a b : BitVec 5} {n : BitVec 4} {r : List Word} {p : Nat} {o : Word} {sl : Slot}

theorem exec_mkWait_of_full (h : s.FindsReady u r p .full) (ho : s.mkOperand a = .ok (o, sl)) {x : Word} (hx : x = word (u.peek p 8)) :
    exec (.mkWait a b) s =
      .next (u.setMe (sl.wrG b (if fld x 0 21 = 0 then 2 else if fld x 0 21 = 1 then 1 else 0)).advance) := by
  subst hx
  show execMkWait a b s = _
  unfold execMkWait
  rw [ho]
  exact mkReader_of_full h rfl rfl

theorem exec_mkForced_of_full (h : s.FindsReady u r p .full) {x : Word} (hx : x = word (u.peek p 8)) :
    exec (.mkForced b) s =
      .next (u.setMe (u.me.wrG b (if fld x 0 21 = 1 then word (fld x 44 20) else 0xFFFFFFFFFFFFFFFF)).advance) := by
  subst hx
  show execMkForced b s = _
  exact mkReader_of_full h rfl rfl

theorem exec_mkMask_of_full (h : s.FindsReady u r p .full) (ho : s.mkOperand a = .ok (o, sl)) (hchunk : o.toNat < mkNch r) {x : Word}
    (hx : x = word (u.peek p 8)) {l : List Nat} {vd : Bool}
    (hwords : u.maskWords r (fld x 32 8) (fld x 40 4) o.toNat (List.range 8) = .ok (.inr (l, vd, t))) :
    exec (.mkMask a n) s = .next (t.setMe ((if vd then sl.setV else sl).wrV n
      (BitVec.ofNat 1024 (l.foldr (fun w t => w + 2 ^ 64 * t) 0))).advance) := by
  subst hx
  show execMkMask a n s = _
  unfold execMkMask
  rw [ho]
  refine mkReader_of_full h (if_neg (Nat.not_le.2 hchunk)) ?_
  simp only [hwords, stop_bind_ok, stop_pure]

theorem exec_mkWait_of_void (h : s.FindsReady u r p .void) (ho : s.mkOperand a = .ok (o, sl)) :
    exec (.mkWait a b) s = .next (u.setMe (u.me.setV.wrG b 4).advance) := by
  show execMkWait a b s = _
  unfold execMkWait
  rw [ho]
  exact mkReader_of_void h rfl

theorem exec_mkForced_of_void (h : s.FindsReady u r p .void) :
    exec (.mkForced b) s = .next (u.setMe (u.me.setV.wrG b 0xFFFFFFFFFFFFFFFF).advance) := by
  show execMkForced b s = _
  exact mkReader_of_void h rfl

theorem exec_mkMask_of_void (h : s.FindsReady u r p .void) (ho : s.mkOperand a = .ok (o, sl)) (hchunk : o.toNat < mkNch r) :
    exec (.mkMask a n) s = .next (u.setMe (u.me.setV.setVr n 0 .void).advance) := by
  show execMkMask a n s = _
  unfold execMkMask
  rw [ho]
  exact mkReader_of_void h (if_neg (Nat.not_le.2 hchunk))

/-- A `mk.wait` whose time is over, or that has none, answers 3 or faults. -/
theorem exec_mkWait_gives_up (h : s.FindsReady u r p .empty) (ho : s.mkOperand a = .ok (o, sl))
    (hover : s.me.reply = .gaveUp ∨ fld o 0 63 = 0) : exec (.mkWait a b) s =
      .next (if bit o 63 then (s.mkDrop (s.myCtx .mk)).raise 0x83 (word (fld o 0 63)) else u.setMe (sl.wrG b 3).advance) := by
  show execMkWait a b s = _
  unfold execMkWait
  rw [ho]
  refine (mkReader_of_empty h rfl).trans ?_
  simp only [if_pos hover]
  split <;> simp

/-- A `mk.wait` that has time left waits: until the deadline of its first issue, or, at that issue, for its whole limit. -/
theorem exec_mkWait_waits (h : s.FindsReady u r p .empty) (ho : s.mkOperand a = .ok (o, sl))
    (hover : ¬ (s.me.reply = .gaveUp ∨ fld o 0 63 = 0)) {d : Nat}
    (hd : s.me.resuming = false ∧ d = s.time.toNat + fld o 0 63 ∨ s.me.resuming = true ∧ ∃ p0 e y, s.me.wait = .ready p0 d e y) :
    exec (.mkWait a b) s =
      .next (u.mkPark (s.myCtx .mk) r o (decide (sl ≠ s.me)) (.ready p d (bit o 63) (word (fld o 0 63)))) := by
  show execMkWait a b s = _
  unfold execMkWait
  rw [ho]
  refine (mkReader_of_empty h rfl).trans ?_
  simp only [if_neg hover]
  obtain ⟨hres, rfl⟩ | ⟨hres, p0, e, y, hwait⟩ := hd
  · simp [hres]
  · simp [hres, hwait]

theorem exec_mkForced_of_empty (h : s.FindsReady u r p .empty) :
    exec (.mkForced b) s = .next (u.mkPark (s.myCtx .mk) r 0 false (.word p .notEmpty)) := by
  show execMkForced b s = _
  exact mkReader_of_empty h rfl

theorem exec_mkMask_of_empty (h : s.FindsReady u r p .empty) (ho : s.mkOperand a = .ok (o, sl)) (hchunk : o.toNat < mkNch r) :
    exec (.mkMask a n) s = .next (u.mkPark (s.myCtx .mk) r o (decide (sl ≠ s.me)) (.word p .notEmpty)) := by
  show execMkMask a n s = _
  unfold execMkMask
  rw [ho]
  exact mkReader_of_empty h (if_neg (Nat.not_le.2 hchunk))

/-- A chunk that the mask does not have is refused, whatever the ready word is. -/
theorem exec_mkMask_beyond (hlimits : mkLimits (s.mkSnap (s.myCtx .mk)) = .ok ()) (ho : s.mkOperand a = .ok (o, sl))
    (hchunk : mkNch (s.mkSnap (s.myCtx .mk)) ≤ o.toNat) :
    exec (.mkMask a n) s = .next ((s.mkDrop (s.myCtx .mk)).raise 0x82 o) := by
  show execMkMask a n s = _
  unfold execMkMask
  rw [ho]
  refine (mkReader_of_check hlimits (if_pos hchunk)).trans ?_
  simp

end Answers

/-! ### Where the commands complete -/

/-- MASKW is aligned (R373). -/
theorem maskw_aligned {r : List Word} (h : mkLimits r = .ok ()) : (reg r 9).toNat % 8 = 0 := by
  unfold mkLimits at h
  split at h
  · cases h
  · next hnone =>
    have h9 := List.find?_eq_none.1 hnone 9 (by decide)
    simpa [mkRegOk] using h9

theorem State.findsReady_of_held {s : State} {x : Nat} {r : List Word} (hfirst : FirstIssue s) (hcalm : Calm s)
    (hr : r = s.snap .mk (s.myCtx .mk).1 (s.myCtx .mk).2 11) (hlimits : mkLimits r = .ok ()) (hheld : Held s s.who .die (reg r 9) x)
    (hat : FirstAt s x) : ∃ u, s.FindsReady u r x (s.presAt x) ∧ s.seenAlike u := by
  have hdrop := s.mkDrop_seenAlike (s.myCtx .mk)
  obtain ⟨u, hread, hu⟩ := State.mkWord_of_held (hdrop.calm hcalm) (hdrop.who ▸ hdrop.held hheld) (maskw_aligned hlimits)
  have hsu := hdrop.trans hu
  have hfree : u.queuedBefore u.myPlace x = false := hsu.firstAt hat
  refine ⟨u, ⟨(State.mkSnap_of_firstIssue hfirst _).trans hr.symm, hlimits, hread, ?_⟩, hsu⟩
  simp [hfree, hsu.presAt]

theorem mkChunkAddr_eq_add (r : List Word) (st t c i : Nat) : mkChunkAddr r st t c i = mkChunkAddr r st t c 0 + word (8 * i) := by
  simp only [mkChunkAddr, word, BitVec.add_assoc, ← BitVec.ofNat_add, Nat.mul_zero, Nat.add_zero]

theorem add_word_aligned {va : Word} (h : va.toNat % 8 = 0) (i : Nat) : (va + word (8 * i)).toNat % 8 = 0 := by
  simp only [word, BitVec.toNat_add, BitVec.toNat_ofNat]
  omega

/-- A word of a chunk that is not EMPTY, and that no one waits for, stands before the words after it. -/
theorem State.maskWords_cons {t u z : State} {r : List Word} {st tp c i phys : Nat} {l k : List Nat} {vd : Bool}
    (hread : t.mkWord t.who .read (mkChunkAddr r st tp c i) = .ok (phys, u)) (hat : FirstAt u phys) (hpres : u.presAt phys ≠ .empty)
    (hrest : u.maskWords r st tp c l = .ok (.inr (k, vd, z))) :
    t.maskWords r st tp c (i :: l) = .ok (.inr ((if u.presAt phys = .void then 0 else z.peek phys 8) :: k,
      vd || decide (u.presAt phys = .void), z)) := by
  have hfree : u.queuedBefore u.myPlace phys = false := hat
  simp only [State.maskWords, hread, stop_bind_ok, hfree, Bool.false_eq_true, if_false]
  cases hp : u.presAt phys
  case empty => exact absurd hp hpres
  case full => simp only [hrest, stop_bind_ok, stop_pure]
  case void => simp only [hrest, stop_bind_ok, stop_pure]

/-- Words that are held and not EMPTY, and that no one waits for, are read as the words of a chunk. -/
theorem State.seenAlike.maskWords_of_held {s t : State} (h : s.seenAlike t) (hcalm : Calm s) {r : List Word} {st tp c : Nat}
    {y : Nat → Nat} {l : List Nat} (hl : ∀ i ∈ l, Held s s.who .die (mkChunkAddr r st tp c i) (y i) ∧ (mkChunkAddr r st tp c i).toNat % 8 = 0 ∧
      s.presAt (y i) ≠ .empty ∧ FirstAt s (y i)) :
    ∃ k vd u, t.maskWords r st tp c l = .ok (.inr (k, vd, u)) ∧ s.seenAlike u := by
  induction l generalizing t with
  | nil => exact ⟨[], false, t, rfl, h⟩
  | cons i l ih =>
    obtain ⟨hheld, halign, hpres, hat⟩ := hl i (List.mem_cons_self ..)
    obtain ⟨u, hread, hu⟩ := State.mkWord_of_held (h.calm hcalm) (h.who ▸ h.held hheld) halign
    have hsu := h.trans hu
    obtain ⟨k, vd, z, hrest, hz⟩ := ih hsu fun j hj => hl j (List.mem_cons_of_mem _ hj)
    exact ⟨_, _, z, State.maskWords_cons hread (hsu.firstAt hat) (by rw [hsu.presAt]; exact hpres) hrest, hz⟩

theorem Slot.status_setV (sl : Slot) : sl.setV.status = sl.status := sl.csrv_setCsr_ne _ (by decide)
theorem Slot.status_seen (sl : Slot) (l : List Src) : (sl.seen l).status = sl.status := sl.csrv_seen_ne l (by decide)
theorem Slot.status_wrG (sl : Slot) (r : BitVec 5) (v : Word) : (sl.wrG r v).status = sl.status := sl.csrv_setG r v .full 0

/-- An instruction that writes its slot and passes on completes. -/
theorem completes_of_advance {s u : State} {i : Instr} {sl : Slot} (h : exec i s = .next (u.setMe sl.advance)) (hpc : sl.pc = s.me.pc)
    (hstatus : sl.status = s.me.status) : Completes s i :=
  ⟨_, h, by rw [State.me_setMe, ← hpc]; rfl, by rw [State.me_setMe]; rfl, by rw [State.me_setMe, ← hstatus]; rfl⟩

section Completion

variable {s u : State} {a b : BitVec 5} {n : BitVec 4} {r : List Word} {x : Nat}

theorem mkWait_completes (hready : s.FindsReady u r x (s.presAt x)) (hview : s.seenAlike u) (hfirst : FirstIssue s)
    (hop : s.me.ready [.g a]) (h : s.presAt x ≠ .empty ∨ gv s a = 0) : Completes s (.mkWait a b) := by
  have ho := State.mkOperand_of_firstIssue hfirst hop
  cases hp : s.presAt x <;> rw [hp] at hready
  case full =>
    exact completes_of_advance (exec_mkWait_of_full hready ho rfl) (by simp [Slot.wrG]) (by simp [Slot.status_wrG, Slot.status_seen])
  case void =>
    exact completes_of_advance (exec_mkWait_of_void hready ho) (by simp [Slot.wrG, Slot.setV, hview.me])
      (by simp [Slot.status_wrG, Slot.status_setV, hview.me])
  case empty =>
    have hz : gv s a = 0 := h.resolve_left (not_not_intro hp)
    have hexec := exec_mkWait_gives_up (b := b) hready ho (.inr (by rw [hz]; rfl))
    rw [hz, if_neg (by decide)] at hexec
    exact completes_of_advance hexec (by simp [Slot.wrG]) (by simp [Slot.status_wrG, Slot.status_seen])

theorem mkForced_completes (hready : s.FindsReady u r x (s.presAt x)) (hview : s.seenAlike u) (h : s.presAt x ≠ .empty) :
    Completes s (.mkForced b) := by
  cases hp : s.presAt x <;> rw [hp] at hready
  case full =>
    exact completes_of_advance (exec_mkForced_of_full hready rfl) (by simp [Slot.wrG, hview.me]) (by simp [Slot.status_wrG, hview.me])
  case void =>
    exact completes_of_advance (exec_mkForced_of_void hready) (by simp [Slot.wrG, Slot.setV, hview.me])
      (by simp [Slot.status_wrG, Slot.status_setV, hview.me])
  case empty => exact absurd hp h

theorem mkMask_completes_of_void (hready : s.FindsReady u r x .void) (hview : s.seenAlike u) (hfirst : FirstIssue s)
    (hop : s.me.ready [.g a]) (hchunk : (gv s a).toNat < mkNch r) : Completes s (.mkMask a n) :=
  completes_of_advance (exec_mkMask_of_void hready (State.mkOperand_of_firstIssue hfirst hop) hchunk) (by simp [Slot.setV, hview.me])
    (by rw [← hview.me]; exact u.me.status_setV)

theorem mkMask_completes_of_full (hready : s.FindsReady u r x .full) (hview : s.seenAlike u) (hfirst : FirstIssue s) (hcalm : Calm s)
    (hop : s.me.ready [.g a]) (hchunk : (gv s a).toNat < mkNch r) {y : Nat}
    (hheld : HeldWords s s.who .die
      (mkChunkAddr r (fld (word (s.peek x 8)) 32 8) (fld (word (s.peek x 8)) 40 4) (gv s a).toNat 0) 8 y)
    (hwords : ∀ i, i < 8 → s.presAt (y + 8 * i) ≠ .empty ∧ FirstAt s (y + 8 * i)) : Completes s (.mkMask a n) := by
  obtain ⟨halign, hheld⟩ := hheld
  obtain ⟨k, vd, z, hread, hz⟩ := hview.maskWords_of_held hcalm (l := List.range 8) (y := fun i => y + 8 * i) fun i hi => by
    obtain ⟨hpres, hat⟩ := hwords i (List.mem_range.1 hi)
    rw [mkChunkAddr_eq_add]
    exact ⟨hheld i (List.mem_range.1 hi), add_word_aligned halign i, hpres, hat⟩
  refine completes_of_advance (exec_mkMask_of_full hready (State.mkOperand_of_firstIssue hfirst hop) hchunk
    (by rw [hview.peek]) hread) ?_ ?_
  · cases vd <;> simp [Slot.wrV, Slot.setV]
  · cases vd
    · exact s.me.status_seen _
    · exact (Slot.status_setV _).trans (s.me.status_seen _)

end Completion

/-- Settles O48: a first issue whose ready word lies in memory finds it, and each command answers by the presence that it finds. -/
theorem maskReaders : Obligations.MaskReaders := by
  unfold Obligations.MaskReaders
  refine ⟨?_, fun s a => State.mkOperand_of_firstIssue, ?_⟩
  · intro s a b n r x hr hfirst hcalm hlimits hheld hat
    obtain ⟨u, hready, hview⟩ := State.findsReady_of_held hfirst hcalm hr hlimits hheld hat
    refine ⟨mkWait_completes hready hview hfirst, mkForced_completes hready hview, fun hop hchunk => ⟨fun hp => ?_, fun hp y => ?_⟩⟩
    · exact mkMask_completes_of_void (hp ▸ hready) hview hfirst hop hchunk
    · exact mkMask_completes_of_full (hp ▸ hready) hview hfirst hcalm hop hchunk
  · intro s u w a b n c r p q o sl hc hr hw hlimits hread hq ho
    subst hc hr hw
    have hready : s.FindsReady u (s.mkSnap (s.myCtx .mk)) p q := ⟨rfl, hlimits, hread, hq.symm⟩
    refine ⟨fun hfull x hx => ?_, fun hvoid => ?_, fun hempty => ?_, exec_mkMask_beyond hlimits ho⟩
    · rw [hfull] at hready
      exact ⟨exec_mkWait_of_full hready ho hx, exec_mkForced_of_full hready hx,
        fun hchunk l vd t => exec_mkMask_of_full hready ho hchunk hx⟩
    · rw [hvoid] at hready
      exact ⟨exec_mkWait_of_void hready ho, exec_mkForced_of_void hready, exec_mkMask_of_void hready ho⟩
    · rw [hempty] at hready
      refine ⟨fun hover => ?_, fun hreply hlimit => ?_, exec_mkForced_of_empty hready, exec_mkMask_of_empty hready ho⟩
      · have hexec := exec_mkWait_gives_up (b := b) hready ho hover
        exact ⟨fun hbit => by simpa [hbit] using hexec, fun hbit => by simpa [hbit] using hexec⟩
      · have hover : ¬ (s.me.reply = .gaveUp ∨ fld o 0 63 = 0) := not_or.2 ⟨hreply, hlimit⟩
        exact ⟨fun hfirst => exec_mkWait_waits hready ho hover (.inl ⟨hfirst, rfl⟩),
          fun hfirst p0 d e y hwait => exec_mkWait_waits hready ho hover (.inr ⟨by simpa using hfirst, p0, e, y, hwait⟩)⟩

end Sys2Proof.Machine
end

section
/-! Words and instructions: the decoder reads back what the encoder writes, and every word that it takes is the encoding of what it
takes it for (R73–R83). -/

namespace Sys2Proof

open Sys2Proof.Said

/-! ### The fields of a word put together again (R73) -/

/-- Two joined values are a field of a word where each is its part of it. -/
theorem append_eq_field {k m n s : Nat} {w : BitVec k} {x : BitVec m} {y : BitVec n} (hx : x = w.extractLsb' (s + n) m)
    (hy : y = w.extractLsb' s n) : x ++ y = w.extractLsb' s (m + n) := by
  rw [hx, hy, BitVec.extractLsb'_append_extractLsb'_eq_extractLsb' rfl]

theorem ofNat_eq_field {n k : Nat} {x : BitVec n} (h : x.toNat = k) : BitVec.ofNat n k = x := by
  rw [← h, BitVec.ofNat_toNat, BitVec.setWidth_eq]

theorem const_eq_field {n : Nat} {x c : BitVec n} (h : decide (x ≠ c) = false) : c = x :=
  (Classical.not_not.1 (of_decide_eq_false h)).symm

theorem eq_of_eq_field {x w : BitVec 32} (h : x = w.extractLsb' 0 32) : x = w := h.trans BitVec.extractLsb'_eq_self

section Formats

variable {w : BitVec 32} {op : BitVec 6} (hop : op = w.extractLsb' 26 6)
include hop

theorem encRR_eq {d a b : BitVec 5} {fn : BitVec 11} (hd : d = w.extractLsb' 21 5) (ha : a = w.extractLsb' 16 5)
    (hb : b = w.extractLsb' 11 5) (hfn : fn = w.extractLsb' 0 11) : encRR op d a b fn = w :=
  eq_of_eq_field (append_eq_field (append_eq_field (append_eq_field (append_eq_field hop hd) ha) hb) hfn)

theorem encRI_eq {d a : BitVec 5} {imm : BitVec 16} (hd : d = w.extractLsb' 21 5) (ha : a = w.extractLsb' 16 5)
    (himm : imm = w.extractLsb' 0 16) : encRI op d a imm = w :=
  eq_of_eq_field (append_eq_field (append_eq_field (append_eq_field hop hd) ha) himm)

theorem encRL_eq {d : BitVec 5} {imm : BitVec 21} (hd : d = w.extractLsb' 21 5) (himm : imm = w.extractLsb' 0 21) :
    encRL op d imm = w :=
  eq_of_eq_field (append_eq_field (append_eq_field hop hd) himm)

theorem encRB_eq {cc : BitVec 4} {a b : BitVec 5} {disp : BitVec 12} (hcc : cc = w.extractLsb' 22 4) (ha : a = w.extractLsb' 17 5)
    (hb : b = w.extractLsb' 12 5) (hdisp : disp = w.extractLsb' 0 12) : encRB op cc a b disp = w :=
  eq_of_eq_field (append_eq_field (append_eq_field (append_eq_field (append_eq_field hop hcc) ha) hb) hdisp)

theorem encJ_eq {l : BitVec 1} {disp : BitVec 25} (hl : l = w.extractLsb' 25 1) (hdisp : disp = w.extractLsb' 0 25) :
    encJ op l disp = w :=
  eq_of_eq_field (append_eq_field (append_eq_field hop hl) hdisp)

theorem encRM_eq {d a : BitVec 5} {off : BitVec 9} {sc : BitVec 3} {wd x : BitVec 2} (hd : d = w.extractLsb' 21 5)
    (ha : a = w.extractLsb' 16 5) (hoff : off = w.extractLsb' 7 9) (hsc : sc = w.extractLsb' 4 3) (hwd : wd = w.extractLsb' 2 2)
    (hx : x = w.extractLsb' 0 2) : encRM op d a off sc wd x = w :=
  eq_of_eq_field (append_eq_field (append_eq_field (append_eq_field (append_eq_field (append_eq_field (append_eq_field hop hd) ha)
    hoff) hsc) hwd) hx)

theorem encRA_eq {d a b fn : BitVec 5} {sc ord : BitVec 3} (hd : d = w.extractLsb' 21 5) (ha : a = w.extractLsb' 16 5)
    (hb : b = w.extractLsb' 11 5) (hfn : fn = w.extractLsb' 6 5) (hsc : sc = w.extractLsb' 3 3) (hord : ord = w.extractLsb' 0 3) :
    encRA op d a b fn sc ord = w :=
  eq_of_eq_field (append_eq_field (append_eq_field (append_eq_field (append_eq_field (append_eq_field (append_eq_field hop hd) ha)
    hb) hfn) hsc) hord)

theorem encRF_eq {d a b c : BitVec 5} {fn : BitVec 6} (hd : d = w.extractLsb' 21 5) (ha : a = w.extractLsb' 16 5)
    (hb : b = w.extractLsb' 11 5) (hc : c = w.extractLsb' 6 5) (hfn : fn = w.extractLsb' 0 6) : encRF op d a b c fn = w :=
  eq_of_eq_field (append_eq_field (append_eq_field (append_eq_field (append_eq_field (append_eq_field hop hd) ha) hb) hc) hfn)

theorem encV_eq {vd va vb : BitVec 4} {km : BitVec 3} {ew : BitVec 2} {fn : BitVec 9} (hvd : vd = w.extractLsb' 22 4)
    (hva : va = w.extractLsb' 18 4) (hvb : vb = w.extractLsb' 14 4) (hkm : km = w.extractLsb' 11 3) (hew : ew = w.extractLsb' 9 2)
    (hfn : fn = w.extractLsb' 0 9) : encV op vd va vb km ew fn = w :=
  eq_of_eq_field (append_eq_field (append_eq_field (append_eq_field (append_eq_field (append_eq_field (append_eq_field hop hvd) hva)
    hvb) hkm) hew) hfn)

theorem encVF_eq {vd va vb vc : BitVec 4} {km : BitVec 3} {fn : BitVec 7} (hvd : vd = w.extractLsb' 22 4)
    (hva : va = w.extractLsb' 18 4) (hvb : vb = w.extractLsb' 14 4) (hvc : vc = w.extractLsb' 10 4) (hkm : km = w.extractLsb' 7 3)
    (hfn : fn = w.extractLsb' 0 7) : encVF op vd va vb vc km fn = w :=
  eq_of_eq_field (append_eq_field (append_eq_field (append_eq_field (append_eq_field (append_eq_field (append_eq_field hop hvd) hva)
    hvb) hvc) hkm) hfn)

theorem encVS_eq {vd va : BitVec 4} {g lane fn : BitVec 5} {km : BitVec 3} (hvd : vd = w.extractLsb' 22 4)
    (hg : g = w.extractLsb' 17 5) (hva : va = w.extractLsb' 13 4) (hkm : km = w.extractLsb' 10 3) (hlane : lane = w.extractLsb' 5 5)
    (hfn : fn = w.extractLsb' 0 5) : encVS op vd g va km lane fn = w :=
  eq_of_eq_field (append_eq_field (append_eq_field (append_eq_field (append_eq_field (append_eq_field (append_eq_field hop hvd) hg)
    hva) hkm) hlane) hfn)

theorem encVM_eq {vd : BitVec 4} {a b : BitVec 5} {km : BitVec 3} {ew : BitVec 2} {fn : BitVec 7} (hvd : vd = w.extractLsb' 22 4)
    (ha : a = w.extractLsb' 17 5) (hb : b = w.extractLsb' 12 5) (hkm : km = w.extractLsb' 9 3) (hew : ew = w.extractLsb' 7 2)
    (hfn : fn = w.extractLsb' 0 7) : encVM op vd a b km ew fn = w :=
  eq_of_eq_field (append_eq_field (append_eq_field (append_eq_field (append_eq_field (append_eq_field (append_eq_field hop hvd) ha)
    hb) hkm) hew) hfn)

theorem encS_eq {fn : BitVec 6} {a b : BitVec 5} {imm : BitVec 10} (hfn : fn = w.extractLsb' 20 6) (ha : a = w.extractLsb' 15 5)
    (hb : b = w.extractLsb' 10 5) (himm : imm = w.extractLsb' 0 10) : encS op fn a b imm = w :=
  eq_of_eq_field (append_eq_field (append_eq_field (append_eq_field (append_eq_field hop hfn) ha) hb) himm)

end Formats

/-! ### The field values that pass the decoder are those that are well-formed (R75) -/

theorem scopeOk_of_legal {s : BitVec 3} (h : decide (s = 7) = false) : scopeOk s = true := decide_eq_true (of_decide_eq_false h)
theorem orderOk_of_legal {o : BitVec 3} (h : decide (4 < o) = false) : orderOk o = true :=
  decide_eq_true (BitVec.not_lt.1 (of_decide_eq_false h))
theorem levelOk_of_legal {l : BitVec 3} (h : decide (5 < l) = false) : levelOk l = true :=
  decide_eq_true (BitVec.not_lt.1 (of_decide_eq_false h))
theorem widthOk_of_legal {e : BitVec 2} (h : decide (e = 3) = false) : widthOk e = true := decide_eq_true (of_decide_eq_false h)
theorem fieldOk_of_legal {f : BitVec 5} (h : decide (13 ≤ f ∧ f ≤ 15) = false) : fieldOk f = true := by
  rw [Bool.decide_and] at h
  exact congrArg not h
theorem formatOk_of_legal {e : BitVec 2} (h0 : decide (e = 0) = false) (h3 : decide (e = 3) = false) : formatOk e = true := by
  revert e; decide

/-! ### What a decoder makes of a word -/

/-- What a word must be to decode to `i` (R82). -/
def IsEncoding (w : BitVec 32) (i : Instr) : Prop := i.encoded = true ∧ i.wf = true ∧ encode i = w

/-- A word is the encoding of what it decodes to, or it is rejected by a name that R82 gives it. -/
def Sound (w : BitVec 32) : Except Reject Instr → Prop
  | .ok i => IsEncoding w i
  | .error r => r = .reserved w ∨ r = .nonzeroField (badFieldEval w) ∨ r = .immediate w

theorem sound_reserved (w : BitVec 32) : Sound w (.error (.reserved w)) := .inl rfl

/-- Outside the majors of the engines, EVAL of a nonzero reserved field is the word. -/
theorem badFieldEval_of_major {w : BitVec 32} {op : BitVec 6} (hop : op = w.extractLsb' 26 6)
    (h : ¬ (40 ≤ op.toNat ∧ op.toNat ≤ 46)) : badFieldEval w = w.setWidth 64 := by
  subst hop
  exact if_neg fun ⟨hlow, hhigh, _⟩ => h ⟨hlow, hhigh⟩

/-- Of the engines' words only those that name a register have an EVAL of their own (R19). -/
theorem badFieldEval_of_command {w : BitVec 32} {c : Nat} (h : (w.extractLsb' 20 6).toNat = c) (hc : 2 ≤ c) :
    badFieldEval w = w.setWidth 64 := by
  subst h
  exact if_neg fun ⟨_, _, hlt⟩ => absurd hlt (Nat.not_lt.2 hc)

/-- None of a row's checks finds anything. -/
def AllFalse : List Bool → Prop
  | [] => True
  | [b] => b = false
  | b :: l => b = false ∧ AllFalse l

theorem allFalse_of_any : {l : List Bool} → l.any id = false → AllFalse l
  | [], _ => trivial
  | [_], h =>
    have ⟨hb, _⟩ := Bool.or_eq_false_iff.1 h
    hb
  | _ :: _ :: _, h =>
    have ⟨hb, hl⟩ := Bool.or_eq_false_iff.1 h
    ⟨hb, allFalse_of_any hl⟩

theorem legal_sound {w : BitVec 32} {rs ns : List Bool} {i : Instr} (hev : badFieldEval w = w.setWidth 64)
    (hi : AllFalse rs → AllFalse ns → IsEncoding w i) : Sound w (legal w rs ns i) := by
  unfold legal
  split
  · exact sound_reserved w
  · next hrs =>
    split
    · exact .inr (.inl (by rw [hev]))
    · next hns => exact hi (allFalse_of_any (eq_false_of_ne_true hrs)) (allFalse_of_any (eq_false_of_ne_true hns))

theorem legalIn_sound {w : BitVec 32} {ns : List Bool} {max : Nat} {i : Instr} (hev : badFieldEval w = w.setWidth 64)
    (hi : AllFalse ns → w.extractLsb' 0 10 ≠ 0 → (w.extractLsb' 0 10).toNat ≤ max → IsEncoding w i) :
    Sound w (legalIn w ns max i) := by
  unfold legalIn
  split
  · exact .inr (.inl (by rw [hev]))
  · next hns =>
    split
    · exact .inr (.inr rfl)
    · next himm =>
      obtain ⟨hne, hle⟩ := not_or.1 himm
      exact hi (allFalse_of_any (eq_false_of_ne_true hns)) hne (Nat.not_lt.1 hle)

/-! ### The scalar majors

A row of a decoder names its reserved and zero fields, in order; with them every field of the row's format is known, and so is the word.
The cases that share the shape of their row are taken together. -/

section Majors

variable {w : BitVec 32}

theorem decInt_sound (hop : 1#6 = w.extractLsb' 26 6) : Sound w (decInt w) := by
  have hev := badFieldEval_of_major hop (by decide)
  unfold decInt
  split
  case h_26 => exact sound_reserved w
  case h_15 | h_16 | h_17 =>
    exact legal_sound hev fun _ hb => ⟨rfl, rfl, encRR_eq hop rfl rfl (const_eq_field hb) (ofNat_eq_field ‹_›)⟩
  all_goals exact legal_sound hev fun _ _ => ⟨rfl, rfl, encRR_eq hop rfl rfl rfl (ofNat_eq_field ‹_›)⟩

theorem decMulDiv_sound (hop : 2#6 = w.extractLsb' 26 6) : Sound w (decMulDiv w) := by
  have hev := badFieldEval_of_major hop (by decide)
  unfold decMulDiv
  split
  case h_9 => exact sound_reserved w
  all_goals exact legal_sound hev fun _ _ => ⟨rfl, rfl, encRR_eq hop rfl rfl rfl (ofNat_eq_field ‹_›)⟩

theorem decShi_sound (hop : 7#6 = w.extractLsb' 26 6) : Sound w (decShi w) := by
  have hev := badFieldEval_of_major hop (by decide)
  have hkind {k : Nat} (h : (w.extractLsb' 14 2).toNat = k) (hz : decide (w.extractLsb' 6 8 ≠ 0) = false) :
      BitVec.ofNat 2 k ++ 0#8 = w.extractLsb' 6 10 := append_eq_field (ofNat_eq_field h) (const_eq_field hz)
  unfold decShi
  split
  case h_4 => exact sound_reserved w
  all_goals next h => exact legal_sound hev fun _ hz => ⟨rfl, rfl, encRI_eq hop rfl rfl (append_eq_field (hkind h hz) rfl)⟩

theorem decBranch_sound (hop : 11#6 = w.extractLsb' 26 6) : Sound w (decBranch w) := by
  have hev := badFieldEval_of_major hop (by decide)
  unfold decBranch
  split
  case h_9 => exact sound_reserved w
  case h_7 | h_8 =>
    exact legal_sound hev fun _ ⟨ha, hb⟩ =>
      ⟨rfl, rfl, encRB_eq hop (ofNat_eq_field ‹_›) (const_eq_field ha) (const_eq_field hb) rfl⟩
  all_goals exact legal_sound hev fun _ _ => ⟨rfl, rfl, encRB_eq hop (ofNat_eq_field ‹_›) rfl rfl rfl⟩

theorem decJump_sound (hop : 12#6 = w.extractLsb' 26 6) : Sound w (decJump w) := by
  have hev := badFieldEval_of_major hop (by decide)
  unfold decJump
  split
  case h_3 => exact sound_reserved w
  all_goals exact legal_sound hev fun _ _ => ⟨rfl, rfl, encJ_eq hop (ofNat_eq_field ‹_›) rfl⟩

theorem decFp_sound (hop : 14#6 = w.extractLsb' 26 6) : Sound w (decFp w) := by
  have hev := badFieldEval_of_major hop (by decide)
  unfold decFp
  split
  next hcvt =>
    exact legal_sound hev fun hne hb =>
      ⟨rfl, congrArg not hne, encRR_eq hop rfl rfl (const_eq_field hb) (append_eq_field (append_eq_field hcvt.symm rfl) rfl)⟩
  next =>
    split
    case h_14 => exact sound_reserved w
    case h_5 | h_11 | h_12 | h_13 =>
      exact legal_sound hev fun _ hb => ⟨rfl, rfl, encRR_eq hop rfl rfl (const_eq_field hb) (ofNat_eq_field ‹_›)⟩
    all_goals exact legal_sound hev fun _ _ => ⟨rfl, rfl, encRR_eq hop rfl rfl rfl (ofNat_eq_field ‹_›)⟩

theorem decFfma_sound (hop : 15#6 = w.extractLsb' 26 6) : Sound w (decFfma w) := by
  have hev := badFieldEval_of_major hop (by decide)
  unfold decFfma
  split
  case h_4 => exact sound_reserved w
  all_goals exact legal_sound hev fun _ _ => ⟨rfl, rfl, encRF_eq hop rfl rfl rfl rfl (ofNat_eq_field ‹_›)⟩

theorem decRnd_sound (hop : 33#6 = w.extractLsb' 26 6) : Sound w (decRnd w) := by
  have hev := badFieldEval_of_major hop (by decide)
  unfold decRnd
  split
  case h_3 => exact sound_reserved w
  all_goals exact legal_sound hev fun _ _ => ⟨rfl, rfl, encRR_eq hop rfl rfl rfl (ofNat_eq_field ‹_›)⟩

/-! ### The majors of memory, synchronization and the system -/

theorem decPresLoad_sound (hop : 18#6 = w.extractLsb' 26 6) : Sound w (decPresLoad w) := by
  have hev := badFieldEval_of_major hop (by decide)
  unfold decPresLoad
  split
  next => exact sound_reserved w
  next hwd =>
    have hwd := (Classical.not_not.1 hwd).symm
    split
    case h_5 => exact sound_reserved w
    all_goals exact legal_sound hev fun hs _ => ⟨rfl, scopeOk_of_legal hs, encRM_eq hop rfl rfl rfl rfl hwd (ofNat_eq_field ‹_›)⟩

theorem decPresStore_sound (hop : 19#6 = w.extractLsb' 26 6) : Sound w (decPresStore w) := by
  have hev := badFieldEval_of_major hop (by decide)
  unfold decPresStore
  split
  next => exact sound_reserved w
  next hwd =>
    have hwd := (Classical.not_not.1 hwd).symm
    split
    case h_5 => exact sound_reserved w
    all_goals exact legal_sound hev fun hs _ => ⟨rfl, scopeOk_of_legal hs, encRM_eq hop rfl rfl rfl rfl hwd (ofNat_eq_field ‹_›)⟩

theorem decAmo_sound (hop : 20#6 = w.extractLsb' 26 6) : Sound w (decAmo w) := by
  have hev := badFieldEval_of_major hop (by decide)
  have hok (hs : decide (w.extractLsb' 3 3 = 7) = false) (ho : decide (4 < w.extractLsb' 0 3) = false) :
      (scopeOk (w.extractLsb' 3 3) && orderOk (w.extractLsb' 0 3)) = true :=
    Bool.and_eq_true_iff.2 ⟨scopeOk_of_legal hs, orderOk_of_legal ho⟩
  unfold decAmo
  split
  case h_13 => exact sound_reserved w
  all_goals exact legal_sound hev fun ⟨hs, ho⟩ _ => ⟨rfl, hok hs ho, encRA_eq hop rfl rfl rfl (ofNat_eq_field ‹_›) rfl rfl⟩

theorem decSync_sound (hop : 21#6 = w.extractLsb' 26 6) : Sound w (decSync w) := by
  have hev := badFieldEval_of_major hop (by decide)
  unfold decSync
  split
  case h_1 =>
    exact legal_sound hev fun hs ⟨ha, hb, hz⟩ => ⟨rfl, scopeOk_of_legal hs, encS_eq hop (ofNat_eq_field ‹_›) (const_eq_field ha)
      (const_eq_field hb) (append_eq_field (append_eq_field (append_eq_field (const_eq_field hz) rfl) rfl) rfl)⟩
  case h_2 =>
    exact legal_sound hev fun hl ⟨ha, hb, hz⟩ => ⟨rfl, levelOk_of_legal hl, encS_eq hop (ofNat_eq_field ‹_›) (const_eq_field ha)
      (const_eq_field hb) (append_eq_field (append_eq_field (const_eq_field hz) rfl) rfl)⟩
  case h_3 =>
    exact legal_sound hev fun hl ⟨ha, hz⟩ => ⟨rfl, levelOk_of_legal hl, encS_eq hop (ofNat_eq_field ‹_›) (const_eq_field ha) rfl
      (append_eq_field (append_eq_field (const_eq_field hz) rfl) rfl)⟩
  case h_4 =>
    exact legal_sound hev fun hl ⟨hb, hz⟩ => ⟨rfl, levelOk_of_legal hl, encS_eq hop (ofNat_eq_field ‹_›) rfl (const_eq_field hb)
      (append_eq_field (append_eq_field (const_eq_field hz) rfl) rfl)⟩
  case h_5 =>
    exact legal_sound hev fun _ ⟨hb, hz⟩ =>
      ⟨rfl, rfl, encS_eq hop (ofNat_eq_field ‹_›) rfl (const_eq_field hb) (const_eq_field hz)⟩
  case h_9 => exact sound_reserved w
  all_goals exact legal_sound hev fun _ hz => ⟨rfl, rfl, encS_eq hop (ofNat_eq_field ‹_›) rfl rfl (const_eq_field hz)⟩

theorem decPutr_sound (hop : 22#6 = w.extractLsb' 26 6) : Sound w (decPutr w) := by
  have hev := badFieldEval_of_major hop (by decide)
  unfold decPutr
  split
  case h_1 =>
    exact legal_sound hev fun _ hz =>
      ⟨rfl, rfl, encS_eq hop (ofNat_eq_field ‹_›) rfl rfl (append_eq_field (append_eq_field rfl rfl) (const_eq_field hz))⟩
  case h_2 =>
    exact legal_sound hev fun _ ⟨ha, hz, ht⟩ => ⟨rfl, rfl, encS_eq hop (ofNat_eq_field ‹_›) (append_eq_field (const_eq_field ha) rfl)
      rfl (append_eq_field (append_eq_field (append_eq_field (const_eq_field ht) rfl) rfl) (const_eq_field hz))⟩
  case h_3 => exact sound_reserved w

theorem decSys_sound (hop : 23#6 = w.extractLsb' 26 6) : Sound w (decSys w) := by
  have hev := badFieldEval_of_major hop (by decide)
  unfold decSys
  split
  case h_1 =>
    exact legal_sound hev fun _ ⟨ha, hb⟩ =>
      ⟨rfl, rfl, encS_eq hop (ofNat_eq_field ‹_›) (const_eq_field ha) (const_eq_field hb) rfl⟩
  case h_2 | h_8 | h_9 | h_10 =>
    exact legal_sound hev fun _ ⟨ha, hb, hz⟩ =>
      ⟨rfl, rfl, encS_eq hop (ofNat_eq_field ‹_›) (const_eq_field ha) (const_eq_field hb) (const_eq_field hz)⟩
  case h_3 => exact legal_sound hev fun _ ha => ⟨rfl, rfl, encS_eq hop (ofNat_eq_field ‹_›) (const_eq_field ha) rfl rfl⟩
  case h_4 | h_5 | h_6 => exact legal_sound hev fun _ _ => ⟨rfl, rfl, encS_eq hop (ofNat_eq_field ‹_›) rfl rfl rfl⟩
  case h_7 => exact legal_sound hev fun _ hz => ⟨rfl, rfl, encS_eq hop (ofNat_eq_field ‹_›) rfl rfl (const_eq_field hz)⟩
  case h_11 =>
    exact legal_sound hev fun _ ⟨hb, hz⟩ =>
      ⟨rfl, rfl, encS_eq hop (ofNat_eq_field ‹_›) rfl (const_eq_field hb) (append_eq_field (const_eq_field hz) rfl)⟩
  case h_12 =>
    exact legal_sound hev fun _ ⟨ha, hz⟩ =>
      ⟨rfl, rfl, encS_eq hop (ofNat_eq_field ‹_›) (const_eq_field ha) rfl (const_eq_field hz)⟩
  case h_13 =>
    exact legal_sound hev fun _ ⟨ha, hv, hz⟩ => ⟨rfl, rfl, encS_eq hop (ofNat_eq_field ‹_›) (const_eq_field ha)
      (append_eq_field (const_eq_field hv) rfl) (const_eq_field hz)⟩
  case h_14 => exact sound_reserved w

/-! ### The vector majors -/

theorem decVint_sound (hop : 24#6 = w.extractLsb' 26 6) : Sound w (decVint w) := by
  have hev := badFieldEval_of_major hop (by decide)
  unfold decVint
  split
  case h_17 => exact sound_reserved w
  all_goals exact legal_sound hev fun he _ => ⟨rfl, widthOk_of_legal he, encV_eq hop rfl rfl rfl rfl rfl (ofNat_eq_field ‹_›)⟩

theorem decVfp_sound (hop : 25#6 = w.extractLsb' 26 6) : Sound w (decVfp w) := by
  have hev := badFieldEval_of_major hop (by decide)
  unfold decVfp
  split
  case h_12 => exact sound_reserved w
  case h_5 | h_8 | h_9 | h_10 | h_11 =>
    exact legal_sound hev fun ⟨h0, h3⟩ hb =>
      ⟨rfl, formatOk_of_legal h0 h3, encV_eq hop rfl rfl (const_eq_field hb) rfl rfl (ofNat_eq_field ‹_›)⟩
  all_goals
    exact legal_sound hev fun ⟨h0, h3⟩ _ =>
      ⟨rfl, formatOk_of_legal h0 h3, encV_eq hop rfl rfl rfl rfl rfl (ofNat_eq_field ‹_›)⟩

theorem decVfma_sound (hop : 26#6 = w.extractLsb' 26 6) : Sound w (decVfma w) := by
  have hev := badFieldEval_of_major hop (by decide)
  have hfn {k : Nat} (h : (w.extractLsb' 0 5).toNat = k) (hz : decide (w.extractLsb' 5 2 ≠ 0) = false) :
      0#2 ++ BitVec.ofNat 5 k = w.extractLsb' 0 7 := append_eq_field (const_eq_field hz) (ofNat_eq_field h)
  unfold decVfma
  split
  case h_4 => exact sound_reserved w
  all_goals next h => exact legal_sound hev fun _ hz => ⟨rfl, rfl, encVF_eq hop rfl rfl rfl rfl rfl (hfn h hz)⟩

theorem decVmask_sound (hop : 27#6 = w.extractLsb' 26 6) : Sound w (decVmask w) := by
  have hev := badFieldEval_of_major hop (by decide)
  unfold decVmask
  split
  case h_7 | h_8 | h_9 | h_10 =>
    exact legal_sound hev fun ⟨h0, h3⟩ hd => ⟨rfl, formatOk_of_legal h0 h3,
      encV_eq hop (append_eq_field (const_eq_field hd) rfl) rfl rfl rfl rfl (ofNat_eq_field ‹_›)⟩
  case h_11 =>
    exact legal_sound hev fun he _ =>
      ⟨rfl, rfl, encV_eq hop rfl rfl rfl rfl (const_eq_field he) (ofNat_eq_field ‹_›)⟩
  case h_12 | h_13 | h_14 =>
    exact legal_sound hev fun _ ⟨hd, ha, hb, he⟩ => ⟨rfl, rfl, encV_eq hop (append_eq_field (const_eq_field hd) rfl)
      (append_eq_field (const_eq_field ha) rfl) (append_eq_field (const_eq_field hb) rfl) rfl (const_eq_field he) (ofNat_eq_field ‹_›)⟩
  case h_15 =>
    exact legal_sound hev fun _ ⟨hd, ha, hb, he⟩ => ⟨rfl, rfl, encV_eq hop (append_eq_field (const_eq_field hd) rfl)
      (append_eq_field (const_eq_field ha) rfl) (const_eq_field hb) rfl (const_eq_field he) (ofNat_eq_field ‹_›)⟩
  case h_16 => exact sound_reserved w
  all_goals
    exact legal_sound hev fun he hd => ⟨rfl, widthOk_of_legal he,
      encV_eq hop (append_eq_field (const_eq_field hd) rfl) rfl rfl rfl rfl (ofNat_eq_field ‹_›)⟩

/-- Major 0x1C has its functions in five bits, also in format V. -/
theorem vperm_fn {k : Nat} (h : (w.extractLsb' 0 5).toNat = k) (hz : decide (w.extractLsb' 5 4 ≠ 0) = false) :
    0#4 ++ BitVec.ofNat 5 k = w.extractLsb' 0 9 := append_eq_field (const_eq_field hz) (ofNat_eq_field h)

theorem decVperm_sound (hop : 28#6 = w.extractLsb' 26 6) : Sound w (decVperm w) := by
  have hev := badFieldEval_of_major hop (by decide)
  unfold decVperm
  split
  case h_1 =>
    exact legal_sound hev fun _ ⟨ha, hl⟩ =>
      ⟨rfl, rfl, encVS_eq hop rfl rfl (const_eq_field ha) rfl (const_eq_field hl) (ofNat_eq_field ‹_›)⟩
  case h_2 =>
    exact legal_sound hev fun _ ⟨hd, hk⟩ =>
      ⟨rfl, rfl, encVS_eq hop (const_eq_field hd) rfl rfl (const_eq_field hk) rfl (ofNat_eq_field ‹_›)⟩
  case h_3 =>
    exact legal_sound hev fun _ ⟨ha, hk⟩ =>
      ⟨rfl, rfl, encVS_eq hop rfl rfl (const_eq_field ha) (const_eq_field hk) rfl (ofNat_eq_field ‹_›)⟩
  case h_4 | h_5 =>
    exact legal_sound hev fun _ ⟨hd, ha, hl⟩ => ⟨rfl, rfl, encVS_eq hop (const_eq_field hd) rfl
      (append_eq_field (const_eq_field ha) rfl) rfl (const_eq_field hl) (ofNat_eq_field ‹_›)⟩
  case h_6 h =>
    exact legal_sound hev fun he hz => ⟨rfl, widthOk_of_legal he, encV_eq hop rfl rfl rfl rfl rfl (vperm_fn h hz)⟩
  case h_10 h | h_11 h =>
    exact legal_sound hev fun he ⟨hb, hz⟩ => ⟨rfl, rfl, encV_eq hop rfl rfl (const_eq_field hb) rfl
      (const_eq_field he) (vperm_fn h hz)⟩
  case h_12 h =>
    exact legal_sound hev fun he hz =>
      ⟨rfl, rfl, encV_eq hop rfl rfl rfl rfl (const_eq_field he) (vperm_fn h hz)⟩
  case h_14 => exact sound_reserved w
  all_goals next h =>
    exact legal_sound hev fun he ⟨hb, hz⟩ =>
      ⟨rfl, widthOk_of_legal he, encV_eq hop rfl rfl (const_eq_field hb) rfl rfl (vperm_fn h hz)⟩

theorem decVmem_sound (hop : 29#6 = w.extractLsb' 26 6) : Sound w (decVmem w) := by
  have hev := badFieldEval_of_major hop (by decide)
  unfold decVmem
  split
  case h_3 | h_4 =>
    exact legal_sound hev fun he _ => ⟨rfl, widthOk_of_legal he, encVM_eq hop rfl rfl rfl rfl rfl (ofNat_eq_field ‹_›)⟩
  case h_6 => exact sound_reserved w
  all_goals
    exact legal_sound hev fun he hb =>
      ⟨rfl, widthOk_of_legal he, encVM_eq hop rfl rfl (const_eq_field hb) rfl rfl (ofNat_eq_field ‹_›)⟩

theorem decVidx_sound (hop : 30#6 = w.extractLsb' 26 6) : Sound w (decVidx w) := by
  have hev := badFieldEval_of_major hop (by decide)
  unfold decVidx
  split
  case h_4 => exact sound_reserved w
  all_goals
    exact legal_sound hev fun he hb => ⟨rfl, rfl, encVM_eq hop rfl rfl (append_eq_field rfl (const_eq_field hb)) rfl
      (const_eq_field he) (ofNat_eq_field ‹_›)⟩

/-! ### The bit-buffer (R219) -/

theorem bitsOk_of_range {n : BitVec 10} (h0 : n ≠ 0) (h : n.toNat ≤ 57) : bitsOk n = true :=
  Bool.and_eq_true_iff.2 ⟨decide_eq_true h0, decide_eq_true h⟩

theorem windowOk_of_range {n : BitVec 10} (h0 : n ≠ 0) (h : n.toNat ≤ 16) : windowOk n = true :=
  Bool.and_eq_true_iff.2 ⟨decide_eq_true h0, decide_eq_true h⟩

theorem decBs_sound (hop : 32#6 = w.extractLsb' 26 6) : Sound w (decBs w) := by
  have hev := badFieldEval_of_major hop (by decide)
  unfold decBs
  split
  case h_1 => exact legal_sound hev fun _ hz => ⟨rfl, rfl, encS_eq hop (ofNat_eq_field ‹_›) rfl rfl (const_eq_field hz)⟩
  case h_2 | h_3 =>
    exact legalIn_sound hev fun ha h0 hn =>
      ⟨rfl, bitsOk_of_range h0 hn, encS_eq hop (ofNat_eq_field ‹_›) (const_eq_field ha) rfl rfl⟩
  case h_4 => exact legal_sound hev fun _ hb => ⟨rfl, rfl, encS_eq hop (ofNat_eq_field ‹_›) rfl (const_eq_field hb) rfl⟩
  case h_5 =>
    exact legalIn_sound hev fun _ h0 hm => ⟨rfl, windowOk_of_range h0 hm, encS_eq hop (ofNat_eq_field ‹_›) rfl rfl rfl⟩
  case h_6 =>
    exact legalIn_sound hev fun hb h0 hk =>
      ⟨rfl, bitsOk_of_range h0 hk, encS_eq hop (ofNat_eq_field ‹_›) rfl (const_eq_field hb) rfl⟩
  case h_7 | h_8 =>
    exact legal_sound hev fun _ ⟨hb, hz⟩ =>
      ⟨rfl, rfl, encS_eq hop (ofNat_eq_field ‹_›) rfl (const_eq_field hb) (const_eq_field hz)⟩
  case h_9 => exact sound_reserved w

/-! ### The majors of the engines (R19) -/

/-- The number of registers of the engine of a major (R19). -/
def engineRegs (op : BitVec 6) : Nat := [3, 1, 13, 9, 11, 11, 11].getD (op.toNat - 40) 0

theorem engineRegs_le (op : BitVec 6) : engineRegs op ≤ 64 := by revert op; decide

/-- EVAL of a register instruction: the index where it is past the register map, else the unused field. -/
theorem badFieldEval_of_register {op c : BitVec 6} (hop : op = w.extractLsb' 26 6) (hc : c = w.extractLsb' 20 6)
    (hm : 40 ≤ op.toNat ∧ op.toNat ≤ 46) (hc2 : c.toNat < 2) :
    badFieldEval w = if engineRegs op ≤ (w.extractLsb' 0 10).toNat then (w.extractLsb' 0 10).setWidth 64
      else if c.toNat = 0 then (w.extractLsb' 10 5).setWidth 64 else (w.extractLsb' 15 5).setWidth 64 := by
  subst hop hc
  exact if_pos ⟨hm.1, hm.2, hc2⟩

theorem index_toNat (w : BitVec 32) : (w.extractLsb' 0 10).toNat = (w.extractLsb' 6 4).toNat * 64 + (w.extractLsb' 0 6).toNat := by
  rw [← append_eq_field (s := 0) (w := w) (x := w.extractLsb' 6 4) (y := w.extractLsb' 0 6) rfl rfl]
  exact Machine.append_toNat _ _

/-- An index that the register map holds, with the unused field 0, makes the instruction; else EVAL is that of R19. -/
theorem decIndex_sound {n : Nat} {unused : BitVec 5} {i : Instr} (hn : n ≤ 64)
    (hev : badFieldEval w = if n ≤ (w.extractLsb' 0 10).toNat then (w.extractLsb' 0 10).setWidth 64 else unused.setWidth 64)
    (hi : 0 = w.extractLsb' 6 4 → (w.extractLsb' 0 6).toNat < n → 0 = unused → IsEncoding w i) :
    Sound w (decIndex w n unused i) := by
  have hindex := index_toNat w
  unfold decIndex
  split
  next hhigh =>
    have hpos : (w.extractLsb' 6 4).toNat ≠ 0 := fun h => hhigh (BitVec.eq_of_toNat_eq h)
    exact .inr (.inl (by rw [hev, if_pos (by omega)]))
  next hhigh =>
    have hhigh := Classical.not_not.1 hhigh
    rw [hhigh, show (0 : BitVec 4).toNat = 0 from rfl, Nat.zero_mul, Nat.zero_add] at hindex
    split
    next hout =>
      have hword : (w.extractLsb' 0 10).setWidth 64 = (w.extractLsb' 0 6).setWidth 64 :=
        BitVec.eq_of_toNat_eq (by rw [BitVec.toNat_setWidth, BitVec.toNat_setWidth, hindex])
      exact .inr (.inl (by rw [hev, if_pos (hindex ▸ hout), hword]))
    next hin =>
      split
      · exact .inr (.inl (by rw [hev, if_neg (hindex ▸ hin)]))
      · next hunused => exact hi hhigh.symm (Nat.not_le.1 hin) (Classical.not_not.1 hunused).symm

theorem decErw_sound {op : BitVec 6} {i : Instr} (hop : op = w.extractLsb' 26 6) (hc : (w.extractLsb' 20 6).toNat = 0)
    (hm : 40 ≤ op.toNat ∧ op.toNat ≤ 46) (hencoded : i.encoded = true) (hwf : i.wf = decide ((w.extractLsb' 0 6).toNat < engineRegs op))
    (henc : encode i = encS op 0#6 (w.extractLsb' 15 5) 0#5 (0#4 ++ w.extractLsb' 0 6)) :
    Sound w (decErw w (engineRegs op) i) :=
  decIndex_sound (engineRegs_le op) (badFieldEval_of_register hop (ofNat_eq_field hc) hm (by decide)) fun hhigh hin hunused =>
    ⟨hencoded, hwf.trans (decide_eq_true hin), henc.trans (encS_eq hop (ofNat_eq_field hc) rfl hunused (append_eq_field hhigh rfl))⟩

theorem decErr_sound {op : BitVec 6} {i : Instr} (hop : op = w.extractLsb' 26 6) (hc : (w.extractLsb' 20 6).toNat = 1)
    (hm : 40 ≤ op.toNat ∧ op.toNat ≤ 46) (hencoded : i.encoded = true) (hwf : i.wf = decide ((w.extractLsb' 0 6).toNat < engineRegs op))
    (henc : encode i = encS op 1#6 0#5 (w.extractLsb' 10 5) (0#4 ++ w.extractLsb' 0 6)) :
    Sound w (decErr w (engineRegs op) i) :=
  decIndex_sound (engineRegs_le op) (badFieldEval_of_register hop (ofNat_eq_field hc) hm (by decide)) fun hhigh hin hunused =>
    ⟨hencoded, hwf.trans (decide_eq_true hin), henc.trans (encS_eq hop (ofNat_eq_field hc) hunused rfl (append_eq_field hhigh rfl))⟩

theorem command_sound {c : Nat} {ns : List Bool} {i : Instr} (hc : (w.extractLsb' 20 6).toNat = c) (h2 : 2 ≤ c)
    (hi : AllFalse ns → IsEncoding w i) : Sound w (legal w [] ns i) :=
  legal_sound (badFieldEval_of_command hc h2) fun _ => hi

theorem decLn_sound (hop : 40#6 = w.extractLsb' 26 6) : Sound w (decLn w) := by
  unfold decLn
  split
  case h_1 h => exact decErw_sound hop h (by decide) rfl rfl rfl
  case h_2 h => exact decErr_sound hop h (by decide) rfl rfl rfl
  case h_3 h | h_4 h =>
    exact command_sound h (by decide) fun hz => ⟨rfl, rfl, encS_eq hop (ofNat_eq_field h) rfl rfl (const_eq_field hz)⟩
  case h_5 h =>
    exact command_sound h (by decide) fun ⟨hb, hz⟩ =>
      ⟨rfl, rfl, encS_eq hop (ofNat_eq_field h) rfl (const_eq_field hb) (const_eq_field hz)⟩
  case h_6 => exact sound_reserved w

theorem decFr_sound (hop : 41#6 = w.extractLsb' 26 6) : Sound w (decFr w) := by
  unfold decFr
  split
  case h_1 h => exact decErw_sound hop h (by decide) rfl rfl rfl
  case h_2 h => exact decErr_sound hop h (by decide) rfl rfl rfl
  case h_3 h | h_7 h | h_9 h =>
    exact command_sound h (by decide) fun hz => ⟨rfl, rfl, encS_eq hop (ofNat_eq_field h) rfl rfl (const_eq_field hz)⟩
  case h_4 h | h_5 h | h_8 h =>
    exact command_sound h (by decide) fun ⟨hb, hz⟩ =>
      ⟨rfl, rfl, encS_eq hop (ofNat_eq_field h) rfl (const_eq_field hb) (const_eq_field hz)⟩
  case h_6 h =>
    exact command_sound h (by decide) fun ⟨ha, hb, hz⟩ =>
      ⟨rfl, rfl, encS_eq hop (ofNat_eq_field h) (const_eq_field ha) (const_eq_field hb) (const_eq_field hz)⟩
  case h_10 h =>
    exact legal_sound (badFieldEval_of_command h (by decide)) fun hf hz =>
      ⟨rfl, fieldOk_of_legal hf, encS_eq hop (ofNat_eq_field h) rfl rfl (append_eq_field (const_eq_field hz) rfl)⟩
  case h_11 h =>
    exact command_sound h (by decide) fun ⟨hb, hz⟩ =>
      ⟨rfl, rfl, encS_eq hop (ofNat_eq_field h) rfl (const_eq_field hb) (append_eq_field (const_eq_field hz) rfl)⟩
  case h_12 => exact sound_reserved w

theorem decAt_sound (hop : 42#6 = w.extractLsb' 26 6) : Sound w (decAt w) := by
  unfold decAt
  split
  case h_1 h => exact decErw_sound hop h (by decide) rfl rfl rfl
  case h_2 h => exact decErr_sound hop h (by decide) rfl rfl rfl
  case h_3 h | h_7 h | h_10 h =>
    exact command_sound h (by decide) fun ⟨ha, hb, hz⟩ =>
      ⟨rfl, rfl, encS_eq hop (ofNat_eq_field h) (const_eq_field ha) (const_eq_field hb) (const_eq_field hz)⟩
  case h_4 h | h_6 h =>
    exact command_sound h (by decide) fun ⟨hb, hz⟩ =>
      ⟨rfl, rfl, encS_eq hop (ofNat_eq_field h) rfl (const_eq_field hb) (append_eq_field (const_eq_field hz) rfl)⟩
  case h_5 h =>
    exact command_sound h (by decide) fun hz => ⟨rfl, rfl, encS_eq hop (ofNat_eq_field h) rfl rfl (const_eq_field hz)⟩
  case h_8 h =>
    exact command_sound h (by decide) fun ⟨hb, hz⟩ =>
      ⟨rfl, rfl, encS_eq hop (ofNat_eq_field h) rfl (const_eq_field hb) (const_eq_field hz)⟩
  case h_9 h =>
    exact command_sound h (by decide) fun ⟨ha, hb, hz⟩ => ⟨rfl, rfl, encS_eq hop (ofNat_eq_field h) (const_eq_field ha) (const_eq_field hb)
      (append_eq_field (const_eq_field hz) rfl)⟩
  case h_11 => exact sound_reserved w

theorem decMx_sound (hop : 43#6 = w.extractLsb' 26 6) : Sound w (decMx w) := by
  unfold decMx
  split
  case h_1 h => exact decErw_sound hop h (by decide) rfl rfl rfl
  case h_2 h => exact decErr_sound hop h (by decide) rfl rfl rfl
  case h_3 h =>
    exact command_sound h (by decide) fun ⟨hb, hz⟩ =>
      ⟨rfl, rfl, encS_eq hop (ofNat_eq_field h) rfl (const_eq_field hb) (const_eq_field hz)⟩
  case h_4 h | h_8 h =>
    exact command_sound h (by decide) fun ⟨ha, hb, hz⟩ =>
      ⟨rfl, rfl, encS_eq hop (ofNat_eq_field h) (const_eq_field ha) (const_eq_field hb) (const_eq_field hz)⟩
  case h_5 h | h_6 h =>
    exact command_sound h (by decide) fun hz => ⟨rfl, rfl, encS_eq hop (ofNat_eq_field h) rfl rfl (const_eq_field hz)⟩
  case h_7 h =>
    exact command_sound h (by decide) fun ⟨ha, hb, hz⟩ => ⟨rfl, rfl, encS_eq hop (ofNat_eq_field h) (const_eq_field ha) (const_eq_field hb)
      (append_eq_field (const_eq_field hz) rfl)⟩
  case h_9 => exact sound_reserved w

theorem decCp_sound (hop : 44#6 = w.extractLsb' 26 6) : Sound w (decCp w) := by
  unfold decCp
  split
  case h_1 h => exact decErw_sound hop h (by decide) rfl rfl rfl
  case h_2 h => exact decErr_sound hop h (by decide) rfl rfl rfl
  case h_3 h =>
    exact command_sound h (by decide) fun hz => ⟨rfl, rfl, encS_eq hop (ofNat_eq_field h) rfl rfl (const_eq_field hz)⟩
  case h_4 h | h_5 h | h_6 h =>
    exact command_sound h (by decide) fun ⟨hb, hz⟩ =>
      ⟨rfl, rfl, encS_eq hop (ofNat_eq_field h) rfl (const_eq_field hb) (const_eq_field hz)⟩
  case h_7 => exact sound_reserved w

theorem decFx_sound (hop : 45#6 = w.extractLsb' 26 6) : Sound w (decFx w) := by
  unfold decFx
  split
  case h_1 h => exact decErw_sound hop h (by decide) rfl rfl rfl
  case h_2 h => exact decErr_sound hop h (by decide) rfl rfl rfl
  case h_3 h =>
    exact command_sound h (by decide) fun ⟨ha, hz⟩ =>
      ⟨rfl, rfl, encS_eq hop (ofNat_eq_field h) (const_eq_field ha) rfl (const_eq_field hz)⟩
  case h_4 h | h_5 h =>
    exact command_sound h (by decide) fun ⟨hb, hz⟩ =>
      ⟨rfl, rfl, encS_eq hop (ofNat_eq_field h) rfl (const_eq_field hb) (const_eq_field hz)⟩
  case h_6 h | h_7 h =>
    exact command_sound h (by decide) fun ⟨ha, hb, hz⟩ =>
      ⟨rfl, rfl, encS_eq hop (ofNat_eq_field h) (const_eq_field ha) (const_eq_field hb) (const_eq_field hz)⟩
  case h_8 => exact sound_reserved w

theorem decMk_sound (hop : 46#6 = w.extractLsb' 26 6) : Sound w (decMk w) := by
  unfold decMk
  split
  case h_1 h => exact decErw_sound hop h (by decide) rfl rfl rfl
  case h_2 h => exact decErr_sound hop h (by decide) rfl rfl rfl
  case h_3 h =>
    exact command_sound h (by decide) fun ⟨hb, hz⟩ =>
      ⟨rfl, rfl, encS_eq hop (ofNat_eq_field h) rfl (const_eq_field hb) (const_eq_field hz)⟩
  case h_4 h | h_6 h =>
    exact command_sound h (by decide) fun hz => ⟨rfl, rfl, encS_eq hop (ofNat_eq_field h) rfl rfl (const_eq_field hz)⟩
  case h_5 h =>
    exact command_sound h (by decide) fun ⟨hb, hz⟩ =>
      ⟨rfl, rfl, encS_eq hop (ofNat_eq_field h) rfl (const_eq_field hb) (append_eq_field (const_eq_field hz) rfl)⟩
  case h_7 h =>
    exact command_sound h (by decide) fun ⟨ha, hz⟩ =>
      ⟨rfl, rfl, encS_eq hop (ofNat_eq_field h) (const_eq_field ha) rfl (const_eq_field hz)⟩
  case h_8 h =>
    exact command_sound h (by decide) fun ⟨ha, hb, hz⟩ =>
      ⟨rfl, rfl, encS_eq hop (ofNat_eq_field h) (const_eq_field ha) (const_eq_field hb) (const_eq_field hz)⟩
  case h_9 => exact sound_reserved w

/-! ### Every word -/

theorem loadOk_of_legal {s : BitVec 3} {wd : BitVec 2} {x : BitVec 1} (hs : decide (s = 7) = false)
    (hx : decide (wd = 3 ∧ x = 1) = false) : (scopeOk s && !(decide (wd = 3) && decide (x = 1))) = true := by
  rw [Bool.decide_and] at hx
  exact Bool.and_eq_true_iff.2 ⟨scopeOk_of_legal hs, congrArg not hx⟩

theorem formatsOk_of_legal {f t : BitVec 4} (hf : decide (11 < f) = false) (ht : decide (11 < t) = false)
    (hne : decide (f = t) = false) : (decide (f ≤ 11) && decide (t ≤ 11) && !decide (f = t)) = true := by
  have atMost {x : BitVec 4} (h : decide (11 < x) = false) : decide (x ≤ 11) = true :=
    decide_eq_true (BitVec.not_lt.1 (of_decide_eq_false h))
  exact Bool.and_eq_true_iff.2 ⟨Bool.and_eq_true_iff.2 ⟨atMost hf, atMost ht⟩, congrArg not hne⟩

theorem decodeAny_sound (w : BitVec 32) : Sound w (decodeAny w) := by
  unfold decodeAny
  split
  case h_1 h => exact decInt_sound (ofNat_eq_field h)
  case h_2 h => exact decMulDiv_sound (ofNat_eq_field h)
  case h_3 h | h_4 h | h_5 h | h_6 h | h_10 h | h_13 h =>
    exact legal_sound (badFieldEval_of_major (ofNat_eq_field h) (by decide)) fun _ _ =>
      ⟨rfl, rfl, encRI_eq (ofNat_eq_field h) rfl rfl rfl⟩
  case h_7 h => exact decShi_sound (ofNat_eq_field h)
  case h_8 h | h_9 h =>
    exact legal_sound (badFieldEval_of_major (ofNat_eq_field h) (by decide)) fun _ _ =>
      ⟨rfl, rfl, encRL_eq (ofNat_eq_field h) rfl rfl⟩
  case h_11 h => exact decBranch_sound (ofNat_eq_field h)
  case h_12 h => exact decJump_sound (ofNat_eq_field h)
  case h_14 h => exact decFp_sound (ofNat_eq_field h)
  case h_15 h => exact decFfma_sound (ofNat_eq_field h)
  case h_16 h =>
    exact legal_sound (badFieldEval_of_major (ofNat_eq_field h) (by decide)) fun hs hx =>
      ⟨rfl, loadOk_of_legal hs hx, encRM_eq (ofNat_eq_field h) rfl rfl rfl rfl rfl (append_eq_field rfl rfl)⟩
  case h_17 h =>
    exact legal_sound (badFieldEval_of_major (ofNat_eq_field h) (by decide)) fun hs hx =>
      ⟨rfl, scopeOk_of_legal hs, encRM_eq (ofNat_eq_field h) rfl rfl rfl rfl rfl (append_eq_field (const_eq_field hx) rfl)⟩
  case h_18 h => exact decPresLoad_sound (ofNat_eq_field h)
  case h_19 h => exact decPresStore_sound (ofNat_eq_field h)
  case h_20 h => exact decAmo_sound (ofNat_eq_field h)
  case h_21 h => exact decSync_sound (ofNat_eq_field h)
  case h_22 h => exact decPutr_sound (ofNat_eq_field h)
  case h_23 h => exact decSys_sound (ofNat_eq_field h)
  case h_24 h => exact decVint_sound (ofNat_eq_field h)
  case h_25 h => exact decVfp_sound (ofNat_eq_field h)
  case h_26 h => exact decVfma_sound (ofNat_eq_field h)
  case h_27 h => exact decVmask_sound (ofNat_eq_field h)
  case h_28 h => exact decVperm_sound (ofNat_eq_field h)
  case h_29 h => exact decVmem_sound (ofNat_eq_field h)
  case h_30 h => exact decVidx_sound (ofNat_eq_field h)
  case h_31 h =>
    exact legal_sound (badFieldEval_of_major (ofNat_eq_field h) (by decide)) fun ⟨hf, ht, hne⟩ ⟨hb, he, hz⟩ =>
      ⟨rfl, formatsOk_of_legal hf ht hne, encV_eq (ofNat_eq_field h) rfl rfl (const_eq_field hb) rfl (const_eq_field he)
        (append_eq_field (append_eq_field (const_eq_field hz) rfl) rfl)⟩
  case h_32 h => exact decBs_sound (ofNat_eq_field h)
  case h_33 h => exact decRnd_sound (ofNat_eq_field h)
  case h_34 h => exact decLn_sound (ofNat_eq_field h)
  case h_35 h => exact decFr_sound (ofNat_eq_field h)
  case h_36 h => exact decAt_sound (ofNat_eq_field h)
  case h_37 h => exact decMx_sound (ofNat_eq_field h)
  case h_38 h => exact decCp_sound (ofNat_eq_field h)
  case h_39 h => exact decFx_sound (ofNat_eq_field h)
  case h_40 h => exact decMk_sound (ofNat_eq_field h)
  case h_41 => exact sound_reserved w

end Majors

theorem decode_of_hasMajor {k : CoreKind} {w : BitVec 32} (h : hasMajor k (w.extractLsb' 26 6).toNat = true) :
    decode k w = decodeAny w := if_pos h

theorem decode_sound (k : CoreKind) (w : BitVec 32) : Sound w (decode k w) := by
  unfold decode
  split
  · exact decodeAny_sound w
  · exact sound_reserved w

theorem hasMajor_of_decode {k : CoreKind} {w : BitVec 32} {i : Instr} (h : decode k w = .ok i) :
    hasMajor k (w.extractLsb' 26 6).toNat = true := by
  unfold decode at h
  split at h
  · assumption
  · cases h

/-- Settles O3: by what the decoder of each major makes of a word. -/
theorem encodeInvertsDecode : Obligations.EncodeInvertsDecode := by
  unfold Obligations.EncodeInvertsDecode
  intro k w i h
  have hw := decode_sound k w
  rw [h] at hw
  obtain ⟨hencoded, hwf, henc⟩ := hw
  exact ⟨hencoded, hwf, hasMajor_of_decode h, henc⟩

/-! ### Every instruction -/

open Sys2Proof.Laws in
theorem decodeAny_encode (i : Instr) : RoundTrip.Statement i := by
  cases i with
  | add => exact RoundTrip.add _ _ _
  | sub => exact RoundTrip.sub _ _ _
  | and => exact RoundTrip.and _ _ _
  | or => exact RoundTrip.or _ _ _
  | xor => exact RoundTrip.xor _ _ _
  | sll => exact RoundTrip.sll _ _ _
  | srl => exact RoundTrip.srl _ _ _
  | sra => exact RoundTrip.sra _ _ _
  | slt => exact RoundTrip.slt _ _ _
  | sltu => exact RoundTrip.sltu _ _ _
  | min => exact RoundTrip.min _ _ _
  | max => exact RoundTrip.max _ _ _
  | minu => exact RoundTrip.minu _ _ _
  | maxu => exact RoundTrip.maxu _ _ _
  | clz => exact RoundTrip.clz _ _
  | ctz => exact RoundTrip.ctz _ _
  | popc => exact RoundTrip.popc _ _
  | bext => exact RoundTrip.bext _ _ _
  | bins => exact RoundTrip.bins _ _ _
  | csel => exact RoundTrip.csel _ _ _
  | addW => exact RoundTrip.addW _ _ _
  | subW => exact RoundTrip.subW _ _ _
  | sllW => exact RoundTrip.sllW _ _ _
  | srlW => exact RoundTrip.srlW _ _ _
  | sraW => exact RoundTrip.sraW _ _ _
  | mul => exact RoundTrip.mul _ _ _
  | mulh => exact RoundTrip.mulh _ _ _
  | mulhu => exact RoundTrip.mulhu _ _ _
  | div => exact RoundTrip.div _ _ _
  | divu => exact RoundTrip.divu _ _ _
  | rem => exact RoundTrip.rem _ _ _
  | remu => exact RoundTrip.remu _ _ _
  | mulW => exact RoundTrip.mulW _ _ _
  | addi => exact RoundTrip.addi _ _ _
  | andi => exact RoundTrip.andi _ _ _
  | ori => exact RoundTrip.ori _ _ _
  | xori => exact RoundTrip.xori _ _ _
  | slli => exact RoundTrip.slli _ _ _
  | srli => exact RoundTrip.srli _ _ _
  | srai => exact RoundTrip.srai _ _ _
  | lui => exact RoundTrip.lui _ _
  | addpc => exact RoundTrip.addpc _ _
  | slti => exact RoundTrip.slti _ _ _
  | bEq => exact RoundTrip.bEq _ _ _
  | bNe => exact RoundTrip.bNe _ _ _
  | bLt => exact RoundTrip.bLt _ _ _
  | bGe => exact RoundTrip.bGe _ _ _
  | bLtu => exact RoundTrip.bLtu _ _ _
  | bGeu => exact RoundTrip.bGeu _ _ _
  | bVs => exact RoundTrip.bVs _
  | bVc => exact RoundTrip.bVc _
  | j => exact RoundTrip.j _
  | jal => exact RoundTrip.jal _
  | jalr => exact RoundTrip.jalr _ _ _
  | fadd => exact RoundTrip.fadd _ _ _
  | fsub => exact RoundTrip.fsub _ _ _
  | fmul => exact RoundTrip.fmul _ _ _
  | fdiv => exact RoundTrip.fdiv _ _ _
  | fsqrt => exact RoundTrip.fsqrt _ _
  | fmin => exact RoundTrip.fmin _ _ _
  | fmax => exact RoundTrip.fmax _ _ _
  | feq => exact RoundTrip.feq _ _ _
  | flt => exact RoundTrip.flt _ _ _
  | fle => exact RoundTrip.fle _ _ _
  | fclass => exact RoundTrip.fclass _ _
  | fexp2 => exact RoundTrip.fexp2 _ _
  | frcp => exact RoundTrip.frcp _ _
  | fcvt => exact RoundTrip.fcvt _ _ _ _
  | ffma => exact RoundTrip.ffma _ _ _ _
  | ffms => exact RoundTrip.ffms _ _ _ _
  | fnma => exact RoundTrip.fnma _ _ _ _
  | ld => exact RoundTrip.ld _ _ _ _ _ _ _
  | st => exact RoundTrip.st _ _ _ _ _ _
  | lds => exact RoundTrip.lds _ _ _ _
  | ldc => exact RoundTrip.ldc _ _ _ _
  | ldq => exact RoundTrip.ldq _ _ _ _
  | ldt => exact RoundTrip.ldt _ _ _ _
  | stf => exact RoundTrip.stf _ _ _ _
  | stw => exact RoundTrip.stw _ _ _ _
  | stv => exact RoundTrip.stv _ _ _ _
  | ste => exact RoundTrip.ste _ _ _ _
  | amoAdd => exact RoundTrip.amoAdd _ _ _ _ _
  | amoAnd => exact RoundTrip.amoAnd _ _ _ _ _
  | amoOr => exact RoundTrip.amoOr _ _ _ _ _
  | amoXor => exact RoundTrip.amoXor _ _ _ _ _
  | amoMin => exact RoundTrip.amoMin _ _ _ _ _
  | amoMax => exact RoundTrip.amoMax _ _ _ _ _
  | amoMinu => exact RoundTrip.amoMinu _ _ _ _ _
  | amoMaxu => exact RoundTrip.amoMaxu _ _ _ _ _
  | amoSwap => exact RoundTrip.amoSwap _ _ _ _ _
  | amoCas => exact RoundTrip.amoCas _ _ _ _ _
  | amoFadd => exact RoundTrip.amoFadd _ _ _ _ _
  | amoAddW => exact RoundTrip.amoAddW _ _ _ _ _
  | fence => exact RoundTrip.fence _ _ _
  | bar => exact RoundTrip.bar _ _
  | barArrive => exact RoundTrip.barArrive _ _ _
  | barWait => exact RoundTrip.barWait _ _ _
  | arrive => exact RoundTrip.arrive _
  | expect => exact RoundTrip.expect _ _
  | waitc => exact RoundTrip.waitc _ _
  | cwinit => exact RoundTrip.cwinit _ _
  | putrG => exact RoundTrip.putrG _ _ _ _
  | putrV => exact RoundTrip.putrV _ _ _ _
  | trap => exact RoundTrip.trap _
  | eret => exact RoundTrip.eret
  | csrr => exact RoundTrip.csrr _ _
  | csrw => exact RoundTrip.csrw _ _ _
  | csrs => exact RoundTrip.csrs _ _ _
  | csrc => exact RoundTrip.csrc _ _ _
  | wait => exact RoundTrip.wait _ _
  | halt => exact RoundTrip.halt
  | yield => exact RoundTrip.yield
  | ebreak => exact RoundTrip.ebreak
  | tlbinv => exact RoundTrip.tlbinv _ _
  | remptyG => exact RoundTrip.remptyG _
  | remptyV => exact RoundTrip.remptyV _
  | vadd => exact RoundTrip.vadd _ _ _ _ _
  | vsub => exact RoundTrip.vsub _ _ _ _ _
  | vmul => exact RoundTrip.vmul _ _ _ _ _
  | vmulh => exact RoundTrip.vmulh _ _ _ _ _
  | vand => exact RoundTrip.vand _ _ _ _ _
  | vor => exact RoundTrip.vor _ _ _ _ _
  | vxor => exact RoundTrip.vxor _ _ _ _ _
  | vsll => exact RoundTrip.vsll _ _ _ _ _
  | vsrl => exact RoundTrip.vsrl _ _ _ _ _
  | vsra => exact RoundTrip.vsra _ _ _ _ _
  | vmin => exact RoundTrip.vmin _ _ _ _ _
  | vmax => exact RoundTrip.vmax _ _ _ _ _
  | vminu => exact RoundTrip.vminu _ _ _ _ _
  | vmaxu => exact RoundTrip.vmaxu _ _ _ _ _
  | vadds => exact RoundTrip.vadds _ _ _ _ _
  | vsubs => exact RoundTrip.vsubs _ _ _ _ _
  | vfadd => exact RoundTrip.vfadd _ _ _ _ _
  | vfsub => exact RoundTrip.vfsub _ _ _ _ _
  | vfmul => exact RoundTrip.vfmul _ _ _ _ _
  | vfdiv => exact RoundTrip.vfdiv _ _ _ _ _
  | vfsqrt => exact RoundTrip.vfsqrt _ _ _ _
  | vfmin => exact RoundTrip.vfmin _ _ _ _ _
  | vfmax => exact RoundTrip.vfmax _ _ _ _ _
  | vfexp2 => exact RoundTrip.vfexp2 _ _ _ _
  | vfrcp => exact RoundTrip.vfrcp _ _ _ _
  | vfabs => exact RoundTrip.vfabs _ _ _ _
  | vfneg => exact RoundTrip.vfneg _ _ _ _
  | vfma => exact RoundTrip.vfma _ _ _ _ _
  | vfms => exact RoundTrip.vfms _ _ _ _ _
  | vfnma => exact RoundTrip.vfnma _ _ _ _ _
  | vcmpEq => exact RoundTrip.vcmpEq _ _ _ _ _
  | vcmpNe => exact RoundTrip.vcmpNe _ _ _ _ _
  | vcmpLt => exact RoundTrip.vcmpLt _ _ _ _ _
  | vcmpGe => exact RoundTrip.vcmpGe _ _ _ _ _
  | vcmpLtu => exact RoundTrip.vcmpLtu _ _ _ _ _
  | vcmpGeu => exact RoundTrip.vcmpGeu _ _ _ _ _
  | vfcmpEq => exact RoundTrip.vfcmpEq _ _ _ _ _
  | vfcmpLt => exact RoundTrip.vfcmpLt _ _ _ _ _
  | vfcmpLe => exact RoundTrip.vfcmpLe _ _ _ _ _
  | vfcmpUn => exact RoundTrip.vfcmpUn _ _ _ _ _
  | vsel => exact RoundTrip.vsel _ _ _ _
  | kand => exact RoundTrip.kand _ _ _ _
  | kor => exact RoundTrip.kor _ _ _ _
  | kxor => exact RoundTrip.kxor _ _ _ _
  | knot => exact RoundTrip.knot _ _ _
  | vbcast => exact RoundTrip.vbcast _ _ _
  | vext => exact RoundTrip.vext _ _ _
  | vins => exact RoundTrip.vins _ _ _
  | kpopc => exact RoundTrip.kpopc _ _ _
  | kfirst => exact RoundTrip.kfirst _ _ _
  | vperm => exact RoundTrip.vperm _ _ _ _ _
  | vredadd => exact RoundTrip.vredadd _ _ _ _
  | vredmax => exact RoundTrip.vredmax _ _ _ _
  | vredmin => exact RoundTrip.vredmin _ _ _ _
  | vfredadd => exact RoundTrip.vfredadd _ _ _
  | vfredmax => exact RoundTrip.vfredmax _ _ _
  | vtopk => exact RoundTrip.vtopk _ _ _ _
  | vscan => exact RoundTrip.vscan _ _ _ _
  | vld => exact RoundTrip.vld _ _ _ _
  | vst => exact RoundTrip.vst _ _ _ _
  | vlds => exact RoundTrip.vlds _ _ _ _ _
  | vsts => exact RoundTrip.vsts _ _ _ _ _
  | vldsync => exact RoundTrip.vldsync _ _ _ _
  | vgather => exact RoundTrip.vgather _ _ _ _
  | vscatter => exact RoundTrip.vscatter _ _ _ _
  | vgatherb => exact RoundTrip.vgatherb _ _ _ _
  | vcvt => exact RoundTrip.vcvt _ _ _ _ _
  | bsAttach => exact RoundTrip.bsAttach _ _
  | bsGet => exact RoundTrip.bsGet _ _
  | bsPeek => exact RoundTrip.bsPeek _ _
  | bsSkip => exact RoundTrip.bsSkip _ _
  | bsVlc => exact RoundTrip.bsVlc _ _ _
  | bsPut => exact RoundTrip.bsPut _ _
  | bsFlush => exact RoundTrip.bsFlush _
  | bsOattach => exact RoundTrip.bsOattach _
  | rndLo => exact RoundTrip.rndLo _ _ _
  | rndHi => exact RoundTrip.rndHi _ _ _
  | lnErw => exact RoundTrip.lnErw _ _
  | lnErr => exact RoundTrip.lnErr _ _
  | lnLaunch => exact RoundTrip.lnLaunch _ _
  | lnQstat => exact RoundTrip.lnQstat _ _
  | lnKill => exact RoundTrip.lnKill _
  | frErw => exact RoundTrip.frErw _ _
  | frErr => exact RoundTrip.frErr _ _
  | frPush => exact RoundTrip.frPush _ _
  | frPop => exact RoundTrip.frPop _
  | frEnter => exact RoundTrip.frEnter _
  | frLeave => exact RoundTrip.frLeave
  | frApp => exact RoundTrip.frApp _ _
  | frSeal => exact RoundTrip.frSeal _
  | frCut => exact RoundTrip.frCut _ _
  | frRd => exact RoundTrip.frRd _ _ _
  | frScope => exact RoundTrip.frScope _ _
  | atErw => exact RoundTrip.atErw _ _
  | atErr => exact RoundTrip.atErr _ _
  | atQ => exact RoundTrip.atQ
  | atKv => exact RoundTrip.atKv _ _
  | atTree => exact RoundTrip.atTree _ _
  | atFold => exact RoundTrip.atFold _ _
  | atLin => exact RoundTrip.atLin
  | atMerge => exact RoundTrip.atMerge _
  | atOut => exact RoundTrip.atOut _
  | atReset => exact RoundTrip.atReset
  | mxErw => exact RoundTrip.mxErw _ _
  | mxErr => exact RoundTrip.mxErr _ _
  | mxBegin => exact RoundTrip.mxBegin _
  | mxEnd => exact RoundTrip.mxEnd
  | mxPerm => exact RoundTrip.mxPerm _ _
  | mxStep => exact RoundTrip.mxStep _ _
  | mxDrain => exact RoundTrip.mxDrain _
  | mxClear => exact RoundTrip.mxClear
  | cpErw => exact RoundTrip.cpErw _ _
  | cpErr => exact RoundTrip.cpErr _ _
  | cpGo => exact RoundTrip.cpGo _ _
  | cpCancel => exact RoundTrip.cpCancel _
  | cpSave => exact RoundTrip.cpSave _
  | cpRestore => exact RoundTrip.cpRestore _
  | fxErw => exact RoundTrip.fxErw _ _
  | fxErr => exact RoundTrip.fxErr _ _
  | fxGo => exact RoundTrip.fxGo _
  | fxSend => exact RoundTrip.fxSend _
  | fxRecv => exact RoundTrip.fxRecv _
  | fxBar => exact RoundTrip.fxBar
  | fxAbort => exact RoundTrip.fxAbort
  | mkErw => exact RoundTrip.mkErw _ _
  | mkErr => exact RoundTrip.mkErr _ _
  | mkLoad => exact RoundTrip.mkLoad _
  | mkStep => exact RoundTrip.mkStep _ _
  | mkMask => exact RoundTrip.mkMask _ _
  | mkWait => exact RoundTrip.mkWait _ _
  | mkForced => exact RoundTrip.mkForced _
  | mkReset => exact RoundTrip.mkReset
  | _ => exact fun h => nomatch h

theorem wordOfBytes_bytesOfWord (w : BitVec 32) : wordOfBytes (bytesOfWord w) = w :=
  eq_of_eq_field (append_eq_field (append_eq_field (append_eq_field rfl rfl) rfl) rfl)

/-- Settles O2: the bytes make up the word again, and its decoder reads back each instruction. -/
theorem decodeInvertsEncode : Obligations.DecodeInvertsEncode := by
  unfold Obligations.DecodeInvertsEncode
  intro k i hencoded hwf hmajor
  unfold decodeBytes
  rw [wordOfBytes_bytesOfWord, decode_of_hasMajor hmajor]
  exact decodeAny_encode i hencoded hwf

/-- Settles O1: the decoder runs on each of the words. -/
theorem specWordsDecode : Obligations.SpecWordsDecode := by
  unfold Obligations.SpecWordsDecode
  exact ⟨rfl, rfl, rfl, rfl, rfl, rfl, rfl, rfl, rfl, rfl, rfl⟩

end Sys2Proof
end

section
/-! Words that are no instructions, and instructions that the mode or the slot does not allow (R82, R83). -/

namespace Sys2Proof.Machine

open Sys2Proof.Said

/-! ### What a word that is no instruction raises (R82) -/

theorem State.runWord_of_reject {s : State} {w : BitVec 32} {r : Reject} (h : decode (coreKind s.curCore) w = .error r) :
    s.runWord w = exec (.illegalInstruction r) s := by
  unfold State.runWord; rw [h]; rfl

/-- A trap that is no failed tag (R51) is nothing but its fault. -/
theorem run_trap_of_ne (s : State) {c : Nat} (e : Word) (h : c ≠ 0x09) : run s (.error (.trap c e)) = .next (s.raise c e) := by
  rw [run_trap, State.tagFails_of_ne s _ _ e h]

theorem State.transformSlot_iff (s : State) : s.transformSlot = true ↔ Transform s := by
  simp only [State.transformSlot, Transform, Bool.and_eq_true, decide_eq_true_eq]

theorem exec_reserved (s : State) (w : BitVec 32) :
    exec (.illegalInstruction (.reserved w)) s = .next (s.raise 0x01 (w.setWidth 64)) := run_trap_of_ne s _ (by decide)

theorem exec_nonzeroField (s : State) (e : Word) : exec (.illegalInstruction (.nonzeroField e)) s = .next (s.raise 0x02 e) :=
  run_trap_of_ne s e (by decide)

theorem exec_immediate (s : State) (w : BitVec 32) : exec (.illegalInstruction (.immediate w)) s =
    .next (s.raise (if s.transformSlot then 0x02 else 0x04) (w.setWidth 64)) :=
  run_trap_of_ne s _ (by split <;> decide)

theorem exec_immediate_of_transform {s : State} (h : Transform s) (w : BitVec 32) :
    exec (.illegalInstruction (.immediate w)) s = .next (s.raise 0x02 (w.setWidth 64)) := by
  rw [exec_immediate, if_pos (s.transformSlot_iff.2 h)]

theorem exec_immediate_of_not_transform {s : State} (h : ¬ Transform s) (w : BitVec 32) :
    exec (.illegalInstruction (.immediate w)) s = .next (s.raise 0x04 (w.setWidth 64)) := by
  rw [exec_immediate, if_neg (mt s.transformSlot_iff.1 h)]

/-! ### What is checked before the operands (R83) -/

section Checks

variable {s : State} {i : Instr} {body : Unit → Except Stop State}

theorem run_needS_of_user (h : s.me.mode = 0) : run s (s.needS i >>= body) = .next (s.raise 0x03 ((encode i).setWidth 64)) := by
  rw [State.needS, if_pos h]
  exact run_trap_of_ne s _ (by decide)

theorem run_needH_of_not_hypervisor (h : s.me.mode ≠ 3) :
    run s (s.needH i >>= body) = .next (s.raise 0x03 ((encode i).setWidth 64)) := by
  rw [State.needH, if_pos h]
  exact run_trap_of_ne s _ (by decide)

theorem run_needSlot7_of_not_transform (h : ¬ Transform s) :
    run s (s.needSlot7 i >>= body) = .next (s.raise 0x04 ((encode i).setWidth 64)) := by
  rw [State.needSlot7, if_pos (Classical.not_and_iff_not_or_not.1 h)]
  exact run_trap_of_ne s _ (by decide)

end Checks

/-- `tlbinv` of another tenant, or of all, needs mode H (R177). -/
theorem exec_tlbinv_of_not_hypervisor {s : State} {a : BitVec 5} {k : BitVec 2} (h : s.me.mode ≠ 3) (hk : 2 ≤ k.toNat) :
    exec (.tlbinv a k) s = .next (s.raise 0x03 ((encode (.tlbinv a k)).setWidth 64)) := by
  show execTlbinv a k s = _
  by_cases huser : s.me.mode = 0
  · exact run_needS_of_user huser
  · have hpass : s.needS (.tlbinv a k) = .ok () := if_neg huser
    unfold execTlbinv
    rw [hpass, stop_bind_ok, if_pos hk]
    exact run_needH_of_not_hypervisor h

/-- Settles O28: a rejected word by the three ways it is rejected, each privileged or restricted instruction by its first check. -/
theorem illegalAndPrivileged : Obligations.IllegalAndPrivileged := by
  unfold Obligations.IllegalAndPrivileged
  refine ⟨⟨?_, exec_reserved, exec_nonzeroField, fun s w =>
    ⟨fun h => exec_immediate_of_transform h w, fun h => exec_immediate_of_not_transform h w⟩⟩, ?_, ?_⟩
  · intro s w r h
    have hw := decode_sound (coreKind s.curCore) w
    rw [h] at hw
    rw [State.runWord_of_reject h]
    obtain rfl | rfl | rfl := hw
    · exact .inl ⟨rfl, exec_reserved s w⟩
    · exact .inr (.inl ⟨rfl, exec_nonzeroField s _⟩)
    · by_cases ht : Transform s
      · exact .inr (.inr (.inl ⟨rfl, ht, exec_immediate_of_transform ht w⟩))
      · exact .inr (.inr (.inr ⟨rfl, ht, exec_immediate_of_not_transform ht w⟩))
  · intro s a k
    refine ⟨fun huser => ?_, exec_tlbinv_of_not_hypervisor, run_needH_of_not_hypervisor⟩
    have hsave : s.me.mode ≠ 3 := by rw [huser]; decide
    simp only [List.forall_mem_cons]
    exact ⟨run_needS_of_user huser, run_needS_of_user huser, run_needS_of_user huser, run_needH_of_not_hypervisor hsave,
      run_needS_of_user huser, List.forall_mem_nil _⟩
  · intro s a b n ht
    simp only [List.forall_mem_cons]
    refine ⟨?_, ?_, ?_, ?_, ?_, ?_, ?_, ?_, List.forall_mem_nil _⟩
    all_goals exact run_needSlot7_of_not_transform ht

end Sys2Proof.Machine
end

section
/-! Scalar FP32: how an operation ends, with its flags or its fault (R150), and what the arithmetic forms give (R164). -/

namespace Sys2Proof.Machine

open Sys2Proof.Said

/-! ### The end of an operation: its flags, or its fault (R150) -/

theorem firstWith_single (m f : Fl) : firstWith m [(0, f)] = if f &&& m ≠ 0 then some 0 else none := by
  unfold firstWith
  by_cases h : f &&& m ≠ 0
  · rw [if_pos h, List.find?_cons_of_pos (by simpa using h)]; rfl
  · rw [if_neg h, List.find?_cons_of_neg (by simpa using h)]; rfl

/-- Where a NaN without a code (R147) always comes with NV, one result's flags are taken unless NSAT or TNV traps them. -/
theorem Slot.fpDone_single (sl : Slot) {f : Fl} (hf : f &&& flNoNan ≠ 0 → f &&& flNV ≠ 0) : sl.fpDone [(0, f)] =
    if bit sl.fpcsr 4 = true ∧ f &&& flNoNan ≠ 0 then .error (.trap 0x11 0)
    else if bit sl.fpcsr 5 = true ∧ f &&& flNV ≠ 0 then .error (.trap 0x10 0)
    else .ok (sl.setCsr 0x012 (sl.fpcsr ||| word (f.toNat % 32 * 256))) := by
  have hall : [((0 : Nat), f)].foldl (fun a p => a ||| p.2) (0 : Fl) = f := BitVec.zero_or
  unfold Slot.fpDone
  rw [firstWith_single, firstWith_single, hall]
  dsimp only
  by_cases hnan : f &&& flNoNan ≠ 0
  · simp only [if_pos hnan, if_pos (hf hnan), and_iff_left hnan, and_iff_left (hf hnan)]; rfl
  · rw [if_neg hnan, if_neg (not_and_of_not_right _ hnan)]
    by_cases hnv : f &&& flNV ≠ 0
    · simp only [if_pos hnv, and_iff_left hnv]; rfl
    · rw [if_neg hnv, if_neg (not_and_of_not_right _ hnv)]

@[simp] theorem Slot.fpcsr_seen (sl : Slot) (l : List Src) : (sl.seen l).fpcsr = sl.csrv 0x012 := sl.csrv_seen_ne l (by decide)
@[simp] theorem Slot.rm_seen (sl : Slot) (l : List Src) : (sl.seen l).rm = fld (sl.csrv 0x012) 0 2 := by simp [Slot.rm]
@[simp] theorem Slot.fzo_seen (sl : Slot) (l : List Src) : (sl.seen l).fzo = bit (sl.csrv 0x012) 3 := by simp [Slot.fzo]

theorem State.rounded_seen (s : State) (l : List Src) (x : Exact) : (s.me.seen l).rounded x = rounded s x := by
  simp only [Slot.rounded, Said.rounded, Slot.rm_seen, Slot.fzo_seen]

/-- An operation that ends with `r` once its sources are read does as R150 says. -/
theorem fpDoes_of_fpEnd {s : State} {i : Instr} {l : List Src} {d : BitVec 5} {r : Word × Fl}
    (hexec : exec i s = runSlot s ((s.me.seen l).fpEnd d r)) (hf : r.2 &&& flNoNan ≠ 0 → r.2 &&& flNV ≠ 0) : FpDoes s i l d r := by
  unfold FpDoes untrapped
  rw [hexec, runSlot, Slot.fpEnd, Slot.fpDone_single _ hf, Slot.fpcsr_seen]
  by_cases hnan : bit (s.me.csrv 0x012) 4 = true ∧ r.2 &&& flNoNan ≠ 0
  · rw [if_pos hnan, if_pos hnan]
    exact ⟨fun h => absurd hnan h.1, fun _ => run_trap_of_ne s 0 (by decide)⟩
  · rw [if_neg hnan, if_neg hnan]
    by_cases hnv : bit (s.me.csrv 0x012) 5 = true ∧ r.2 &&& flNV ≠ 0
    · rw [if_pos hnv]
      exact ⟨fun h => absurd hnv h.2, fun _ => run_trap_of_ne s 0 (by decide)⟩
    · rw [if_neg hnv]
      exact ⟨fun _ => rfl, fun h => absurd ⟨hnan, hnv⟩ h⟩

/-- Flags among which no NaN met a destination without a NaN code (R147). -/
def NanCoded (f : Fl) : Prop := f &&& flNoNan = 0

/-- An operation on gA and gB, of which no result is a NaN without a code. -/
theorem fpDoes_of_fpRR {s : State} {i : Instr} {d a b : BitVec 5} {f : Slot → F32 → F32 → Word × Fl} {r : Word × Fl}
    (hexec : exec i s = fpRR d a b f s) (hready : s.me.ready [.g a, .g b])
    (hr : f (s.me.seen [.g a, .g b]) (lowF (gv s a)) (lowF (gv s b)) = r) (hcoded : NanCoded r.2) :
    FpDoes s i [.g a, .g b] d r := by
  refine fpDoes_of_fpEnd ?_ fun h => absurd hcoded h
  rw [hexec, fpRR, Slot.gate_of_ready hready, stop_bind_ok, Slot.gv_seen, Slot.gv_seen, hr]

/-- An operation on gA, of which no result is a NaN without a code. -/
theorem fpDoes_of_fpR {s : State} {i : Instr} {d a : BitVec 5} {f : Slot → F32 → Word × Fl} {r : Word × Fl}
    (hexec : exec i s = fpR d a f s) (hready : s.me.ready [.g a]) (hr : f (s.me.seen [.g a]) (lowF (gv s a)) = r)
    (hcoded : NanCoded r.2) : FpDoes s i [.g a] d r := by
  refine fpDoes_of_fpEnd ?_ fun h => absurd hcoded h
  rw [hexec, fpR, Slot.gate_of_ready hready, stop_bind_ok, Slot.gv_seen, hr]

/-! ### Arithmetic never meets a destination without a NaN code -/

theorem NanCoded.or {f g : Fl} (hf : NanCoded f) (hg : NanCoded g) : NanCoded (f ||| g) := by
  unfold NanCoded at *
  rw [BitVec.and_or_distrib_right, hf, hg]; rfl

theorem NanCoded.ite {c : Prop} [Decidable c] {f g : Fl} (hf : NanCoded f) (hg : NanCoded g) : NanCoded (if c then f else g) := by
  split <;> assumption

@[simp] theorem nanCoded_zero : NanCoded 0 := rfl
@[simp] theorem nanCoded_flNV : NanCoded flNV := rfl
@[simp] theorem nanCoded_flDZ : NanCoded flDZ := rfl
@[simp] theorem nanCoded_flOF : NanCoded flOF := rfl
@[simp] theorem nanCoded_flUF : NanCoded flUF := rfl
@[simp] theorem nanCoded_flNX : NanCoded flNX := rfl
@[simp] theorem nanCoded_nvIf (b : Bool) : NanCoded (nvIf b) := nanCoded_flNV.ite nanCoded_zero

/-- A rounding raises UF, OF and NX only. -/
theorem Fmt.round_nanCoded (f : Fmt) (rm : Nat) (fzo s : Bool) (m : Nat) (e : Int) (st : Bool) :
    NanCoded (f.round rm fzo s m e st).2 := by
  unfold Fmt.round
  simp only [apply_ite Prod.snd]
  refine .ite nanCoded_zero (.ite ?_ (.ite ?_ (.or (.or ?_ ?_) ?_)))
  · exact nanCoded_flUF.or nanCoded_flNX
  · exact nanCoded_flOF.or nanCoded_flNX
  · exact nanCoded_flNX.ite nanCoded_zero
  · exact nanCoded_flUF.ite nanCoded_zero
  · exact nanCoded_flOF.ite nanCoded_zero

theorem Fmt.result_nanCoded (f : Fmt) (rm : Nat) (fzo : Bool) {x : Exact} (h : NanCoded x.fl) : NanCoded (f.result rm fzo x).2 := by
  unfold Fmt.result
  split
  · exact h
  · exact h
  · exact (f.round_nanCoded ..).or h

theorem addExact_nanCoded (rm : Nat) (x y : Num) : NanCoded (addExact rm x y).fl := by
  unfold addExact
  cases x <;> cases y <;> simp only [apply_ite Exact.fl, ite_self, nanCoded_nvIf, nanCoded_zero]
  case inf.inf => exact nanCoded_zero.ite nanCoded_flNV

theorem mulExact_nanCoded (x y : Num) : NanCoded (mulExact x y).fl := by
  unfold mulExact
  cases x <;> cases y <;> simp only [apply_ite Exact.fl, nanCoded_nvIf, nanCoded_zero]
  case inf.fin => exact nanCoded_flNV.ite nanCoded_zero
  case fin.inf => exact nanCoded_flNV.ite nanCoded_zero

theorem divExact_nanCoded (x y : Num) : NanCoded (divExact x y).fl := by
  unfold divExact
  cases x <;> cases y <;> simp only [apply_ite Exact.fl, nanCoded_nvIf, nanCoded_zero, nanCoded_flNV]
  case fin.fin => exact (nanCoded_flNV.ite nanCoded_flDZ).ite nanCoded_zero

theorem sqrtExact_nanCoded (x : Num) : NanCoded (sqrtExact x).fl := by
  unfold sqrtExact
  cases x <;> simp only [apply_ite Exact.fl, nanCoded_nvIf]
  case inf => exact nanCoded_flNV.ite nanCoded_zero
  case fin => exact nanCoded_zero.ite (nanCoded_flNV.ite nanCoded_zero)

theorem exp2Exact_fl (s : Bool) (m : Nat) (e : Int) : (exp2Exact s m e).fl = 0 := by
  unfold exp2Exact
  simp only [apply_ite Exact.fl, ite_self]

theorem exp2Num_nanCoded (x : Num) : NanCoded (exp2Num x).fl := by
  unfold exp2Num
  cases x <;> simp only [apply_ite Exact.fl, ite_self, exp2Exact_fl, nanCoded_nvIf, nanCoded_zero]

/-! ### What the arithmetic forms give (R164) -/

/-- A correctly rounded operation on gA and gB. -/
theorem fpDoes_of_rounded_fpRR {s : State} {i : Instr} {d a b : BitVec 5} {op : Nat → Num → Num → Exact}
    (hexec : exec i s = fpRR d a b (fun sl x y => sl.rounded (op sl.rm (num x) (num y))) s)
    (hop : ∀ m x y, NanCoded (op m x y).fl) (hready : s.me.ready [.g a, .g b]) :
    FpDoes s i [.g a, .g b] d (rounded s (op (rm s) (fv s a) (fv s b))) :=
  fpDoes_of_fpRR hexec hready (by rw [State.rounded_seen, Slot.rm_seen]; rfl) (Fmt.result_nanCoded _ _ _ (hop _ _ _))

/-- A correctly rounded operation on gA. -/
theorem fpDoes_of_rounded_fpR {s : State} {i : Instr} {d a : BitVec 5} {op : Num → Exact}
    (hexec : exec i s = fpR d a (fun sl x => sl.rounded (op (num x))) s) (hop : ∀ x, NanCoded (op x).fl)
    (hready : s.me.ready [.g a]) : FpDoes s i [.g a] d (rounded s (op (fv s a))) :=
  fpDoes_of_fpR hexec hready (State.rounded_seen s _ _) (Fmt.result_nanCoded _ _ _ (hop _))

/-- Settles O16: each form is one correctly rounded operation, whose flags never stand for a NaN without a code. -/
theorem fpArithmetic : Obligations.FpArithmetic := by
  unfold Obligations.FpArithmetic
  intro s d a b
  refine ⟨fun hready => ⟨?_, ?_, ?_, ?_⟩, fun hready => ⟨?_, ?_, ?_⟩⟩
  · exact fpDoes_of_rounded_fpRR rfl addExact_nanCoded hready
  · exact fpDoes_of_rounded_fpRR (op := fun m x y => addExact m x y.neg) rfl (fun m x y => addExact_nanCoded m x y.neg) hready
  · exact fpDoes_of_rounded_fpRR (op := fun _ => mulExact) rfl (fun _ => mulExact_nanCoded) hready
  · exact fpDoes_of_rounded_fpRR (op := fun _ => divExact) rfl (fun _ => divExact_nanCoded) hready
  · exact fpDoes_of_rounded_fpR rfl sqrtExact_nanCoded hready
  · exact fpDoes_of_rounded_fpR rfl exp2Num_nanCoded hready
  · exact fpDoes_of_rounded_fpR rfl (divExact_nanCoded (.fin false 1 0)) hready

end Sys2Proof.Machine
end

section
/-! The selecting and testing forms of scalar FP32 (R165): the order of FP32 patterns is the order of their values. -/

namespace Sys2Proof.Machine

open Sys2Proof.Said

/-! ### The magnitude of a pattern -/

/-- What a magnitude code of FP32 stands for, in units of 2^−149; the code of an infinity comes after all others. -/
def magOf (c : Nat) : Nat := if c / 2 ^ 23 = 0 then c % 2 ^ 23 else (2 ^ 23 + c % 2 ^ 23) * 2 ^ (c / 2 ^ 23 - 1)

/-- A number with a sign. -/
def withSign (s : Bool) (n : Nat) : Int := if s then -(n : Int) else n

theorem magOf_lt_succ (c : Nat) : magOf c < magOf (c + 1) := by
  unfold magOf
  by_cases hc : c % 2 ^ 23 + 1 = 2 ^ 23
  · -- the fraction overflows into the next exponent
    have hdiv : (c + 1) / 2 ^ 23 = c / 2 ^ 23 + 1 := by omega
    have hmod : (c + 1) % 2 ^ 23 = 0 := by omega
    rw [hdiv, hmod, if_neg (Nat.succ_ne_zero _), Nat.add_sub_cancel]
    split
    · next h => rw [h]; omega
    · next h =>
      obtain ⟨k, hk⟩ : ∃ k, c / 2 ^ 23 = k + 1 := ⟨c / 2 ^ 23 - 1, by omega⟩
      have hfrac : c % 2 ^ 23 = 2 ^ 23 - 1 := by omega
      have hpos := Nat.two_pow_pos k
      rw [hfrac, hk, Nat.add_sub_cancel, Nat.pow_succ 2 k]
      omega
  · have hdiv : (c + 1) / 2 ^ 23 = c / 2 ^ 23 := by omega
    have hmod : (c + 1) % 2 ^ 23 = c % 2 ^ 23 + 1 := by omega
    rw [hdiv, hmod]
    split
    · omega
    · exact Nat.mul_lt_mul_of_pos_right (by omega) (Nat.two_pow_pos _)

theorem magOf_lt_of_lt {m n : Nat} (h : m < n) : magOf m < magOf n := by
  induction h with
  | refl => exact magOf_lt_succ m
  | step _ ih => exact Nat.lt_trans ih (magOf_lt_succ _)

theorem magOf_lt_iff (m n : Nat) : magOf m < magOf n ↔ m < n := by
  refine ⟨fun h => Nat.lt_of_not_le fun hle => ?_, magOf_lt_of_lt⟩
  rcases Nat.lt_or_eq_of_le hle with hlt | rfl
  · exact Nat.lt_asymm h (magOf_lt_of_lt hlt)
  · exact Nat.lt_irrefl _ h

/-- A map of magnitudes that keeps their order and 0 keeps the order of numbers with a sign. -/
theorem withSign_lt_iff (s t : Bool) {f : Nat → Nat} (hf : ∀ i j, f i < f j ↔ i < j) (h0 : f 0 = 0) (m n : Nat) :
    withSign s (f m) < withSign t (f n) ↔ withSign s m < withSign t n := by
  have h1 := hf m n
  have h2 := hf n m
  have h3 := hf 0 m
  have h4 := hf 0 n
  rw [h0] at h3 h4
  cases s <;> cases t <;> simp only [withSign, Bool.false_eq_true, if_true, if_false] <;> omega

/-! ### A pattern and its value -/

theorem valKey_eq (x : F32) : valKey x = withSign (x.getLsbD 31) (x.toNat % 2 ^ 31) := by
  have hsign : x.getLsbD 31 = decide (2 ^ 31 ≤ x.toNat) := (BitVec.msb_eq_getLsbD_last x).symm.trans x.msb_eq_decide
  unfold valKey withSign
  rw [hsign]
  split
  · rfl
  · next h => rw [Nat.mod_eq_of_lt (by simpa using h)]

/-- The value that the sign, the exponent and the fraction of a pattern stand for (R139). -/
theorem num_eq (x : F32) : num x =
    if x.toNat / 2 ^ 23 % 256 = 255 then
      (if x.toNat % 2 ^ 23 = 0 then .inf (x.getLsbD 31) else .nan (x.getLsbD 31) (decide (x.toNat % 2 ^ 23 < 2 ^ 22)))
    else if x.toNat / 2 ^ 23 % 256 = 0 then .fin (x.getLsbD 31) (x.toNat % 2 ^ 23) (-149)
    else .fin (x.getLsbD 31) (2 ^ 23 + x.toNat % 2 ^ 23) ((x.toNat / 2 ^ 23 % 256 : Nat) - 150) := by
  have hsign : decide (x.toNat / 2 ^ 31 % 2 = 1) = x.getLsbD 31 := (Nat.testBit_eq_decide_div_mod_eq).symm
  unfold num Fmt.decode
  simp only [Fmt.f32, Nat.shiftRight_eq_div_pow, and_true, Nat.reduceAdd, Nat.reducePow, Nat.reduceSub, Nat.reduceEqDiff,
    false_and, and_false, if_false] at hsign ⊢
  rw [hsign]
  split
  · rfl
  split
  · rfl
  · congr 1
    omega

/-- A pattern that is no NaN is the infinity after all finite magnitudes, or a multiple of 2^−149. -/
theorem num_cases {x : F32} (h : (num x).isNan = false) :
    (num x = .inf (x.getLsbD 31) ∧ x.toNat % 2 ^ 31 = 255 * 2 ^ 23) ∨
    ∃ m e, num x = .fin (x.getLsbD 31) m e ∧ -149 ≤ e ∧ m * 2 ^ (e + 149).toNat = magOf (x.toNat % 2 ^ 31) ∧
      x.toNat % 2 ^ 31 < 255 * 2 ^ 23 := by
  have hexp : x.toNat % 2 ^ 31 / 2 ^ 23 = x.toNat / 2 ^ 23 % 256 := by omega
  have hfrac : x.toNat % 2 ^ 31 % 2 ^ 23 = x.toNat % 2 ^ 23 := by omega
  unfold magOf
  rw [hexp, hfrac]
  rw [num_eq] at h ⊢
  split at h
  · next he =>
    rw [if_pos he]
    split at h
    · next hm => exact .inl ⟨if_pos hm, by omega⟩
    · cases h
  · next he =>
    rw [if_neg he]
    refine .inr ?_
    by_cases hz : x.toNat / 2 ^ 23 % 256 = 0
    · rw [if_pos hz, if_pos hz]
      exact ⟨_, _, rfl, Int.le_refl _, Nat.mul_one _, by omega⟩
    · rw [if_neg hz, if_neg hz]
      refine ⟨_, _, rfl, by omega, ?_, by omega⟩
      congr 2
      omega

/-! ### Comparing -/

theorem scaled_eq (s : Bool) (m : Nat) (e e0 : Int) : scaled s m e e0 = withSign s (m * 2 ^ (e - e0).toNat) := by
  unfold scaled withSign
  cases s <;> push_cast <;> rfl

/-- Two finite values compare as the multiples of 2^−149 that they are. -/
theorem numLess_fin (a b : Bool) (m n : Nat) {e g : Int} (he : -149 ≤ e) (hg : -149 ≤ g) :
    numLess (.fin a m e) (.fin b n g) = decide (withSign a (m * 2 ^ (e + 149).toNat) < withSign b (n * 2 ^ (g + 149).toNat)) := by
  have hpos := Nat.two_pow_pos (min e g + 149).toNat
  have hexp (i : Int) (h : min e g ≤ i) : (i + 149).toNat = (i - min e g).toNat + (min e g + 149).toNat := by omega
  show decide (scaled a m e (min e g) < scaled b n g (min e g)) = _
  rw [scaled_eq, scaled_eq, hexp e (by omega), hexp g (by omega), Nat.pow_add, Nat.pow_add, ← Nat.mul_assoc, ← Nat.mul_assoc]
  refine decide_eq_decide.2 (withSign_lt_iff a b (f := (· * 2 ^ (min e g + 149).toNat)) (fun i j => ?_) ?_ _ _).symm
  · exact Nat.mul_lt_mul_right hpos
  · exact Nat.zero_mul _

/-- A NaN is less than nothing, and nothing is less than it. -/
theorem numLess_of_isNan {x y : Num} (h : x.isNan = true ∨ y.isNan = true) : numLess x y = false := by
  cases x <;> cases y <;> simp [Num.isNan] at h <;> rfl

/-- FP32 patterns that are no NaN are in the order of their values. -/
theorem numLess_num (x y : F32) :
    numLess (num x) (num y) = decide ((num x).isNan = false ∧ (num y).isNan = false ∧ valKey x < valKey y) := by
  by_cases hnan : (num x).isNan = true ∨ (num y).isNan = true
  · rw [numLess_of_isNan hnan]
    rcases hnan with h | h <;> simp [h]
  obtain ⟨hx, hy⟩ : (num x).isNan = false ∧ (num y).isNan = false := by simpa using hnan
  simp only [hx, hy, true_and]
  rw [valKey_eq, valKey_eq]
  obtain ⟨ex, hmx⟩ | ⟨m, e, ex, he, hm, hmx⟩ := num_cases hx <;> obtain ⟨ey, hmy⟩ | ⟨n, g, ey, hg, hn, hmy⟩ := num_cases hy <;>
    rw [ex, ey]
  · -- two infinities
    rw [hmx, hmy]
    cases x.getLsbD 31 <;> cases y.getLsbD 31 <;> rfl
  · -- an infinity against a finite value
    rw [hmx]
    cases x.getLsbD 31 <;> cases y.getLsbD 31 <;> simp [numLess, withSign] <;> omega
  · -- a finite value against an infinity
    rw [hmy]
    cases x.getLsbD 31 <;> cases y.getLsbD 31 <;> simp [numLess, withSign] <;> omega
  · rw [numLess_fin _ _ _ _ he hg, hm, hn]
    exact decide_eq_decide.2 (withSign_lt_iff _ _ magOf_lt_iff rfl _ _)

theorem numEq_num (x y : F32) :
    numEq (num x) (num y) = decide ((num x).isNan = false ∧ (num y).isNan = false ∧ valKey x = valKey y) := by
  unfold numEq
  rw [numLess_num x y, numLess_num y x, Bool.eq_iff_iff]
  simp only [Bool.and_eq_true, Bool.not_eq_true', decide_eq_false_iff_not, decide_eq_true_eq]
  grind

/-! ### NV -/

theorem nvIf_or (a b : Bool) : nvIf (a || b) = if a = true ∨ b = true then flNV else 0 := by
  simp only [nvIf, Bool.or_eq_true]

theorem fcmpEq_num (x y : F32) : fcmpEq (num x) (num y) =
    (decide ((num x).isNan = false ∧ (num y).isNan = false ∧ valKey x = valKey y),
      if (num x).isSig = true ∨ (num y).isSig = true then flNV else 0) := by
  unfold fcmpEq
  rw [nvIf_or, numEq_num]

theorem fcmpLt_num (x y : F32) : fcmpLt (num x) (num y) =
    (decide ((num x).isNan = false ∧ (num y).isNan = false ∧ valKey x < valKey y),
      if (num x).isNan = true ∨ (num y).isNan = true then flNV else 0) := by
  unfold fcmpLt
  rw [nvIf_or, numLess_num]

theorem fcmpLe_num (x y : F32) : fcmpLe (num x) (num y) =
    (decide ((num x).isNan = false ∧ (num y).isNan = false ∧ valKey x ≤ valKey y),
      if (num x).isNan = true ∨ (num y).isNan = true then flNV else 0) := by
  unfold fcmpLe
  have hle : valKey x ≤ valKey y ↔ valKey x < valKey y ∨ valKey x = valKey y := by omega
  rw [nvIf_or, numLess_num, numEq_num, ← Bool.decide_or]
  simp only [hle, and_or_left]

/-! ### Selecting -/

theorem flushTiny_seen (s : State) (l : List Src) (x : F32) (f : Fl) :
    ((flushTiny (s.me.seen l).fzo (x, f)).1.setWidth 64, (flushTiny (s.me.seen l).fzo (x, f)).2) = tinyFlushed s x f := by
  unfold flushTiny tinyFlushed
  rw [Slot.fzo_seen]
  simp only [Nat.pos_iff_ne_zero]
  split <;> rfl

theorem tinyFlushed_nanCoded (s : State) (x : F32) {f : Fl} (h : NanCoded f) : NanCoded (tinyFlushed s x f).2 := by
  unfold tinyFlushed
  split
  · exact (h.or nanCoded_flUF).or nanCoded_flNX
  · exact h

theorem fminmax_eq (greater : Bool) (x y : F32) : fminmax greater x y =
    (if (num x).isNan = true then (if (num y).isNan = true then 0x7FC00000 else y)
      else if (num y).isNan = true ∨ (decide (ordKey x < ordKey y) != greater) = true then x else y,
      if (num x).isSig = true ∨ (num y).isSig = true then flNV else 0) := by
  unfold fminmax
  rw [nvIf_or]
  have hcanonical : f32 (Fmt.f32.nanCode false) = 0x7FC00000 := rfl
  cases (num x).isNan <;> cases (num y).isNan <;> simp [hcanonical]

/-! ### What the forms do -/

section Forms

variable {s : State} {i : Instr} {d a b : BitVec 5}

/-- `fmin` or `fmax`, whose pattern and flags before FZO are `z` and `f`. -/
theorem fpDoes_of_minmax {greater : Bool} {z : F32} {f : Fl} (hexec : exec i s = fpRR d a b
      (fun sl x y => let r := flushTiny sl.fzo (fminmax greater x y); (r.1.setWidth 64, r.2)) s)
    (hready : s.me.ready [.g a, .g b]) (hz : fminmax greater (lowF (gv s a)) (lowF (gv s b)) = (z, f)) (hcoded : NanCoded f) :
    FpDoes s i [.g a, .g b] d (tinyFlushed s z f) :=
  fpDoes_of_fpRR hexec hready (by rw [hz]; exact flushTiny_seen s _ z f) (tinyFlushed_nanCoded s z hcoded)

/-- A compare that holds where `p` does. -/
theorem fpDoes_of_compare {cmp : Num → Num → Bool × Fl} {p : Prop} [Decidable p] {f : Fl}
    (hexec : exec i s = fpRR d a b (fun _ x y => let r := cmp (num x) (num y); (boolWord r.1, r.2)) s)
    (hready : s.me.ready [.g a, .g b]) (hcmp : cmp (fv s a) (fv s b) = (decide p, f)) (hcoded : NanCoded f) :
    FpDoes s i [.g a, .g b] d (flag p, f) :=
  fpDoes_of_fpRR hexec hready (by dsimp only [lowF]; rw [hcmp]; simp only [boolWord, decide_eq_true_eq]) hcoded

end Forms

/-! ### fclass -/

theorem aluR_of_ready {s : State} {d a : BitVec 5} (f : Word → Word) (h : s.me.ready [.g a]) :
    aluR d a f s = .next (s.givesG [.g a] d (f (gv s a))) := by
  rw [aluR, Slot.gate_of_ready h, stop_bind_ok, Slot.gv_seen]
  rfl

theorem lowF_toNat (w : Word) : (lowF w).toNat = w.toNat % 2 ^ 32 := by simp [lowF]

theorem lowF_sign (w : Word) : (lowF w).getLsbD 31 = w.getLsbD 31 := by simp [lowF]

/-- The class bit of a pattern with sign `neg`, exponent `e` and fraction `m`. -/
theorem fclassBit_spec {x : F32} {neg : Bool} {e m k : Nat} (hneg : x.getLsbD 31 = neg) (he : x.toNat / 2 ^ 23 % 256 = e)
    (hm : x.toNat % 2 ^ 23 = m) (hk : fclassBit x = k) : k < 10 ∧
      (k = 0 ↔ e = 255 ∧ m = 0 ∧ neg = true) ∧ (k = 1 ↔ 0 < e ∧ e < 255 ∧ neg = true) ∧ (k = 2 ↔ e = 0 ∧ m ≠ 0 ∧ neg = true) ∧
      (k = 3 ↔ e = 0 ∧ m = 0 ∧ neg = true) ∧ (k = 4 ↔ e = 0 ∧ m = 0 ∧ neg = false) ∧ (k = 5 ↔ e = 0 ∧ m ≠ 0 ∧ neg = false) ∧
      (k = 6 ↔ 0 < e ∧ e < 255 ∧ neg = false) ∧ (k = 7 ↔ e = 255 ∧ m = 0 ∧ neg = false) ∧
      (k = 8 ↔ e = 255 ∧ m ≠ 0 ∧ m < 2 ^ 22) ∧ (k = 9 ↔ e = 255 ∧ 2 ^ 22 ≤ m) := by
  have he' : e < 256 := he ▸ Nat.mod_lt _ (by decide)
  unfold fclassBit at hk
  dsimp only at hk
  rw [hneg, he, hm] at hk
  by_cases hspecial : e = 255
  · rw [if_pos hspecial] at hk
    cases neg <;> simp at hk ⊢ <;> (repeat' split at hk) <;> omega
  · rw [if_neg hspecial] at hk
    cases neg <;> simp at hk ⊢ <;> (repeat' split at hk) <;> omega

/-- Settles O17: the selections and the compares by what they do to patterns, `fclass` by the fields of its pattern. -/
theorem fpSelectAndClass : Obligations.FpSelectAndClass := by
  unfold Obligations.FpSelectAndClass
  refine ⟨?_, ?_⟩
  · intro s d a b x y sig any hready hx hy hsig hany
    have hcsig : NanCoded sig := hsig ▸ nanCoded_flNV.ite nanCoded_zero
    have hcany : NanCoded any := hany ▸ nanCoded_flNV.ite nanCoded_zero
    refine ⟨fpDoes_of_minmax (greater := false) rfl hready ?_ hcsig, fpDoes_of_minmax (greater := true) rfl hready ?_ hcsig,
      fpDoes_of_compare (cmp := fcmpEq) rfl hready ?_ hcsig, fpDoes_of_compare (cmp := fcmpLt) rfl hready ?_ hcany,
      fpDoes_of_compare (cmp := fcmpLe) rfl hready ?_ hcany⟩
    all_goals subst hx hy hsig hany
    · simp only [fminmax_eq, Bool.bne_false, decide_eq_true_eq]; rfl
    · simp only [fminmax_eq, Bool.bne_true, Bool.not_eq_true', decide_eq_false_iff_not]; rfl
    · exact fcmpEq_num _ _
    · exact fcmpLt_num _ _
    · exact fcmpLe_num _ _
  · intro s d a m e neg hready hneg he hm
    refine ⟨fclassBit (lowF (gv s a)), aluR_of_ready (fun x => word (2 ^ fclassBit (lowF x))) hready,
      fclassBit_spec (by rw [lowF_sign, hneg]) ?_ ?_ rfl⟩
    · rw [lowF_toNat]; omega
    · rw [lowF_toNat]; omega

end Sys2Proof.Machine
end

section
/-! The software traps and the return from a handler (R170, R171). -/

namespace Sys2Proof.Machine

open Sys2Proof.Said

/-! ### The fields of STATUS after a write of them (R131) -/

/-- A field of STATUS that lies in the five low bits is that of the part written. -/
theorem Slot.extract_setStatus (sl : Slot) (inh : Bool) (pmode mode : BitVec 2) {i n : Nat}
    (h : (~~~(0x1F : Word)).extractLsb' i n = 0#n) : (sl.setStatus inh pmode mode).status.extractLsb' i n =
      (word ((if inh then 16 else 0) + pmode.toNat * 4 + mode.toNat)).extractLsb' i n := by
  unfold Slot.status Slot.setStatus
  rw [Slot.csrv_setCsr_self, BitVec.extractLsb'_or, BitVec.extractLsb'_and, h, BitVec.and_zero, BitVec.zero_or]

@[simp] theorem Slot.mode_setStatus (sl : Slot) (inh : Bool) (pmode mode : BitVec 2) : (sl.setStatus inh pmode mode).mode = mode := by
  refine (sl.extract_setStatus inh pmode mode (by decide)).trans ?_
  revert inh pmode mode; decide

@[simp] theorem Slot.pmode_setStatus (sl : Slot) (inh : Bool) (pmode mode : BitVec 2) : (sl.setStatus inh pmode mode).pmode = pmode := by
  refine (sl.extract_setStatus inh pmode mode (by decide)).trans ?_
  revert inh pmode mode; decide

@[simp] theorem Slot.inh_setStatus (sl : Slot) (inh : Bool) (pmode mode : BitVec 2) : (sl.setStatus inh pmode mode).inh = inh := by
  have hbit (w : Word) : w.getLsbD 4 = (w.extractLsb' 4 1).getLsbD 0 := by simp
  unfold Slot.inh
  rw [hbit, sl.extract_setStatus inh pmode mode (by decide)]
  revert inh pmode mode; decide

/-! ### eret (R171) -/

/-- A return gives STATUS its modes and jumps, in mode S as in mode H. -/
theorem Slot.eret_eq (sl : Slot) : ∃ inh mode pc, sl.eret = (sl.setStatus inh sl.pmode mode).jump pc ∧
    (sl.mode = 1 → inh = false ∧ mode = sl.pmode ∧ pc = align4 (sl.csrv 0x002)) ∧
    (sl.mode ≠ 1 → inh = bit (sl.csrv 0x103) 10 ∧
      mode.toNat = (if fld (sl.csrv 0x103) 8 2 = 2 then 3 else fld (sl.csrv 0x103) 8 2) ∧ pc = align4 (sl.csrv 0x102)) := by
  unfold Slot.eret
  by_cases hmode : sl.mode = 1
  · rw [if_pos hmode]
    exact ⟨_, _, _, rfl, fun _ => ⟨rfl, rfl, rfl⟩, fun h => absurd hmode h⟩
  · rw [if_neg hmode]
    refine ⟨_, _, _, rfl, fun h => absurd h hmode, fun _ => ⟨rfl, ?_, rfl⟩⟩
    have hfield : ((sl.csrv 0x103).extractLsb' 8 2).toNat = fld (sl.csrv 0x103) 8 2 := BitVec.extractLsb'_toNat ..
    rw [← hfield, apply_ite BitVec.toNat]
    have htwo : (sl.csrv 0x103).extractLsb' 8 2 = 2 ↔ ((sl.csrv 0x103).extractLsb' 8 2).toNat = 2 := BitVec.toNat_inj.symm
    exact ite_congr (propext htwo) (fun _ => rfl) (fun _ => rfl)

theorem exec_eret {s : State} (h : s.me.mode ≠ 0) : exec .eret s = .next (s.setMe s.me.eret) := by
  show execEret s = _
  have hpass : s.needS .eret = .ok () := if_neg h
  unfold execEret
  rw [hpass]
  rfl

/-- Settles O11: a trap is a fault and nothing else; a return writes STATUS and the pc of its slot. -/
theorem trapsAndReturn : Obligations.TrapsAndReturn := by
  unfold Obligations.TrapsAndReturn
  refine ⟨fun s => ⟨fun n => run_trap_of_ne s _ (by decide), run_trap_of_ne s 0 (by decide)⟩, fun s hmode => ?_⟩
  obtain ⟨inh, mode, pc, heret, hs, hh⟩ := s.me.eret_eq
  refine ⟨_, exec_eret hmode, s.setMe_sameMemory _, s.setMe_onlySlots _, s.setMe_sameOthers _, ?_⟩
  rw [State.me_setMe, heret]
  have hmode' : ((s.me.setStatus inh s.me.pmode mode).jump pc).mode = mode := s.me.mode_setStatus inh s.me.pmode mode
  have hpmode : ((s.me.setStatus inh s.me.pmode mode).jump pc).pmode = s.me.pmode := s.me.pmode_setStatus inh s.me.pmode mode
  have hinh : ((s.me.setStatus inh s.me.pmode mode).jump pc).inh = inh := s.me.inh_setStatus inh s.me.pmode mode
  rw [hmode', hpmode, hinh]
  refine ⟨fun h => ?_, fun h => ?_, fun i hi => s.me.csrv_setStatus_ne inh _ mode hi, fun _ => rfl, fun _ => rfl, fun _ => rfl, rfl, rfl⟩
  · obtain ⟨hi, hm, hp⟩ := hs h
    exact ⟨hp, hm, hi⟩
  · obtain ⟨hi, hm, hp⟩ := hh h
    exact ⟨hp, hm, hi⟩

end Sys2Proof.Machine
end

section
/-! The integer instructions (R155–R158): what the forms of R154 do, and the operations as the arithmetic of their tables. -/

namespace Sys2Proof.Machine

open Sys2Proof.Said

/-! ### The forms (R154) -/

/-- The form on gA and gB, whose operation answers `v`. -/
theorem aluRR_gives {s : State} {d a b : BitVec 5} (f : Word → Word → Word) {v : Word} (h : s.me.ready [.g a, .g b])
    (hv : f (gv s a) (gv s b) = v) : aluRR d a b f s = .next (s.givesG [.g a, .g b] d v) := by
  rw [aluRR, Slot.gate_of_ready h, stop_bind_ok, Slot.gv_seen, Slot.gv_seen, hv]
  rfl

/-- The form on gA, whose operation answers `v`. -/
theorem aluR_gives {s : State} {d a : BitVec 5} (f : Word → Word) {v : Word} (h : s.me.ready [.g a]) (hv : f (gv s a) = v) :
    aluR d a f s = .next (s.givesG [.g a] d v) := by
  rw [aluR_of_ready f h, hv]

theorem aluDRR_of_ready {s : State} {d a b : BitVec 5} (f : Word → Word → Word → Word) (h : s.me.ready [.g d, .g a, .g b]) :
    aluDRR d a b f s = .next (s.givesG [.g d, .g a, .g b] d (f (gv s d) (gv s a) (gv s b))) := by
  rw [aluDRR, Slot.gate_of_ready h, stop_bind_ok, Slot.gv_seen, Slot.gv_seen, Slot.gv_seen]
  rfl

/-- A destination that is a source and EMPTY is waited for. -/
theorem aluDRR_of_empty {s : State} {d : BitVec 5} (a b : BitVec 5) (f : Word → Word → Word → Word) (h : (s.me.gp d).2 = .empty) :
    aluDRR d a b f s = .next (s.parkMe (.reg (.g d))) := by
  have hd : s.me.presOf (.g d) = .empty := h
  rw [aluDRR, Slot.gate_of_empty (List.find?_cons_of_pos (decide_eq_true hd))]
  rfl

/-! ### Operations on words as arithmetic -/

theorem word_toNat (x : Word) : word x.toNat = x := BitVec.ofNat_toNat ..

theorem shiftLeft_eq_word (x : Word) (n : Nat) : x <<< n = word (x.toNat * 2 ^ n) := by
  apply BitVec.eq_of_toNat_eq
  rw [BitVec.toNat_shiftLeft, Nat.shiftLeft_eq, word, BitVec.toNat_ofNat]

theorem shiftRight_eq_word (x : Word) (n : Nat) : x >>> n = word (x.toNat / 2 ^ n) := by
  rw [← Nat.shiftRight_eq_div_pow, ← BitVec.toNat_ushiftRight, word_toNat]

theorem sshiftRight_eq_ofInt (x : Word) (n : Nat) : x.sshiftRight n = BitVec.ofInt 64 (x.toInt / 2 ^ n) := by
  rw [BitVec.sshiftRight_eq, Int.shiftRight_eq_div_pow]
  norm_cast

theorem boolWord_decide (p : Prop) [Decidable p] : boolWord (decide p) = flag p := by
  simp only [boolWord, decide_eq_true_eq]

theorem boolWord_slt (x y : Word) : boolWord (x.slt y) = flag (x.toInt < y.toInt) := boolWord_decide _

theorem boolWord_lt (x y : Word) : boolWord (decide (x < y)) = flag (x.toNat < y.toNat) := boolWord_decide _

/-! ### min and max -/

/-- A choice between two words, as the number that the chosen one stands for. -/
theorem ite_eq_of_number {α : Type} {p : Prop} [Decidable p] {f : α → Word} {g : Word → α} (hfg : ∀ x, f (g x) = x) {x y : Word}
    {m : α} (hx : p → m = g x) (hy : ¬ p → m = g y) : (if p then x else y) = f m := by
  by_cases h : p
  · rw [if_pos h, hx h, hfg]
  · rw [if_neg h, hy h, hfg]

theorem signed_min (x y : Word) : (if x.slt y then x else y) = BitVec.ofInt 64 (min x.toInt y.toInt) := by
  refine ite_eq_of_number (fun _ => BitVec.ofInt_toInt) (fun h => ?_) (fun h => ?_)
  all_goals rw [BitVec.slt_iff_toInt_lt] at h; omega

theorem signed_max (x y : Word) : (if x.slt y then y else x) = BitVec.ofInt 64 (max x.toInt y.toInt) := by
  refine ite_eq_of_number (fun _ => BitVec.ofInt_toInt) (fun h => ?_) (fun h => ?_)
  all_goals rw [BitVec.slt_iff_toInt_lt] at h; omega

theorem unsigned_min (x y : Word) : (if x < y then x else y) = word (min x.toNat y.toNat) := by
  refine ite_eq_of_number word_toNat (fun h => ?_) (fun h => ?_)
  all_goals rw [BitVec.lt_def] at h; omega

theorem unsigned_max (x y : Word) : (if x < y then y else x) = word (max x.toNat y.toNat) := by
  refine ite_eq_of_number word_toNat (fun h => ?_) (fun h => ?_)
  all_goals rw [BitVec.lt_def] at h; omega

/-! ### The word forms: low 32 bits, sign-extended -/

/-- The low half of a number's word is the number's own low half. -/
theorem sext32_ofInt (i : Int) : sext32 (BitVec.ofInt 64 i) = narrow32 i := by
  have hlow : (BitVec.ofInt 64 i).extractLsb' 0 32 = BitVec.ofInt 32 i := by
    apply BitVec.eq_of_toNat_eq
    rw [BitVec.extractLsb'_toNat, BitVec.toNat_ofInt, BitVec.toNat_ofInt]
    omega
  show BitVec.ofInt 64 ((BitVec.ofInt 64 i).extractLsb' 0 32).toInt = _
  rw [hlow]

theorem sext32_word (n : Nat) : sext32 (word n) = narrow32 (n : Int) := by rw [← sext32_ofInt, BitVec.ofInt_natCast]; rfl

theorem narrow32_congr {i j : Int} (h : i % 2 ^ 32 = j % 2 ^ 32) : narrow32 i = narrow32 j := by
  have hlow : BitVec.ofInt 32 i = BitVec.ofInt 32 j := by
    apply BitVec.eq_of_toNat_eq
    rw [BitVec.toNat_ofInt, BitVec.toNat_ofInt]
    exact congrArg Int.toNat h
  rw [narrow32, hlow]

theorem narrow32_of_range {i : Int} (hlo : -2 ^ 31 ≤ i) (hhi : i < 2 ^ 31) : narrow32 i = BitVec.ofInt 64 i := by
  rw [narrow32, BitVec.toInt_ofInt_eq_self (by decide) hlo hhi]

theorem sext32_eq (x : Word) : sext32 x = BitVec.ofInt 64 (lowInt x) := rfl

theorem lowInt_range (x : Word) : -2 ^ 31 ≤ lowInt x ∧ lowInt x < 2 ^ 31 :=
  ⟨BitVec.le_toInt (x.extractLsb' 0 32), BitVec.toInt_lt (x := x.extractLsb' 0 32)⟩

theorem sext32_add (x y : Word) : sext32 (x + y) = narrow32 (x.toInt + y.toInt) := by
  rw [← sext32_ofInt, BitVec.ofInt_add, BitVec.ofInt_toInt, BitVec.ofInt_toInt]

theorem sext32_sub (x y : Word) : sext32 (x - y) = narrow32 (x.toInt - y.toInt) := by
  rw [← sext32_ofInt, Int.sub_eq_add_neg, BitVec.ofInt_add, BitVec.ofInt_neg, BitVec.ofInt_toInt, BitVec.ofInt_toInt,
    BitVec.sub_eq_add_neg]

theorem sext32_shiftLeft (x : Word) (n : Nat) : sext32 (x <<< n) = narrow32 (x.toNat % 2 ^ 32 * 2 ^ n : Nat) := by
  rw [shiftLeft_eq_word, sext32_word]
  refine narrow32_congr ?_
  norm_cast
  rw [Nat.mod_mul_mod]

theorem sext32_shiftRight (x : Word) (n : Nat) :
    sext32 (word (x.toNat % 2 ^ 32) >>> n) = narrow32 (x.toNat % 2 ^ 32 / 2 ^ n : Nat) := by
  have hlow : (word (x.toNat % 2 ^ 32)).toNat = x.toNat % 2 ^ 32 := Nat.mod_eq_of_lt (by omega)
  rw [shiftRight_eq_word, hlow, sext32_word]

theorem sext32_sshiftRight (x : Word) (n : Nat) : (sext32 x).sshiftRight n = narrow32 (lowInt x / 2 ^ n) := by
  obtain ⟨hlo, hhi⟩ := lowInt_range x
  have hpos : (0 : Int) < 2 ^ n := Int.pow_pos (by decide)
  have hlow : (sext32 x).toInt = lowInt x := by
    rw [sext32_eq, BitVec.toInt_ofInt_eq_self (by decide) (by omega) (by omega)]
  rw [sshiftRight_eq_ofInt, hlow]
  generalize (2 : Int) ^ n = k at hpos ⊢
  rw [narrow32_of_range]
  · exact (Int.le_ediv_iff_mul_le hpos).2 (by omega)
  · exact Int.ediv_lt_of_lt_mul hpos (by omega)

/-! ### Counting bits (R155) -/

theorem popCount_eq (x n : Nat) : popCount x n = ((List.range n).filter (fun i => x.testBit i)).length := by
  induction n with
  | zero => rfl
  | succ n ih =>
    rw [popCount, ih, List.range_succ, List.filter_append, List.length_append, Nat.add_comm]
    cases h : x.testBit n <;> simp [h]

/-- The leading zeros of an `n`-bit value: the value fits below them, and the bit after them is set. -/
theorem leadingZeros_spec {x n : Nat} (h : x < 2 ^ n) : leadingZeros x n ≤ n ∧ x < 2 ^ (n - leadingZeros x n) ∧
    (leadingZeros x n < n → 2 ^ (n - 1 - leadingZeros x n) ≤ x) := by
  induction n with
  | zero => exact ⟨Nat.le_refl 0, h, fun h0 => absurd h0 (Nat.lt_irrefl 0)⟩
  | succ n ih =>
    rw [leadingZeros]
    split
    · next hbit => exact ⟨Nat.zero_le _, h, fun _ => Nat.ge_two_pow_of_testBit hbit⟩
    · next hbit =>
      have hlt : x < 2 ^ n := by
        refine Nat.lt_of_not_le fun hle => hbit ?_
        exact Nat.testBit_of_two_pow_le_and_two_pow_add_one_gt hle h
      obtain ⟨hle, hbelow, hset⟩ := ih hlt
      have hexp : n + 1 - (1 + leadingZeros x n) = n - leadingZeros x n := by omega
      have hexp' : n + 1 - 1 - (1 + leadingZeros x n) = n - 1 - leadingZeros x n := by omega
      rw [hexp, hexp']
      exact ⟨by omega, hbelow, fun hn => hset (by omega)⟩

/-- The trailing zeros from bit `i` on: clear bits, and a set one after them. -/
theorem trailingZeros_spec (x i n : Nat) : trailingZeros x i n ≤ n ∧ (∀ j, j < trailingZeros x i n → x.testBit (i + j) = false) ∧
    (trailingZeros x i n < n → x.testBit (i + trailingZeros x i n) = true) := by
  induction n generalizing i with
  | zero => exact ⟨Nat.le_refl 0, fun j hj => absurd hj (Nat.not_lt_zero j), fun h0 => absurd h0 (Nat.lt_irrefl 0)⟩
  | succ n ih =>
    rw [trailingZeros]
    split
    · next hbit => exact ⟨Nat.zero_le _, fun j hj => absurd hj (Nat.not_lt_zero j), fun _ => hbit⟩
    · next hbit =>
      obtain ⟨hle, hclear, hset⟩ := ih (i + 1)
      refine ⟨by omega, fun j hj => ?_, fun hn => ?_⟩
      · cases j with
        | zero => simpa using hbit
        | succ j => rw [Nat.add_comm j, ← Nat.add_assoc]; exact hclear j (by omega)
      · rw [← Nat.add_assoc]; exact hset (by omega)

/-! ### Fields (R156) -/

theorem fld_zero_six (w : Word) : fld w 0 6 = w.toNat % 64 := rfl

theorem fld_eq (w : Word) (p m : Nat) : fld w p m = w.toNat / 2 ^ p % 2 ^ m := by rw [fld, Nat.shiftRight_eq_div_pow]

theorem fld_six_six (w : Word) : fld w 6 6 = w.toNat / 64 % 64 := fld_eq w 6 6

theorem fieldLen_eq {w : Word} {n m : Nat} (hn : n = if w.toNat / 64 % 64 = 0 then 64 else w.toNat / 64 % 64)
    (hm : m = min n (64 - w.toNat % 64)) : fieldLen w = m := by
  rw [fieldLen, fld_six_six, fld_zero_six, ← hn, hm]

theorem word_mask_getLsbD (m j : Nat) : (word (2 ^ m - 1)).getLsbD j = (decide (j < 64) && decide (j < m)) := by
  rw [word, BitVec.getLsbD_ofNat, Nat.testBit_two_pow_sub_one]

/-- An insertion takes the bits of the field from one word and all others from the other. -/
theorem insert_getLsbD (old x : Word) {p m i : Nat} (hi : i < 64) :
    ((old &&& ~~~(word (2 ^ m - 1) <<< p)) ||| ((x <<< p) &&& (word (2 ^ m - 1) <<< p))).getLsbD i =
      if p ≤ i ∧ i < p + m then x.getLsbD (i - p) else old.getLsbD i := by
  have hmask : (word (2 ^ m - 1) <<< p).getLsbD i = decide (p ≤ i ∧ i < p + m) := by
    rw [BitVec.getLsbD_shiftLeft, word_mask_getLsbD, Bool.eq_iff_iff]
    simp only [Bool.and_eq_true, Bool.not_eq_true', decide_eq_true_eq, decide_eq_false_iff_not]
    omega
  rw [BitVec.getLsbD_or, BitVec.getLsbD_and, BitVec.getLsbD_and, BitVec.getLsbD_not, hmask, BitVec.getLsbD_shiftLeft]
  by_cases hin : p ≤ i ∧ i < p + m
  · rw [if_pos hin]; simp [hin, hi]
  · rw [if_neg hin]; simp [hin, hi]

/-- Settles O12: each instruction by the operation of its form, the counts and the fields by their bits. -/
theorem integerRegister : Obligations.IntegerRegister := by
  unfold Obligations.IntegerRegister
  refine ⟨fun s d a b h => ?_, fun s d a h => ⟨?_, ?_, ?_⟩, fun s d a b p n m hp hn hm => ⟨fun h => ?_, fun h => ?_, fun h => ?_⟩⟩
  · refine ⟨aluRR_gives (· + ·) h rfl, aluRR_gives (· - ·) h rfl, aluRR_gives (· &&& ·) h rfl, aluRR_gives (· ||| ·) h rfl,
      aluRR_gives (· ^^^ ·) h rfl, aluRR_gives (fun x y => x <<< (y.toNat % 64)) h (shiftLeft_eq_word _ _),
      aluRR_gives (fun x y => x >>> (y.toNat % 64)) h (shiftRight_eq_word _ _),
      aluRR_gives (fun x y => x.sshiftRight (y.toNat % 64)) h (sshiftRight_eq_ofInt _ _),
      aluRR_gives (fun x y => boolWord (x.slt y)) h (boolWord_slt _ _),
      aluRR_gives (fun x y => boolWord (decide (x < y))) h (boolWord_lt _ _),
      aluRR_gives (fun x y => if x.slt y then x else y) h (signed_min _ _),
      aluRR_gives (fun x y => if x.slt y then y else x) h (signed_max _ _),
      aluRR_gives (fun x y => if x < y then x else y) h (unsigned_min _ _),
      aluRR_gives (fun x y => if x < y then y else x) h (unsigned_max _ _),
      aluRR_gives (fun x y => sext32 (x + y)) h (sext32_add _ _), aluRR_gives (fun x y => sext32 (x - y)) h (sext32_sub _ _),
      aluRR_gives (fun x y => sext32 (x <<< (y.toNat % 32))) h (sext32_shiftLeft _ _),
      aluRR_gives (fun x y => sext32 (word (x.toNat % 2 ^ 32) >>> (y.toNat % 32))) h (sext32_shiftRight _ _),
      aluRR_gives (fun x y => (sext32 x).sshiftRight (y.toNat % 32)) h (sext32_sshiftRight _ _)⟩
  · obtain ⟨hle, hbelow, hset⟩ := leadingZeros_spec (gv s a).isLt
    exact ⟨_, aluR_of_ready (fun x => word (leadingZeros x.toNat 64)) h, hle, hbelow, hset⟩
  · obtain ⟨hle, hclear, hset⟩ := trailingZeros_spec (gv s a).toNat 0 64
    simp only [Nat.zero_add] at hclear hset
    exact ⟨_, aluR_of_ready (fun x => word (trailingZeros x.toNat 0 64)) h, hle, hclear, hset⟩
  · exact aluR_gives (fun x => word (popCount x.toNat 64)) h (congrArg word (popCount_eq _ 64))
  · refine aluRR_gives (fun x y => word (fld x (fld y 0 6) (fieldLen y))) h ?_
    rw [fld_zero_six, ← hp, fieldLen_eq hn (hp ▸ hm), fld_eq]
  · have hbins : execBins d a b s = _ := aluDRR_of_ready _ h
    have hcsel : execCsel d a b s = _ := aluDRR_of_ready _ h
    refine ⟨⟨_, hbins, fun i hi => ?_⟩, hcsel, ?_⟩
    · rw [fld_zero_six, ← hp, fieldLen_eq hn (hp ▸ hm)]
      exact insert_getLsbD _ _ hi
    · -- a write of g0 is no write (R121)
      rintro rfl
      exact ⟨hbins, hcsel⟩
  · have hbins : execBins d a b s = _ := aluDRR_of_empty a b _ h
    have hcsel : execCsel d a b s = _ := aluDRR_of_empty a b _ h
    exact ⟨hbins, hcsel⟩

end Sys2Proof.Machine
end

section
/-! Multiplication and division (R157): of all quotients only that of −2^63 ÷ −1 does not lie within a register. -/

namespace Sys2Proof.Machine

open Sys2Proof.Said

theorem mul_eq_word (x y : Word) : x * y = word (x.toNat * y.toNat) := by
  apply BitVec.eq_of_toNat_eq
  rw [BitVec.toNat_mul, word, BitVec.toNat_ofNat]

/-- The low half of a product is a product of the low halves. -/
theorem sext32_mul (x y : Word) : sext32 (x * y) = narrow32 (lowInt x * lowInt y) := by
  rw [sext32, BitVec.extractLsb'_mul (by decide), narrow32, BitVec.ofInt_mul, BitVec.ofInt_toInt, BitVec.ofInt_toInt]
  rfl

theorem ofInt_tdiv (x y : Word) : BitVec.ofInt 64 (x.toInt.tdiv y.toInt) = x.sdiv y := by
  apply BitVec.eq_of_toInt_eq
  rw [BitVec.toInt_ofInt, BitVec.toInt_sdiv]

theorem ofInt_tmod (x y : Word) : BitVec.ofInt 64 (x.toInt.tmod y.toInt) = x.srem y := by
  rw [← BitVec.toInt_srem, BitVec.ofInt_toInt]

theorem toInt_ofInt_tdiv {x y : Word} (h : ¬ (x = 0x8000000000000000 ∧ y.toInt = -1)) :
    (BitVec.ofInt 64 (x.toInt.tdiv y.toInt)).toInt = x.toInt.tdiv y.toInt := by
  rw [ofInt_tdiv, BitVec.toInt_sdiv_of_ne_or_ne]
  exact Classical.not_and_iff_not_or_not.1 fun ⟨hx, hy⟩ => h ⟨hx, by rw [hy]; rfl⟩

theorem toInt_ofInt_tmod (x y : Word) : (BitVec.ofInt 64 (x.toInt.tmod y.toInt)).toInt = x.toInt - y.toInt * x.toInt.tdiv y.toInt := by
  rw [ofInt_tmod, BitVec.toInt_srem, Int.tmod_def]

theorem toNat_word_of_le {n : Nat} {x : Word} (h : n ≤ x.toNat) : (word n).toNat = n :=
  Nat.mod_eq_of_lt (Nat.lt_of_le_of_lt h x.isLt)

/-- Settles O13: the products as products of numbers, the quotients and remainders by the cases of their divisor. -/
theorem multiplyDivide : Obligations.MultiplyDivide := by
  unfold Obligations.MultiplyDivide
  intro s d a b h
  have hdiv : execDiv d a b s = _ := aluRR_gives _ h rfl
  have hrem : execRem d a b s = _ := aluRR_gives _ h rfl
  have hdivu : execDivu d a b s = _ := aluRR_gives _ h rfl
  have hremu : execRemu d a b s = _ := aluRR_gives _ h rfl
  refine ⟨aluRR_gives (· * ·) h (mul_eq_word _ _), ?_, ?_, aluRR_gives (fun x y => sext32 (x * y)) h (sext32_mul _ _),
    ⟨_, _, hdiv, hrem, fun h0 => ⟨if_pos h0, if_pos h0⟩, fun ⟨hx, hy⟩ => ?_, fun ⟨h0, hfits⟩ => ?_⟩,
    ⟨_, _, hdivu, hremu, fun h0 => ⟨if_pos h0, if_pos h0⟩, fun h0 => ?_⟩⟩
  · exact aluRR_gives (fun x y => BitVec.ofInt 64 (x.toInt * y.toInt / 2 ^ 64)) h rfl
  · exact aluRR_gives (fun x y => word (x.toNat * y.toNat / 2 ^ 64)) h rfl
  · have h0 : gv s b ≠ 0 := fun e => by rw [e] at hy; exact absurd hy (by decide)
    rw [if_neg h0, if_neg h0, hx, hy]
    exact ⟨rfl, rfl⟩
  · rw [if_neg h0, if_neg h0, toInt_ofInt_tdiv hfits, toInt_ofInt_tmod]
    exact ⟨rfl, rfl⟩
  · rw [if_neg h0, if_neg h0, toNat_word_of_le (Nat.div_le_self _ _), toNat_word_of_le (Nat.mod_le _ _), Nat.mod_eq_sub]
    exact ⟨rfl, rfl⟩

end Sys2Proof.Machine
end

section
/-! Immediate forms, branches and jumps (R158–R161). -/

namespace Sys2Proof.Machine

open Sys2Proof.Said

/-! ### Displacements -/

/-- A sign-extended displacement of `k` bits below is a product with its unit. -/
theorem signExtend_shiftLeft {n : Nat} (x : BitVec n) (k : Nat) : x.signExtend 64 <<< k = BitVec.ofInt 64 (x.toInt * 2 ^ k) := by
  have hunit : BitVec.ofInt 64 (2 ^ k) = BitVec.twoPow 64 k := by
    have hcast : (2 : Int) ^ k = (2 ^ k : Nat) := by norm_cast
    apply BitVec.eq_of_toNat_eq
    rw [hcast, BitVec.ofInt_natCast, BitVec.toNat_ofNat, BitVec.toNat_twoPow]
  rw [BitVec.ofInt_mul, hunit, BitVec.shiftLeft_eq_mul_twoPow]
  rfl

theorem Slot.target_eq {n : Nat} (sl : Slot) (x : BitVec n) : sl.target x = sl.pc + BitVec.ofInt 64 (x.toInt * 4) := by
  rw [Slot.target, signExtend_shiftLeft]
  rfl

@[simp] theorem Slot.seen_nil (sl : Slot) : sl.seen [] = sl := by simp [Slot.seen]

/-! ### Branches (R159) -/

theorem State.setMe_branch_seen (s : State) (l : List Src) (n : BitVec 12) (t : Prop) [Decidable t] :
    s.setMe ((s.me.seen l).branch n (decide t)) = branched s l n t := by
  unfold Slot.branch branched
  simp only [decide_eq_true_eq, Slot.target_eq, Slot.pc_seen]

theorem branchIf_goes {s : State} {a b : BitVec 5} {n : BitVec 12} (f : Word → Word → Bool) {t : Prop} [Decidable t]
    (h : s.me.ready [.g a, .g b]) (ht : f (gv s a) (gv s b) = decide t) :
    branchIf a b n f s = .next (branched s [.g a, .g b] n t) := by
  rw [branchIf, Slot.gate_of_ready h, stop_bind_ok, Slot.gv_seen, Slot.gv_seen, ht, ← State.setMe_branch_seen]
  rfl

/-! ### What the instructions give -/

theorem toInt_signExtend {n : Nat} (x : BitVec n) (h : n ≤ 64) : (x.signExtend 64).toInt = x.toInt := by
  rw [BitVec.toInt_signExtend, Nat.min_eq_right h, BitVec.toInt_bmod_cancel]

/-- Settles O14: the immediate forms, the branches, and the three jumps with their encodings. -/
theorem immediatesAndJumps : Obligations.ImmediatesAndJumps := by
  unfold Obligations.ImmediatesAndJumps
  refine ⟨fun s d a x n u => ⟨fun h => ?_, ?_, ?_⟩, fun s a b n => ⟨fun h => ?_, ?_⟩,
    fun s d a x n => ⟨?_, ?_, fun h => ?_, rfl, rfl, rfl⟩⟩
  · have hunsigned : word x.toNat = x.setWidth 64 := BitVec.ofNat_toNat 64 x
    rw [hunsigned]
    refine ⟨aluR_gives (fun w => w + x.signExtend 64) h rfl, aluR_gives (· &&& x.setWidth 64) h rfl,
      aluR_gives (· ||| x.setWidth 64) h rfl, aluR_gives (· ^^^ x.setWidth 64) h rfl,
      aluR_gives (· <<< n.toNat) h (shiftLeft_eq_word _ _), aluR_gives (· >>> n.toNat) h (shiftRight_eq_word _ _),
      aluR_gives (fun w => w.sshiftRight n.toNat) h (sshiftRight_eq_ofInt _ _),
      aluR_gives (fun w => boolWord (w.slt (x.signExtend 64))) h ?_⟩
    rw [boolWord_slt, toInt_signExtend x (by decide)]
  · show execLui d u s = _
    rw [execLui, signExtend_shiftLeft, State.givesG, Slot.seen_nil]
  · show execAddpc d u s = _
    rw [execAddpc, signExtend_shiftLeft, State.givesG, Slot.seen_nil]
    rfl
  · refine ⟨branchIf_goes (fun x y => decide (x = y)) h rfl, branchIf_goes (fun x y => decide (x ≠ y)) h rfl,
      branchIf_goes (fun x y => x.slt y) h rfl, branchIf_goes (fun x y => !x.slt y) h ?_,
      branchIf_goes (fun x y => decide (x < y)) h rfl, branchIf_goes (fun x y => decide (y ≤ x)) h rfl⟩
    rw [BitVec.slt, ← decide_not]
    exact decide_eq_decide.2 Int.not_lt
  · simp only [← State.setMe_branch_seen, Slot.seen_nil, Bool.decide_eq_true, Bool.decide_eq_false]
    exact ⟨rfl, rfl⟩
  · show execJ n s = _
    rw [execJ, Slot.target_eq]
  · show execJal n s = _
    rw [execJal, Slot.target_eq]
  · show execJalr d a x s = _
    rw [execJalr, Slot.gate_of_ready h, stop_bind_ok, Slot.gv_seen, Slot.pc_seen, signExtend_shiftLeft]
    rfl

end Sys2Proof.Machine
end

section
/-! The Philox generator (R168): its rounds, counted from the first, are those that the model's recursion makes. -/

namespace Sys2Proof.Machine

open Sys2Proof.Said

/-- One round on (x0, x1, x2, x3) under (k0, k1). -/
def philoxRound (x : BitVec 32 × BitVec 32 × BitVec 32 × BitVec 32) (k0 k1 : BitVec 32) :
    BitVec 32 × BitVec 32 × BitVec 32 × BitVec 32 :=
  let p : Word := 0xD2511F53 * x.1.setWidth 64
  let q : Word := 0xCD9E8D57 * x.2.2.1.setWidth 64
  (q.extractLsb' 32 32 ^^^ x.2.1 ^^^ k0, q.extractLsb' 0 32, p.extractLsb' 32 32 ^^^ x.2.2.2 ^^^ k1, p.extractLsb' 0 32)

/-- The state after `n` rounds, whose keys rise by the two constants from round to round. -/
def philoxAfter (x : BitVec 32 × BitVec 32 × BitVec 32 × BitVec 32) (k0 k1 : BitVec 32) :
    Nat → BitVec 32 × BitVec 32 × BitVec 32 × BitVec 32
  | 0 => x
  | n + 1 => philoxRound (philoxAfter x k0 k1 n) (k0 + BitVec.ofNat 32 (n * 0x9E3779B9)) (k1 + BitVec.ofNat 32 (n * 0xBB67AE85))

section Rounds

variable (x : BitVec 32 × BitVec 32 × BitVec 32 × BitVec 32) (k0 k1 : BitVec 32)

theorem philox_succ (n : Nat) :
    philox (n + 1) x k0 k1 = philox n (philoxRound x k0 k1) (k0 + 0x9E3779B9) (k1 + 0xBB67AE85) := by
  obtain ⟨x0, x1, x2, x3⟩ := x
  -- unfolded on both sides, so that the kernel compares the rounds and never counts up to a constant
  delta philox
  dsimp only [philoxRound]

theorem key_succ (k : BitVec 32) (c n : Nat) :
    k + BitVec.ofNat 32 (n * c) + BitVec.ofNat 32 c = k + BitVec.ofNat 32 ((n + 1) * c) := by
  rw [BitVec.add_assoc, ← BitVec.ofNat_add, Nat.succ_mul]

/-- After `i` rounds, `n` more under the keys of that round give the state after `i + n`. -/
theorem philox_philoxAfter (n i : Nat) :
    philox n (philoxAfter x k0 k1 i) (k0 + BitVec.ofNat 32 (i * 0x9E3779B9)) (k1 + BitVec.ofNat 32 (i * 0xBB67AE85)) =
      philoxAfter x k0 k1 (i + n) := by
  induction n generalizing i with
  | zero => rfl
  | succ n ih =>
    have h := ih (i + 1)
    rw [← key_succ, ← key_succ, Nat.add_assoc, Nat.add_comm 1] at h
    rw [philox_succ]
    exact h

end Rounds

theorem philox10_eq (a b : Word) : philox10 a b =
    philoxAfter (b.extractLsb' 0 32, b.extractLsb' 32 32, 0, 0) (a.extractLsb' 0 32) (a.extractLsb' 32 32) 10 := by
  have h := philox_philoxAfter (b.extractLsb' 0 32, b.extractLsb' 32 32, 0, 0) (a.extractLsb' 0 32) (a.extractLsb' 32 32) 10 0
  have h0 (k : BitVec 32) (c : Nat) : k + BitVec.ofNat 32 (0 * c) = k := by rw [Nat.zero_mul, BitVec.add_zero]
  rwa [h0, h0, Nat.zero_add] at h

/-- g0 is a source that is never VOID (R121). -/
theorem Slot.seen_g0 (sl : Slot) : sl.seen [.g 0, .g 0] = sl := by
  have h0 : sl.presOf (.g 0) ≠ .void := by rw [Slot.presOf, Slot.gp_zero]; decide
  exact if_neg (by simpa using h0)

theorem Slot.ready_g0 (sl : Slot) : sl.ready [.g 0, .g 0] := by
  have h0 : sl.presOf (.g 0) ≠ .empty := by rw [Slot.presOf, Slot.gp_zero]; decide
  simpa [Slot.ready] using h0

/-- With g0 for key and counter. -/
theorem aluRR_g0 (s : State) (d : BitVec 5) (f : Word → Word → Word) : aluRR d 0 0 f s = .next (s.givesG [] d (f 0 0)) := by
  rw [aluRR_gives f s.me.ready_g0 rfl, State.givesG, State.givesG, Slot.seen_g0, Slot.seen_nil]
  rfl

theorem philox10_zero : philox10 0 0 = (0x6627E8D5, 0xE169C58D, 0xBC57AC4C, 0x9B00DBD8) := by decide

/-- Settles O15: the rounds by their recursion, the two worked values by computing them. -/
theorem philoxGenerator : Obligations.PhiloxGenerator := by
  unfold Obligations.PhiloxGenerator
  refine ⟨fun s d a b h => ?_, fun s => ⟨?_, ?_⟩, fun d a b => ⟨rfl, rfl⟩⟩
  · refine ⟨philoxAfter ((gv s b).extractLsb' 0 32, (gv s b).extractLsb' 32 32, 0, 0) ((gv s a).extractLsb' 0 32)
      ((gv s a).extractLsb' 32 32), rfl, fun _ _ => rfl, ?_, ?_⟩
    all_goals rw [← philox10_eq]
    · exact aluRR_gives (fun x y => let r := philox10 x y; r.2.1 ++ r.1) h rfl
    · exact aluRR_gives (fun x y => let r := philox10 x y; r.2.2.2 ++ r.2.2.1) h rfl
  · refine (aluRR_g0 s 1 (fun x y => let r := philox10 x y; r.2.1 ++ r.1)).trans ?_
    rw [philox10_zero]; rfl
  · refine (aluRR_g0 s 1 (fun x y => let r := philox10 x y; r.2.2.2 ++ r.2.2.1)).trans ?_
    rw [philox10_zero]; rfl

end Sys2Proof.Machine
end

section
/-! The fused operations and the conversions of scalar FP32 (R166, R167). -/

namespace Sys2Proof.Machine

open Sys2Proof.Said

@[simp] theorem Slot.fzi_seen (sl : Slot) (l : List Src) : (sl.seen l).fzi = bit (sl.csrv 0x012) 2 := by simp [Slot.fzi]

/-! ### With NSAT and TNV 0 an operation completes (R150) -/

theorem untrapped_of_clear {s : State} (hnsat : bit (s.me.csrv 0x012) 4 = false) (htnv : bit (s.me.csrv 0x012) 5 = false) (f : Fl) :
    untrapped s f := by
  unfold untrapped
  rw [hnsat, htnv]
  exact ⟨fun h => Bool.false_ne_true h.1, fun h => Bool.false_ne_true h.1⟩

theorem completes_of_fpDoes {s : State} {i : Instr} {l : List Src} {d : BitVec 5} {r : Word × Fl} (h : FpDoes s i l d r)
    (hnsat : bit (s.me.csrv 0x012) 4 = false) (htnv : bit (s.me.csrv 0x012) 5 = false) : Completes s i := by
  obtain ⟨hdone, -⟩ := h
  refine completes_of_advance (hdone (untrapped_of_clear hnsat htnv _)) (by simp [Slot.wrG]) ?_
  rw [Slot.status_wrG]
  exact (Slot.csrv_setCsr_ne _ _ (by decide)).trans (s.me.status_seen l)

/-! ### The fused operations (R167) -/

theorem fmaExact_nanCoded (rm : Nat) (x y z : Num) : NanCoded (fmaExact rm x y z).fl :=
  (addExact_nanCoded _ _ _).or (mulExact_nanCoded _ _)

theorem fpDoes_of_fpRRR {s : State} {i : Instr} {d a b c : BitVec 5} {op : Nat → Num → Num → Num → Exact}
    (hexec : exec i s = fpRRR d a b c (fun sl => op sl.rm) s) (hop : ∀ m x y z, NanCoded (op m x y z).fl)
    (hready : s.me.ready [.g a, .g b, .g c]) :
    FpDoes s i [.g a, .g b, .g c] d (rounded s (op (rm s) (fv s a) (fv s b) (fv s c))) := by
  refine fpDoes_of_fpEnd ?_ fun h => absurd (Fmt.result_nanCoded _ _ _ (hop _ _ _ _)) h
  rw [hexec, fpRRR, Slot.gate_of_ready hready, stop_bind_ok, Slot.gv_seen, Slot.gv_seen, Slot.gv_seen, State.rounded_seen, Slot.rm_seen]
  rfl

theorem ffma_does {s : State} {a b c : BitVec 5} (d : BitVec 5) (hready : s.me.ready [.g a, .g b, .g c]) :
    FpDoes s (.ffma d a b c) [.g a, .g b, .g c] d (rounded s (fmaExact (rm s) (fv s a) (fv s b) (fv s c))) :=
  fpDoes_of_fpRRR (op := fmaExact) rfl fmaExact_nanCoded hready

theorem ffms_does {s : State} {a b c : BitVec 5} (d : BitVec 5) (hready : s.me.ready [.g a, .g b, .g c]) :
    FpDoes s (.ffms d a b c) [.g a, .g b, .g c] d (rounded s (fmaExact (rm s) (fv s a) (fv s b) (fv s c).neg)) :=
  fpDoes_of_fpRRR (op := fun m x y z => fmaExact m x y z.neg) rfl (fun m x y z => fmaExact_nanCoded m x y z.neg) hready

theorem fnma_does {s : State} {a b c : BitVec 5} (d : BitVec 5) (hready : s.me.ready [.g a, .g b, .g c]) :
    FpDoes s (.fnma d a b c) [.g a, .g b, .g c] d (rounded s (fmaExact (rm s) (fv s a).neg (fv s b) (fv s c))) :=
  fpDoes_of_fpRRR (op := fun m x y z => fmaExact m x.neg y z) rfl (fun m x y z => fmaExact_nanCoded m x.neg y z) hready

/-! ### The flags of a conversion (R147, R150) -/

/-- Flags in which a NaN without a code comes with NV. -/
def NanInvalid (f : Fl) : Prop := f &&& flNoNan ≠ 0 → f &&& flNV ≠ 0

theorem NanCoded.nanInvalid {f : Fl} (h : NanCoded f) : NanInvalid f := fun hn => absurd h hn

theorem nanInvalid_noNan : NanInvalid (flNV ||| flNoNan) := fun _ => by decide

theorem Fmt.conv_nanInvalid (f : Fmt) (rm : Nat) (fzo : Bool) (x : Num) : NanInvalid (f.conv rm fzo x).2 := by
  unfold Fmt.conv
  cases x with
  | nan s sig =>
    dsimp only
    split
    · exact nanInvalid_noNan
    · exact (nanCoded_nvIf sig).nanInvalid
  | inf s =>
    dsimp only
    split
    · exact nanCoded_zero.nanInvalid
    · exact nanCoded_flOF.nanInvalid
  | fin s m e => exact (f.round_nanCoded ..).nanInvalid

theorem toInt_nanInvalid (lo hi : Int) (x : Num) : NanInvalid (toInt lo hi x).2 := by
  unfold toInt
  cases x with
  | nan s sig => exact nanInvalid_noNan
  | inf s => exact nanCoded_flNV.nanInvalid
  | fin s m e =>
    refine NanCoded.nanInvalid ?_
    simp only [apply_ite Prod.snd]
    exact nanCoded_flNV.ite (nanCoded_flNV.ite (nanCoded_flNX.ite nanCoded_zero))

theorem Slot.fcvt_nanInvalid (sl : Slot) (f t : Nat) (x : Word) : NanInvalid (sl.fcvt f t x).2 := by
  unfold Slot.fcvt
  dsimp only
  split
  · exact Fmt.conv_nanInvalid _ _ _ _
  · exact toInt_nanInvalid _ _ _
  · exact Fmt.conv_nanInvalid _ _ _ _
  · exact nanCoded_zero.nanInvalid

/-! ### What fcvt does (R166) -/

theorem fcvt_does {s : State} {a : BitVec 5} (d : BitVec 5) (f t : BitVec 3) (hready : s.me.ready [.g a]) :
    FpDoes s (.fcvt d a f t) [.g a] d ((s.me.seen [.g a]).fcvt f.toNat t.toNat (gv s a)) := by
  refine fpDoes_of_fpEnd ?_ (Slot.fcvt_nanInvalid _ _ _ _)
  show execFcvt d a f t s = _
  rw [execFcvt, Slot.gate_of_ready hready, stop_bind_ok, Slot.gv_seen]

/-! ### The formats of R163 -/

theorem scalarFmt_of_mem {f : BitVec 3} {p : Fmt} {w : Nat} (h : (f, p, w) ∈ scalarFloat) : scalarFmt f.toNat = some (p, w) := by
  simp only [scalarFloat, List.mem_cons, List.not_mem_nil, or_false, Prod.mk.injEq] at h
  obtain ⟨rfl, rfl, rfl⟩ | ⟨rfl, rfl, rfl⟩ | ⟨rfl, rfl, rfl⟩ | ⟨rfl, rfl, rfl⟩ | ⟨rfl, rfl, rfl⟩ := h
  all_goals rfl

/-- An integer format is no floating one; its range is not empty. -/
theorem scalarInt_of_mem {f : BitVec 3} {lo hi v : Int} {x : Word} (h : (f, lo, hi, v) ∈ scalarInteger x) :
    scalarFmt f.toNat = none ∧ scalarInt f.toNat x = v ∧ intRange f.toNat = (lo, hi) ∧ lo ≤ hi := by
  simp only [scalarInteger, List.mem_cons, List.not_mem_nil, or_false, Prod.mk.injEq] at h
  obtain ⟨rfl, rfl, rfl, rfl⟩ | ⟨rfl, rfl, rfl, rfl⟩ | ⟨rfl, rfl, rfl, rfl⟩ := h
  all_goals exact ⟨rfl, rfl, rfl, by decide⟩

theorem clampInt_eq {lo hi : Int} (h : lo ≤ hi) (x : Int) : clampInt lo hi x = max lo (min hi x) := by
  unfold clampInt
  split
  · omega
  · split <;> omega

/-! ### The conversions, by the kinds of their formats -/

section Conversions

variable {s : State} {l : List Src} {f t : BitVec 3} {x : Word}

theorem format_toNat_eq_zero : t.toNat = 0 ↔ t = 0 := BitVec.toNat_inj (y := 0#3)

theorem fcvt_float_float {p q : Fmt} {w v : Nat} (hf : (f, p, w) ∈ scalarFloat) (ht : (t, q, v) ∈ scalarFloat) :
    (s.me.seen l).fcvt f.toNat t.toNat x = floatOut s t q (floatIn s f p w x) := by
  unfold Slot.fcvt floatOut floatIn
  simp only [scalarFmt_of_mem hf, scalarFmt_of_mem ht, Slot.rm_seen, Slot.fzo_seen, Slot.fzi_seen, format_toNat_eq_zero]
  rfl

theorem fcvt_float_int {p : Fmt} {w : Nat} {lo hi v : Int} (hf : (f, p, w) ∈ scalarFloat) (ht : (t, lo, hi, v) ∈ scalarInteger x) :
    (s.me.seen l).fcvt f.toNat t.toNat x =
      (BitVec.ofInt 64 (toInt lo hi (floatIn s f p w x)).1, (toInt lo hi (floatIn s f p w x)).2) := by
  obtain ⟨hfmt, -, hrange, -⟩ := scalarInt_of_mem ht
  unfold Slot.fcvt floatIn
  simp only [scalarFmt_of_mem hf, hfmt, hrange, Slot.fzi_seen]
  rfl

theorem fcvt_int_float {q : Fmt} {v : Nat} {lo hi i : Int} (hf : (f, lo, hi, i) ∈ scalarInteger x) (ht : (t, q, v) ∈ scalarFloat) :
    (s.me.seen l).fcvt f.toNat t.toNat x = floatOut s t q (ofInt i) := by
  obtain ⟨hfmt, hint, -, -⟩ := scalarInt_of_mem hf
  unfold Slot.fcvt floatOut
  simp only [hfmt, hint, scalarFmt_of_mem ht, Slot.rm_seen, Slot.fzo_seen, format_toNat_eq_zero]

theorem fcvt_int_int {lo hi i lo' hi' j : Int} (hf : (f, lo, hi, i) ∈ scalarInteger x) (ht : (t, lo', hi', j) ∈ scalarInteger x) :
    (s.me.seen l).fcvt f.toNat t.toNat x = (BitVec.ofInt 64 (max lo' (min hi' i)), 0) := by
  obtain ⟨hfmt, hint, -, -⟩ := scalarInt_of_mem hf
  obtain ⟨hfmt', -, hrange, hle⟩ := scalarInt_of_mem ht
  unfold Slot.fcvt
  simp only [hfmt, hfmt', hint, hrange, clampInt_eq hle]

/-- An integer into f32 is rounded as the result of an operation is (R145). -/
theorem floatOut_f32 (s : State) (i : Int) : floatOut s 0 .f32 (ofInt i) = rounded s (exact (ofInt i)) := by
  have hround : Fmt.f32.result (rm s) (bit (s.me.csrv 0x012) 3) (exact (ofInt i)) =
      Fmt.f32.conv (rm s) (bit (s.me.csrv 0x012) 3) (ofInt i) := Prod.ext rfl BitVec.or_zero
  unfold floatOut rounded
  rw [hround]
  simp only [if_true, decide_true, Bool.and_true]

end Conversions

/-- Settles O18: the fused operations by their exact value, `fcvt` by the kinds of its formats; no flags stop an operation while NSAT
and TNV are 0. -/
theorem fpFusedAndConvert : Obligations.FpFusedAndConvert := by
  unfold Obligations.FpFusedAndConvert
  intro s d a b c f t
  refine ⟨fun hnsat htnv => ⟨fun h => ?_, fun h => ⟨?_, ?_, ?_⟩⟩, fun h => ⟨ffma_does d h, ffms_does d h, fnma_does d h⟩, fun h => ?_⟩
  · exact completes_of_fpDoes (fcvt_does d f t h) hnsat htnv
  · exact completes_of_fpDoes (ffma_does d h) hnsat htnv
  · exact completes_of_fpDoes (ffms_does d h) hnsat htnv
  · exact completes_of_fpDoes (fnma_does d h) hnsat htnv
  have hfcvt := fcvt_does d f t h
  refine ⟨fun p w q v hf ht => ?_, fun p w lo hi x hf ht => ?_, fun lo hi x q w hf ht => ?_, fun lo hi x l h y hf ht => ?_, ?_⟩
  · rwa [fcvt_float_float hf ht] at hfcvt
  · rwa [fcvt_float_int hf ht] at hfcvt
  · rwa [fcvt_int_float hf ht] at hfcvt
  · rwa [fcvt_int_int hf ht] at hfcvt
  · rintro ⟨rfl, rfl⟩
    have hi32 : ((6 : BitVec 3), -(2 ^ 31 : Int), (2 ^ 31 - 1 : Int), lowInt (gv s a)) ∈ scalarInteger (gv s a) := by simp [scalarInteger]
    have hf32 : ((0 : BitVec 3), Fmt.f32, 32) ∈ scalarFloat := by simp [scalarFloat]
    rwa [fcvt_int_float hi32 hf32, floatOut_f32] at hfcvt

end Sys2Proof.Machine
end
